-- ==== Sys2Proof/Word.lean ====
section
/-! DEFINITION. The word types of the Gnomapra 3 and the sparse tables that hold its memories (R7, R8, R189). -/

namespace Sys2Proof

/-- A 64-bit value: an x or s register, a PC, a virtual address (R212, R219). -/
abbrev Word := BitVec 64

/-- One byte of memory (R7). -/
abbrev Byte := BitVec 8

/-- One 32-bit element of a vector register (R3). -/
abbrev Elem := BitVec 32

/-- A set of lanes of a gang: bit l is lane l, 0 to 127 (R152). -/
abbrev Mask := BitVec 128

/-- A sparse table in one canonical form: keys strictly rising, no entry equal to what an unlisted key reads as. -/
abbrev Tab (α : Type) := List (Nat × α)

/-- Bits [hi:lo] of a number, written as the spec writes a bit range (R7). -/
def bits (n hi lo : Nat) : Nat := n / 2 ^ lo % 2 ^ (hi + 1 - lo)

/-- Bit k of a number. -/
def bitAt (n k : Nat) : Bool := n / 2 ^ k % 2 == 1

/-- A Bool as the number 0 or 1. -/
def b2n (b : Bool) : Nat := if b then 1 else 0

end Sys2Proof
end

