-- ==== Sys2Proof/Syntax.lean ====
section
/-! DEFINITION. The instructions and device steps of spec/opcode_table.json: one constructor of `Instr` per row, with its
operands as the encodings of R205 to R221 and the entries of the instruction chapters name them. -/

namespace Sys2Proof

/-- An x or s register field (R219). -/
abbrev Reg := BitVec 5
/-- A v register field (R219). -/
abbrev VReg := BitVec 9
/-- A predicate number (R219). -/
abbrev PReg := BitVec 4
/-- An operand block field (R219). -/
abbrev Blk := BitVec 5
/-- An accumulator tile field (R219). -/
abbrev AccReg := BitVec 3

/-- What a head adds to its opcode (R207): guard predicate, guard sense and flag select. -/
structure Hd where
  gp : PReg
  gs : Bool
  fs : Bool
deriving DecidableEq, Repr

/-- A branch target: the B layout of R214, a signed line displacement and a head index. -/
structure Target where
  disp : BitVec 26
  idx : BitVec 6
deriving DecidableEq, Repr

/-- The operands of a three-register instruction (R244). -/
structure R3 where
  xd : Reg
  xa : Reg
  xb : Reg
  g : Bool
deriving DecidableEq, Repr

/-- The operands of a one-source instruction (R245). -/
structure R2 where
  xd : Reg
  xa : Reg
  g : Bool
deriving DecidableEq, Repr

/-- Two registers and a 16-bit immediate (R246); also a memory operand [xa + imm] with its register (R278). -/
structure RI where
  xd : Reg
  xa : Reg
  imm : BitVec 16
  g : Bool
deriving DecidableEq, Repr

/-- A memory operand without a data register (R286, R287). -/
structure MemOp where
  xa : Reg
  imm : BitVec 16
  g : Bool
deriving DecidableEq, Repr

/-- Registers xd, xa, xb and the shift s of an indexed access (R281). -/
structure RX where
  xd : Reg
  xa : Reg
  xb : Reg
  s : BitVec 3
  g : Bool
deriving DecidableEq, Repr

/-- The shift amount of R250: an immediate, or a register's low six bits. -/
inductive ShAmt where
  | imm (n : BitVec 6)
  | reg (xb : Reg)
deriving DecidableEq, Repr

/-- The variants of `mulh` (R248). -/
inductive MulhKind where
  | ss | uu | su
deriving DecidableEq, Repr

/-- The conditions of `cmp` and `cmpi` (R256). -/
inductive Cond where
  | eq | ne | ltI | geI | ltN | geN
deriving DecidableEq, Repr

/-- How a comparison combines with the destination predicate (R256). -/
inductive Comb where
  | set | and | or
deriving DecidableEq, Repr

/-- The conditions of `fcmp` (R265); `vcmp` has the same eight in its own order (R329). -/
inductive FCond where
  | eq | ne | lt | le | gt | ge | un | ord
deriving DecidableEq, Repr

/-- Rounding modes (R196). -/
inductive Rnd where
  | rn | rz | ru | rd | rs
deriving DecidableEq, Repr

/-- The formats of `fcvt` and of the source of `vcvt` (R266). -/
inductive XFmt where
  | i32 | n32 | f32 | f64 | f16 | bf16 | i16 | n16 | i8 | n8 | e4m3 | e5m2 | e4m3z | e2m1 | i64 | n64
deriving DecidableEq, Repr

/-- The lane element types of the V4 type field (R215). -/
inductive Ety where
  | i32 | n32 | f32 | f64 | f16 | bf16 | i16 | n16 | i8 | n8 | f16x2 | bf16x2 | i16x2 | i8x4 | i64 | n64
deriving DecidableEq, Repr

/-- The operand formats of the matrix engine (R216). -/
inductive MFmt where
  | f16 | bf16 | e4m3 | e5m2 | e4m3z | i8 | e2m1 | i4 | l4 | i4x
deriving DecidableEq, Repr

/-- The narrow formats of `vpack` and `vunpk` (R332). -/
inductive PFmt where
  | f16 | bf16 | i16 | n16 | i8 | n8 | e4m3 | e5m2 | e4m3z | e2m1 | i4
deriving DecidableEq, Repr

/-- The wide type of `vpack` and `vunpk` (R333, R334). -/
inductive WTy where
  | f32 | i32 | n32
deriving DecidableEq, Repr

/-- Load size codes (R282). -/
inductive LdSize where
  | n8 | n16 | n32 | n64 | i8 | i16 | i32
deriving DecidableEq, Repr

/-- Store size codes (R282). -/
inductive StSize where
  | n8 | n16 | n32 | n64
deriving DecidableEq, Repr

/-- Scopes, narrowest first (R13, R289). -/
inductive Scope where
  | th | tm | cl | dv | sy
deriving DecidableEq, Repr

/-- The scopes of `ld.acq` and `st.rel` (R281). -/
inductive Scope4 where
  | tm | cl | dv | sy
deriving DecidableEq, Repr

/-- Ordering annotations of an atomic (R289). -/
inductive Ord where
  | none | acq | rel | ar
deriving DecidableEq, Repr

/-- The atomic operations (R290). -/
inductive AmoOp where
  | add | and | or | xor | swap | minI | maxI | minN | maxN | fadd | fmin | fmax
deriving DecidableEq, Repr

/-- The sign operations of `fsgn` (R268). -/
inductive SgnOp where
  | cp | ncp | xor
deriving DecidableEq, Repr

/-- The element sizes of `cpyg` (R297): 4 to 256 bytes, and the invalid code 7. -/
inductive Esz where
  | w4 | w8 | w16 | w32 | w64 | w128 | w256 | bad
deriving DecidableEq, Repr

/-- The four letters of a fence set (R294). -/
structure FSet where
  l : Bool
  s : Bool
  c : Bool
  m : Bool
deriving DecidableEq, Repr

/-- Combining operations of `vred`, `vscan`, `vseg` (R341). -/
inductive RedOp where
  | add | min | max | and | or | xor
deriving DecidableEq, Repr

/-- The amount of a vector shift (R328): per element from vb, or the constant of the vc field. -/
inductive VAmt where
  | reg (vb : VReg)
  | imm (n : BitVec 9)
deriving DecidableEq, Repr

/-- The constant of `vsplat` (R339). -/
inductive SplatSrc where
  | imm (n : BitVec 16)
  | sreg (s : Reg)
deriving DecidableEq, Repr

/-- The lane number of `vbcast` and `vrot` (R339). -/
inductive LaneSrc where
  | imm (n : BitVec 7)
  | sreg (s : Reg)
deriving DecidableEq, Repr

/-- Address modes of `vld` and `vst` (R347). -/
inductive VMode where
  | unit
  | stride
  | index (va : VReg) (sh : BitVec 3)
deriving DecidableEq, Repr

/-- The operation of `vamo`: one of R290, or compare-and-swap with its new value (R349). -/
inductive VAmoOp where
  | op (o : AmoOp)
  | cas (vc : VReg)
deriving DecidableEq, Repr

/-- The target of `mrd` (R366). -/
inductive MrdKind where
  | raw
  | fp (f : MFmt) (rm : Rnd) (sat : Bool)
  | i8 (sat : Bool)
deriving DecidableEq, Repr

/-- The operands of an element instruction with two vector sources and a rounding mode (R323). -/
structure VA where
  ty : Ety
  rm : Rnd
  sat : Bool
  vd : VReg
  va : VReg
  vb : VReg
deriving DecidableEq, Repr

/-- Three vector registers (R327). -/
structure V3 where
  vd : VReg
  va : VReg
  vb : VReg
deriving DecidableEq, Repr

/-- The operands of `mma` and `mrot` (R360, R361). -/
structure MM where
  acc : AccReg
  va : Blk
  vb : Blk
  vs : VReg
  fa : MFmt
  fb : MFmt
  mx : Bool
  z : Bool
deriving DecidableEq, Repr

/-- A context: a barrel context (wide = false, ctx 0 to 15), the system context (ctx 16) or a gang context (R153, R274). -/
structure CtxId where
  cluster : Nat
  tile : Nat
  wide : Bool
  core : Nat
  ctx : Nat
deriving DecidableEq, Repr

/-- A team: the launch's own number in the model and the team number (R152). -/
structure TeamId where
  launch : Nat
  team : Nat
deriving DecidableEq, Repr

/-- A queue: partition, virtual function and queue number (R398). -/
structure QueueId where
  part : Nat
  vf : Nat
  q : Nat
deriving DecidableEq, Repr

/-- A scalar core of the device, as a sharer pointer names it within its cluster (R62). -/
structure CoreId where
  cluster : Nat
  tile : Nat
  core : Nat
deriving DecidableEq, Repr

/-- A frontier instance (R131): of a team, a cluster, the device or the job. -/
inductive Inst where
  | team (t : TeamId)
  | cluster (part c : Nat)
  | device (part : Nat)
  | system (part : Nat)
deriving DecidableEq, Repr

/-- A counting unit that takes batches (R144). -/
inductive Unit4 where
  | tile (cluster rank : Nat)
  | cluster (c : Nat)
  | device
  | aggregator
deriving DecidableEq, Repr

/-- The reason of a pre-emption (R386). -/
inductive PreReason where
  | sliceEnd | higherPriority | migration | tenantSwitch
deriving DecidableEq, Repr

/-- An access kind (R28, R48). -/
inductive AccKind where
  | load | store | fetch | atomic | writeBack
deriving DecidableEq, Repr

/-- A structure that an error is found in (R78). -/
inductive ErrStruct where
  | scalarL1 | wideL1 | scratchpad | clusterCache | quire | regFile | accTile | pte
deriving DecidableEq, Repr

/-- What a debug access names within a gang (R405). -/
inductive DebugItem where
  | v (r lane : Nat)
  | s (r : Nat)
  | pred (p : Nat)
  | flag (f : Nat)
  | acc (tile row col : Nat)
  | stack (n : Nat)
deriving DecidableEq, Repr

/-- A writable queue register (R398). -/
inductive QReg where
  | qbase | qsize | qpt | qctl
deriving DecidableEq, Repr

/-- What a device link delivers (R406, R407). -/
inductive LinkMsg where
  | load (pa len : Nat)
  | store (pa : Nat) (data : List Byte)
  | add (pa : Nat) (operand : Word)
  /-- A batch of SYSTEM changes by its number at the sender: partition, location, folio and change of each (R144). -/
  | counts (num : Nat) (batch : List (Nat × Nat × Word × Int))
  | frontier (part loc : Nat) (folio : Option Word)
  /-- The aggregating device has applied a batch (R146). -/
  | countAck (num : Nat)
  /-- Whether the aggregating device holds a count at locations of a partition is asked, and answered (R138, log 92). -/
  | countQuery (part : Nat) (locs : List Nat)
  | countState (part : Nat) (busy : Bool)
  | message (num part cls team : Nat) (loc folio : Word) (payload : List Word) (sender senderTeam : Word)
  | accepted (msg : Nat)
deriving DecidableEq, Repr

/-- A part of R410. -/
inductive Part where
  | tile (cluster rank : Nat)
  | stack (n : Nat)
  | link (n : Nat)
  | managementCore
  | helperCore (n : Nat)
deriving DecidableEq, Repr

/-- The configuration that the firmware keeps for a partition (R397), with its time slice in cc, 0 for none (R387). Ranges are
(base, length). -/
structure PartConfig where
  num : Nat
  pairs : List (Nat × Nat)
  devRanges : List (Nat × Nat)
  hostVisible : List (Nat × Nat)
  hostRanges : List (Nat × Nat)
  claddr : Nat
  tenant : Word
  slice : Nat
deriving DecidableEq, Repr

/-- What a tenant switch brings in: the tenant's identifier, and the configuration where it changes (R389, R397). -/
structure Incoming where
  tenant : Word
  cfg : Option PartConfig
deriving DecidableEq, Repr

/-- The rows of spec/opcode_table.json. The first part are the instructions of FIS-3 with their heads and operands; from
`sleepExpiry` on they are the device's own steps, each with what names its subject. -/
inductive Instr where
  -- control (R234 to R243)
  | br (h : Hd) (t : Target)
  | jal (h : Hd) (xd : Reg) (t : Target)
  | jalr (h : Hd) (xd xa : Reg) (lines : BitVec 16)
  | call (h : Hd) (t : Target)
  | callr (h : Hd) (xa : Reg)
  | ret (h : Hd)
  | loop (h : Hd) (xa : Reg) (t : Target)
  | trap (h : Hd) (code : BitVec 16)
  | sysc (h : Hd) (code : BitVec 16)
  | brk (h : Hd) (code : BitVec 16)
  | eret (h : Hd)
  | nop (h : Hd)
  | yield (h : Hd)
  | sleep (h : Hd) (ticks : BitVec 16)
  | exit (h : Hd) (xa : Reg)
  -- integer (R244 to R255)
  | add (h : Hd) (r : R3)
  | sub (h : Hd) (r : R3)
  | mul (h : Hd) (r : R3)
  | and (h : Hd) (r : R3)
  | or (h : Hd) (r : R3)
  | xor (h : Hd) (r : R3)
  | andn (h : Hd) (r : R3)
  | orn (h : Hd) (r : R3)
  | xnor (h : Hd) (r : R3)
  | clz (h : Hd) (r : R2)
  | ctz (h : Hd) (r : R2)
  | popc (h : Hd) (r : R2)
  | brev (h : Hd) (r : R2)
  | bswap (h : Hd) (r : R2)
  | mov (h : Hd) (r : R2)
  | addi (h : Hd) (r : RI)
  | andi (h : Hd) (r : RI)
  | ori (h : Hd) (r : RI)
  | xori (h : Hd) (r : RI)
  | li (h : Hd) (xd : Reg) (imm : BitVec 32) (g : Bool)
  | liZ (h : Hd) (xd : Reg) (imm : BitVec 32) (g : Bool)
  | liHi (h : Hd) (xd xa : Reg) (imm : BitVec 32) (g : Bool)
  | addpc (h : Hd) (xd : Reg) (t : Target) (g : Bool)
  | mulh (h : Hd) (k : MulhKind) (r : R3)
  | div (h : Hd) (uns : Bool) (r : R3)
  | rem (h : Hd) (uns : Bool) (r : R3)
  | shl (h : Hd) (r : R2) (amt : ShAmt)
  | shr (h : Hd) (r : R2) (amt : ShAmt)
  | sar (h : Hd) (r : R2) (amt : ShAmt)
  | rotr (h : Hd) (r : R2) (amt : ShAmt)
  | shfi (h : Hd) (r : R3) (amt : BitVec 6)
  | bfe (h : Hd) (sgn : Bool) (r : R2) (lsb len1 : BitVec 6)
  | bfi (h : Hd) (r : R2) (lsb len1 : BitVec 6)
  | min (h : Hd) (uns : Bool) (r : R3)
  | max (h : Hd) (uns : Bool) (r : R3)
  | sel (h : Hd) (xd xa xb : Reg) (pc : PReg)
  | sext (h : Hd) (r : R2) (n1 : BitVec 6)
  | zext (h : Hd) (r : R2) (n1 : BitVec 6)
  -- comparisons, predicates, full/empty bits (R256 to R260)
  | cmp (h : Hd) (c : Cond) (k : Comb) (pd : PReg) (xa xb : Reg) (g : Bool)
  | cmpi (h : Hd) (c : Cond) (k : Comb) (pd : PReg) (xa : Reg) (imm : BitVec 32) (g : Bool)
  | pand (h : Hd) (pd pa pb : PReg) (na nb : Bool)
  | por (h : Hd) (pd pa pb : PReg) (na nb : Bool)
  | pxor (h : Hd) (pd pa pb : PReg) (na nb : Bool)
  | pset (h : Hd) (pd : PReg) (b : Bool)
  | psetNz (h : Hd) (pd : PReg) (xa : Reg)
  | psetAll (h : Hd) (xa : Reg)
  | pget (h : Hd) (xd : Reg)
  | feClr (h : Hd) (xd : Reg)
  | feTst (h : Hd) (pd : PReg) (xa : Reg)
  -- scalar floating point (R261 to R269); dbl = .f64
  | fadd (h : Hd) (dbl : Bool) (rm : Rnd) (r : R3)
  | fsub (h : Hd) (dbl : Bool) (rm : Rnd) (r : R3)
  | fmul (h : Hd) (dbl : Bool) (rm : Rnd) (r : R3)
  | ffma (h : Hd) (neg dbl : Bool) (rm : Rnd) (r : R3) (xc : Reg)
  | fmin (h : Hd) (dbl : Bool) (r : R3)
  | fmax (h : Hd) (dbl : Bool) (r : R3)
  | fcmp (h : Hd) (dbl : Bool) (c : FCond) (pd : PReg) (xa xb : Reg) (g : Bool)
  | fcvt (h : Hd) (dst src : XFmt) (rm : Rnd) (sat : Bool) (r : R2)
  | frcp (h : Hd) (dbl : Bool) (rm : Rnd) (r : R2)
  | frsq (h : Hd) (dbl : Bool) (rm : Rnd) (r : R2)
  | fsgn (h : Hd) (dbl : Bool) (op : SgnOp) (r : R3)
  | fclass (h : Hd) (dbl : Bool) (r : R2)
  -- control registers (R270)
  | csrr (h : Hd) (xd : Reg) (n : BitVec 12)
  | csrw (h : Hd) (n : BitVec 12) (xa : Reg)
  | csrxSwap (h : Hd) (xd : Reg) (n : BitVec 12) (xa : Reg)
  | csrxSet (h : Hd) (xd : Reg) (n : BitVec 12) (xa : Reg)
  | csrxClr (h : Hd) (xd : Reg) (n : BitVec 12) (xa : Reg)
  -- loads and stores (R281 to R288)
  | ld (h : Hd) (sz : LdSize) (r : RI)
  | ldx (h : Hd) (sz : LdSize) (r : RX)
  | st (h : Hd) (sz : StSize) (r : RI)
  | stx (h : Hd) (sz : StSize) (r : RX)
  | ldAcq (h : Hd) (sz : LdSize) (sc : Scope4) (r : RI)
  | stRel (h : Hd) (sz : StSize) (sc : Scope4) (r : RI)
  | ldp (h : Hd) (r : RI)
  | stp (h : Hd) (r : RI)
  | prefL1 (h : Hd) (m : MemOp)
  | prefCc (h : Hd) (m : MemOp)
  | ccWbL1 (h : Hd) (m : MemOp)
  | ccWbCc (h : Hd) (m : MemOp)
  | ccInvL1 (h : Hd) (m : MemOp)
  | ccInvCc (h : Hd) (m : MemOp)
  | ccPin (h : Hd) (xd : Reg) (n : BitVec 2)
  -- atomics, fences, monitors (R289 to R296)
  | amo (h : Hd) (op : AmoOp) (sc : Scope) (ord : Ord) (sz8 : Bool) (r : R3) (off : BitVec 16)
  | cas (h : Hd) (sc : Scope) (ord : Ord) (sz8 : Bool) (r : R3) (xc : Reg) (off : BitVec 16)
  | red (h : Hd) (op : AmoOp) (sc : Scope) (rel : Bool) (sz8 : Bool) (xa xb : Reg) (g : Bool) (off : BitVec 16)
  | fence (h : Hd) (sc : Scope) (pred succ : FSet)
  | watch (h : Hd) (r : RI)
  | unwatch (h : Hd) (xd : Reg)
  -- copies and channels (R297 to R300)
  | cpy (h : Hd) (v f : Bool) (ch : BitVec 5) (r : R3)
  | cpyg (h : Hd) (esz : Esz) (v f : Bool) (ch : BitVec 5) (r : R3)
  | chsetFill (h : Hd) (ch : BitVec 5) (xa : Reg) (g : Bool)
  | chsetTable (h : Hd) (ch : BitVec 5) (xa : Reg) (g : Bool)
  | chsetNsrc (h : Hd) (ch : BitVec 5) (xa : Reg) (g : Bool)
  | chsetFolio (h : Hd) (ch : BitVec 5) (xa : Reg) (loc : BitVec 10) (g : Bool)
  | chwm (h : Hd) (xd : Reg) (ch : BitVec 5) (g : Bool)
  | chwmSt (h : Hd) (xd : Reg) (ch : BitVec 5) (g : Bool)
  -- messages, folios, gang calls (R301 to R311)
  | send (h : Hd) (e : BitVec 12) (n : BitVec 4) (xd xa : Reg)
  | done (h : Hd)
  | bind (h : Hd) (cls : BitVec 4) (xa : Reg)
  | fenter (h : Hd) (r : RI)
  | fleave (h : Hd) (r : R2)
  | fhold (h : Hd) (xd xa : Reg) (loc : BitVec 10)
  | finc (h : Hd) (xa xb : Reg)
  | fdrop (h : Hd) (xa : Reg)
  | fwait (h : Hd) (xa : Reg) (loc : BitVec 10) (g : Bool)
  | fprobe (h : Hd) (xd : Reg) (loc : BitVec 10) (g : Bool)
  | fprobeInfo (h : Hd) (xd : Reg) (loc : BitVec 10) (g : Bool)
  | gcallLabel (h : Hd) (t : Target)
  | gcallReg (h : Hd) (xa : Reg)
  | gret (h : Hd)
  -- privileged (R39, R312 to R316)
  | tlbinvPg (h : Hd) (xd xa : Reg) (asid : BitVec 8)
  | tlbinvAs (h : Hd) (xd : Reg) (asid : BitVec 8)
  | tlbinvAll (h : Hd) (xd : Reg)
  | scrub (h : Hd) (xd xa : Reg) (classes : BitVec 10)
  | ctxsave (h : Hd) (xd xa xb : Reg)
  | ctxrest (h : Hd) (xd xa : Reg)
  | ipi (h : Hd) (xd xa : Reg)
  | fgraphIns (h : Hd) (xd xa : Reg)
  | fgraphExt (h : Hd) (xd xa : Reg)
  | fgraphDel (h : Hd) (xd : Reg) (n : BitVec 10)
  -- vector element instructions (R323 to R336)
  | vadd (h : Hd) (r : VA)
  | vsub (h : Hd) (r : VA)
  | vmul (h : Hd) (r : VA)
  | vfma (h : Hd) (neg : Bool) (r : VA) (vc : VReg)
  | vmin (h : Hd) (ty : Ety) (r : V3)
  | vmax (h : Hd) (ty : Ety) (r : V3)
  | vmulh (h : Hd) (ty : Ety) (r : V3)
  | vdiv (h : Hd) (ty : Ety) (rm : Rnd) (rem : Bool) (r : V3)
  | vsqrt (h : Hd) (ty : Ety) (rm : Rnd) (vd va : VReg)
  | vrcp (h : Hd) (ty : Ety) (rm : Rnd) (vd va : VReg)
  | vrsq (h : Hd) (ty : Ety) (rm : Rnd) (vd va : VReg)
  | vexp2 (h : Hd) (ty : Ety) (rm : Rnd) (vd va : VReg)
  | vlog2 (h : Hd) (ty : Ety) (rm : Rnd) (vd va : VReg)
  | vsgnCp (h : Hd) (ty : Ety) (r : V3)
  | vsgnNcp (h : Hd) (ty : Ety) (r : V3)
  | vsgnXor (h : Hd) (ty : Ety) (r : V3)
  | vsgnAbs (h : Hd) (ty : Ety) (vd va : VReg)
  | vsgnNeg (h : Hd) (ty : Ety) (vd va : VReg)
  | vand (h : Hd) (r : V3)
  | vor (h : Hd) (r : V3)
  | vxor (h : Hd) (r : V3)
  | vandn (h : Hd) (r : V3)
  | vpopc (h : Hd) (vd va : VReg)
  | vmov (h : Hd) (n64 : Bool) (vd va : VReg)
  | vshl (h : Hd) (ty : Ety) (vd va : VReg) (amt : VAmt)
  | vshr (h : Hd) (ty : Ety) (vd va : VReg) (amt : VAmt)
  | vsar (h : Hd) (ty : Ety) (vd va : VReg) (amt : VAmt)
  | vclz (h : Hd) (ty : Ety) (vd va : VReg)
  | vcmp (h : Hd) (ty : Ety) (c : FCond) (k : Comb) (pd : PReg) (va vb : VReg)
  | vsel (h : Hd) (n64 : Bool) (r : V3) (pc : PReg)
  | vcvt (h : Hd) (dst : Ety) (src : XFmt) (rm : Rnd) (sat : Bool) (vd va : VReg)
  | vpack (h : Hd) (f : PFmt) (ty : WTy) (rm : Rnd) (sat : Bool) (r : V3)
  | vunpk (h : Hd) (f : PFmt) (ty : WTy) (rm : Rnd) (sat : Bool) (vd va : VReg)
  | vlutL4 (h : Hd) (vd va : VReg)
  | vlutTab (h : Hd) (r : V3)
  | vdot (h : Hd) (r : VA) (vc : VReg)
  -- moving values between lanes, gang reductions, top-k (R337 to R346)
  | vshfIdx (h : Hd) (n64 : Bool) (r : V3)
  | vshfXor (h : Hd) (n64 : Bool) (vd va : VReg) (c : BitVec 7)
  | vshfUp (h : Hd) (n64 : Bool) (vd va : VReg) (c : BitVec 7)
  | vshfDn (h : Hd) (n64 : Bool) (vd va : VReg) (c : BitVec 7)
  | vsplat (h : Hd) (n64 : Bool) (vd : VReg) (src : SplatSrc)
  | vbcast (h : Hd) (n64 : Bool) (vd va : VReg) (src : LaneSrc)
  | vrot (h : Hd) (n64 : Bool) (vd va : VReg) (src : LaneSrc)
  | vballot (h : Hd) (hi cnt : Bool) (sd : Reg) (pc : PReg)
  | vred (h : Hd) (op : RedOp) (ty : Ety) (rm : Rnd) (sat : Bool) (vd va : VReg)
  | vscan (h : Hd) (op : RedOp) (ty : Ety) (rm : Rnd) (sat excl : Bool) (vd va : VReg)
  | vseg (h : Hd) (op : RedOp) (ty : Ety) (rm : Rnd) (sat : Bool) (r : V3)
  | vconf (h : Hd) (n64 : Bool) (vd va : VReg) (pc : PReg)
  | vtopk (h : Hd) (ty : Ety) (r : V3) (k : BitVec 9) (sc : Reg)
  | vmrgk (h : Hd) (ty : Ety) (r : V3) (k : BitVec 9) (sc : Reg)
  -- vector memory (R347 to R350)
  | vld (h : Hd) (sz : LdSize) (m : VMode) (vd : VReg) (s : Reg) (imm : BitVec 16)
  | vst (h : Hd) (sz : StSize) (m : VMode) (vd : VReg) (s : Reg) (imm : BitVec 16)
  | vldc (h : Hd) (n1 : BitVec 4) (vd : VReg) (s : Reg) (imm : BitVec 16)
  | vstc (h : Hd) (n1 : BitVec 4) (vd : VReg) (s : Reg) (imm : BitVec 16)
  | vamo (h : Hd) (op : VAmoOp) (ty : Ety) (dv : Bool) (r : V3)
  | vrdm (h : Hd) (op : AmoOp) (sz8 : Bool) (sc : Scope) (vd va : VReg) (s : Reg) (imm : BitVec 16)
  -- matrix engine (R360 to R372)
  | mma (h : Hd) (m : MM)
  | mrot (h : Hd) (m : MM)
  | mjoin (h : Hd)
  | mzero (h : Hd) (acc : AccReg)
  | mrd (h : Hd) (acc : AccReg) (blk : Blk) (g : BitVec 2) (off : BitVec 4) (k : MrdKind)
  | mwr (h : Hd) (acc : AccReg) (blk : Blk) (g : BitVec 2) (off : BitVec 4) (conv : Option MFmt)
  | mready (h : Hd)
  | mwait (h : Hd) (acc : Option AccReg)
  | mtrn (h : Hd) (accd accs : AccReg)
  -- the steps of lines, flags, fills, windows (R208 to R210, R95, R161, R242, R277, R379)
  | sleepExpiry (c : CtxId)
  | lineEntry (c : CtxId)
  | lineWaitRelease (c : CtxId)
  | flagCompletion (op : Nat)
  | registerFill (op : Nat)
  | windowSpill (c : CtxId)
  | windowReload (c : CtxId)
  | asyncMachineDelivery (c : CtxId)
  | quirePatrolRead (pa : Nat)
  | reservedOpcode (head tail : Nat)
  -- galley (R170 to R172)
  | galleyTimeout (key : Nat)
  | gangPlacement (part cluster : Nat)
  -- copies (R106 to R119)
  | burstSend (t : TeamId) (ch k : Nat)
  | burstTransfer (t : TeamId) (ch k : Nat)
  | burstLanding (t : TeamId) (ch k : Nat)
  | watermarkStallRelease (c : CtxId)
  | channelDrainExpiry (t : TeamId)
  -- counts and closures (R135, R144 to R147)
  | tileBatchSend (cluster rank : Nat)
  | clusterBatchForward (c : Nat)
  | deviceBatchForward
  | jobStart (device : Nat) (aggregator : Nat)
  | batchApply (u : Unit4)
  | frontierAnnounce (i : Inst) (loc : Nat)
  | closureWalkEnd (part : Nat)
  -- messages and queues between threads (R163, R164, R277)
  | messageArrival (msg : Nat)
  | senderHeldAccept (msg : Nat)
  | queuePushArrival (op : Nat)
  -- memory system (R27, R40, R53, R61 to R72, R91)
  | storeBufferWriteback (c : CtxId)
  | storeAcknowledgement (op : Nat)
  | pageWalk (c : CtxId) (va : Word) (k : AccKind)
  | tlbinvAck (op : Nat)
  | gets (c : CoreId) (line : Nat)
  | getm (c : CoreId) (line : Nat)
  | upg (c : CoreId) (line : Nat)
  | puts (c : CoreId) (line : Nat)
  | pute (c : CoreId) (line : Nat)
  | putm (c : CoreId) (line : Nat)
  | invack (c : CoreId) (line : Nat)
  | datawb (c : CoreId) (line : Nat)
  | inv (c : CoreId) (line : Nat)
  | fwds (c : CoreId) (line : Nat)
  | fwdm (c : CoreId) (line : Nat)
  | dataReply (c : CoreId) (line : Nat)
  | ackupg (c : CoreId) (line : Nat)
  | overflowAdd (cluster rank quarter : Nat)
  | overflowInval (cluster rank quarter : Nat)
  | rds (cluster region : Nat)
  | rdm (cluster region : Nat)
  | regionWb (cluster region : Nat)
  | evr (cluster region : Nat)
  | rinv (cluster region : Nat)
  | rdown (cluster region : Nat)
  | hostCxlMemRead (pa len : Nat)
  | hostCxlMemWrite (pa : Nat) (data : List Byte)
  | regionAcknowledgement (region : Nat)
  | regionData (cluster region : Nat)
  | missMergeExpiry (cluster block : Nat)
  | atomicAtUnit (op : Nat)
  -- wide-core issue and placement (R168, R174 to R176, R356, R371, R372)
  | fairnessTimerExpiry (c : CtxId)
  | teamPlacement (launch : Nat)
  | coresidentPlacementTimeout (launch : Nat)
  | thermalExclusion (cluster tile : Nat) (temp : Nat)
  | droopEvent (cluster tile : Nat)
  | thermalReinstatement (cluster tile : Nat) (temp : Nat)
  | thermalThrottle
  | thermalThrottleEnd
  | engineOperationEnd (part cluster tile : Nat)
  | mrotArrival (c : CtxId) (north : Bool)
  | mjoinRelease (launch gang : Nat)
  -- pre-emption, killing, tenancy (R103, R383 to R394)
  | partitionPreempt (part : Nat) (tiles : List (Nat × Nat)) (why : PreReason)
  | timeSliceExpiry (part : Nat)
  | contextRestore (t : TeamId)
  | kill (c : CtxId)
  | tenantSwitch (part : Nat) (incoming : Incoming) (fails : Bool)
  | expectedSeqRelease (launch : Nat)
  | tileRetire (cluster tile : Nat)
  -- host queues (R398 to R404)
  | qwrDoorbell (q : QueueId) (value : Word)
  | queueRegisterWrite (q : QueueId) (r : QReg) (value : Word)
  | qctlResume (q : QueueId)
  | qctlKill (q : QueueId)
  | qctlBadwrClear (q : QueueId)
  | privokSet (q : QueueId) (on : Bool)
  | packetStart (q : QueueId)
  | signalWaitPacket (q : QueueId)
  | launchPacket (q : QueueId)
  | folioLaunchPacket (q : QueueId)
  | copyPacket (q : QueueId)
  | graphInstallPacket (q : QueueId)
  | signalAbort (q : QueueId)
  | packetCompletion (q : QueueId)
  -- debug port, links, faults, export, accounting (R77, R150, R405 to R413)
  | debugPortRead (part vf launchId team gang : Nat) (item : DebugItem)
  | debugPortWrite (part vf launchId team gang : Nat) (item : DebugItem) (value : List Word)
  | debugEnable (part : Nat) (on : Bool)
  | linkFlitReceive (link : Nat) (crcOk : Bool) (dev cls seq : Nat) (m : LinkMsg)
  | linkFailure (link : Nat)
  | partFault (p : Part)
  | deviceFault (dev : Nat)
  | jobCountRestore (part : Nat) (counts : List (Nat × Word × Int))
  | exportTracking (part : Nat) (log : Nat) (cap : Nat)
  | exportTrackingDisable (part : Nat)
  | finalExport (part vf : Nat) (dst : Nat)
  | importState (part vf : Nat) (src : Nat)
  | snapshotRequest (part vf : Nat) (dst : Nat)
  | uncorrectableError (st : ErrStruct) (key : Nat) (onlyCopy : Bool)
  -- firmware, boot, SPDM (R396, R414 to R416)
  | resetBoot (verified : Bool)
  | getVersion
  | getCapabilities
  | negotiateAlgorithms
  | getDigests
  | getCertificate (slot : Nat)
  | challenge (nonce : List Byte)
  | getMeasurements (index : Nat)
  | firmwareUpdate (image : List Byte) (version : Nat) (verified interrupted : Bool)
  | recoveryImageLoad (image : List Byte) (version : Nat) (verified : Bool)
  | powerOn
  | partitionCreate (cfg : PartConfig)
  | vfAssign (part vf : Nat)
deriving DecidableEq, Repr

end Sys2Proof
end

