-- ==== Sys2Proof/WellFormed.lean ====
section
/-! DEFINITION. Which instructions an encoding can hold: the checks of R223 steps 3 to 6 that depend on the fields alone
(R215, R217, R218, R320 and the instruction entries), as one decidable check. -/

namespace Sys2Proof

/-- The type is one of the integer types, packed or not (R215). -/
def Ety.isInt : Ety → Bool
  | .i32 | .n32 | .i16 | .n16 | .i8 | .n8 | .i16x2 | .i8x4 | .i64 | .n64 => true
  | _ => false

/-- The type is packed (R189). -/
def Ety.isPacked : Ety → Bool
  | .f16x2 | .bf16x2 | .i16x2 | .i8x4 => true
  | _ => false

/-- The type takes a register pair (R318). -/
def Ety.is64 : Ety → Bool
  | .f64 | .i64 | .n64 => true
  | _ => false

/-- The format is an integer format (R266). -/
def XFmt.isInt : XFmt → Bool
  | .i32 | .n32 | .i16 | .n16 | .i8 | .n8 | .i64 | .n64 => true
  | _ => false

/-- The narrow format is an integer format (R332). -/
def PFmt.isInt : PFmt → Bool
  | .i16 | .n16 | .i8 | .n8 | .i4 => true
  | _ => false

/-- The formats that take a block scale in `vpack` (R333). -/
def PFmt.takesScale : PFmt → Bool
  | .e4m3 | .e5m2 | .e2m1 => true
  | _ => false

/-- A head with an always-true guard (R207). -/
def Hd.unguarded (h : Hd) : Bool := h.gp == 0 && !h.gs

/-- FS = 1 only where the instruction can set a flag (R207, R211), and G = 1 only without a guard (R217). -/
def hdOk (h : Hd) (flag g : Bool) : Bool := (flag || !h.fs) && (!g || h.unguarded)

/-- A rounding field other than .rn stands only where the operation rounds (R320). -/
def rndOk (rounds : Bool) (rm : Rnd) : Bool := rounds || rm == .rn

/-- Types of `vmulh` (R323). -/
def Ety.mulhOk : Ety → Bool
  | .i32 | .n32 | .i64 | .n64 | .i16x2 | .i8x4 => true
  | _ => false

/-- Floating types of `vdiv` and `vsqrt` (R323). -/
def Ety.sqrtOk : Ety → Bool
  | .f32 | .f64 | .f16 | .bf16 => true
  | _ => false

/-- Types of `vdiv` (R323). -/
def Ety.divOk : Ety → Bool
  | .f32 | .f64 | .f16 | .bf16 | .i32 | .n32 | .i64 | .n64 => true
  | _ => false

/-- Types of the estimates (R324). -/
def Ety.estOk : Ety → Bool
  | .f32 | .f16 | .bf16 | .f16x2 | .bf16x2 => true
  | _ => false

/-- Types of `vdot` (R336). -/
def Ety.dotOk : Ety → Bool
  | .i8x4 | .i16x2 | .f16x2 | .bf16x2 => true
  | _ => false

/-- Distance types of `vtopk` and `vmrgk` (R344). -/
def Ety.distOk : Ety → Bool
  | .f32 | .f16 | .bf16 | .i32 | .n32 => true
  | _ => false

/-- The type family of an operation of R290, for `vamo` (R349). -/
def VAmoOp.tyOk : VAmoOp → Ety → Bool
  | .op .add, t | .op .and, t | .op .or, t | .op .xor, t | .op .swap, t =>
    t == .i32 || t == .n32 || t == .i64 || t == .n64
  | .op .minI, t | .op .maxI, t => t == .i32 || t == .i64
  | .op .minN, t | .op .maxN, t => t == .n32 || t == .n64
  | .op .fadd, t | .op .fmin, t | .op .fmax, t => t == .f32 || t == .f64
  | .cas _, t => t == .i32 || t == .n32 || t == .f32 || t == .i64 || t == .n64 || t == .f64

/-- The estimates round only on the 16-bit types (R324). -/
def estRnd (ty : Ety) (rm : Rnd) : Bool := ty.estOk && rndOk (ty != .f32) rm

/-- A combination of R341: logic on integers only, .sat on integer sums only, a rounding field on floating sums only. -/
def redOk (op : RedOp) (ty : Ety) (rm : Rnd) (sat : Bool) : Bool :=
  (ty.isInt || op == .add || op == .min || op == .max) && (!sat || (ty.isInt && op == .add)) &&
    rndOk (!ty.isInt && op == .add) rm

/-- Width in bits of a matrix operand format (R352). -/
def MFmt.width : MFmt → Nat
  | .f16 | .bf16 => 16
  | .e4m3 | .e5m2 | .e4m3z | .i8 => 8
  | .e2m1 | .i4 | .l4 | .i4x => 4

/-- The permitted format pairs (R354). -/
def mfmtPair : MFmt → MFmt → Bool
  | .f16, .f16 | .bf16, .bf16 | .i8, .i8 => true
  | a, b =>
    let fp8 := fun f => f == MFmt.e4m3 || f == .e5m2 || f == .e4m3z
    let fp4 := fun f => f == MFmt.e2m1 || f == .i4x
    let int4 := fun f => f == MFmt.i4 || f == .l4
    (fp8 a && fp8 b) || (fp4 a && fp4 b) || (int4 a && int4 b)

/-- `.mx` is permitted only when both formats are .e4m3 or .e5m2 (R354). -/
def mxOk (a b : MFmt) : Bool :=
  (a == .e4m3 || a == .e5m2) && (b == .e4m3 || b == .e5m2)

/-- Scale registers of one operand (R355). -/
def MFmt.scaleRegs (f : MFmt) (mx : Bool) : Nat :=
  match f with
  | .e2m1 => 1
  | .i4x => 4
  | .e4m3 | .e5m2 => if mx then 1 else 0
  | _ => 0

/-- The scale registers of both operands. -/
def MM.scaleRegs (m : MM) : Nat := m.fa.scaleRegs m.mx + m.fb.scaleRegs m.mx

/-- The fields of `mma` and `mrot` (R354, R355). -/
def MM.ok (m : MM) : Bool :=
  mfmtPair m.fa m.fb && (!m.mx || mxOk m.fa m.fb) && (m.scaleRegs != 0 || m.vs == 0)

/-- Two ranges of registers share none. -/
def disjointRange (a n b m : Nat) : Bool := n == 0 || m == 0 || a + n ≤ b || b + m ≤ a

/-- The pairwise disjoint operands of `mrot` (R370). -/
def MM.disjoint (m : MM) : Bool :=
  let a := 16 * m.va.toNat
  let b := 16 * m.vb.toNat
  let na := m.fa.scaleRegs m.mx
  let nb := m.fb.scaleRegs m.mx
  let sa := m.vs.toNat
  let sb := sa + na
  disjointRange a 16 b 16 && disjointRange a 16 sa na && disjointRange a 16 sb nb &&
    disjointRange b 16 sa na && disjointRange b 16 sb nb

/-- Targets of a converting `mrd` and sources of a converting `mwr` on the floating side (R366, R367). -/
def MFmt.moveOk : MFmt → Bool
  | .f16 | .bf16 | .e4m3 | .e5m2 | .e4m3z => true
  | _ => false

/-- Sets of a fence are not empty (R294). -/
def FSet.nonempty (f : FSet) : Bool := f.l || f.s || f.c || f.m

/-- A context that the device has (R3, R153, R274). -/
def CtxId.ok (c : CtxId) : Bool :=
  c.cluster < 12 && c.tile < 64 && c.core < 4 && (if c.wide then c.core == 0 && c.ctx < 16 else c.ctx ≤ 16)

/-- A scalar core that the device has (R3). -/
def CoreId.ok (c : CoreId) : Bool := c.cluster < 12 && c.tile < 64 && c.core < 4

/-- A queue that the device can have (R3, R396, R398). -/
def QueueId.ok (q : QueueId) : Bool := q.part < 48 && q.vf < 192 && q.q < 16

/-- The row is an instruction of FIS-3: it has a head. The device's own steps have none. -/
def Instr.coded : Instr → Bool
  | .sleepExpiry _ | .lineEntry _ | .lineWaitRelease _ | .flagCompletion _ | .registerFill _ | .windowSpill _
  | .windowReload _ | .asyncMachineDelivery _ | .quirePatrolRead _ | .reservedOpcode _ _ | .galleyTimeout _
  | .gangPlacement _ _ | .burstSend _ _ _ | .burstTransfer _ _ _ | .burstLanding _ _ _ | .watermarkStallRelease _
  | .channelDrainExpiry _ | .tileBatchSend _ _ | .clusterBatchForward _ | .deviceBatchForward | .jobStart _ _
  | .batchApply _ | .frontierAnnounce _ _ | .closureWalkEnd _ | .messageArrival _ | .senderHeldAccept _
  | .queuePushArrival _ | .storeBufferWriteback _ | .storeAcknowledgement _ | .pageWalk _ _ _ | .tlbinvAck _
  | .gets _ _ | .getm _ _ | .upg _ _ | .puts _ _ | .pute _ _ | .putm _ _ | .invack _ _ | .datawb _ _ | .inv _ _
  | .fwds _ _ | .fwdm _ _ | .dataReply _ _ | .ackupg _ _ | .overflowAdd _ _ _ | .overflowInval _ _ _ | .rds _ _
  | .rdm _ _ | .regionWb _ _ | .evr _ _ | .rinv _ _ | .rdown _ _ | .hostCxlMemRead _ _ | .hostCxlMemWrite _ _
  | .regionAcknowledgement _ | .regionData _ _ | .missMergeExpiry _ _ | .atomicAtUnit _ | .fairnessTimerExpiry _
  | .teamPlacement _ | .coresidentPlacementTimeout _ | .thermalExclusion _ _ _ | .droopEvent _ _
  | .thermalReinstatement _ _ _ | .thermalThrottle | .thermalThrottleEnd | .engineOperationEnd _ _ _ | .mrotArrival _ _
  | .mjoinRelease _ _ | .partitionPreempt _ _ _ | .timeSliceExpiry _ | .contextRestore _ | .kill _
  | .tenantSwitch _ _ _ | .expectedSeqRelease _ | .tileRetire _ _ | .qwrDoorbell _ _ | .queueRegisterWrite _ _ _
  | .qctlResume _ | .qctlKill _ | .qctlBadwrClear _ | .privokSet _ _ | .packetStart _ | .signalWaitPacket _
  | .launchPacket _ | .folioLaunchPacket _ | .copyPacket _ | .graphInstallPacket _ | .signalAbort _
  | .packetCompletion _ | .debugPortRead _ _ _ _ _ _ | .debugPortWrite _ _ _ _ _ _ _ | .debugEnable _ _
  | .linkFlitReceive _ _ _ _ _ _ | .linkFailure _ | .partFault _ | .deviceFault _ | .jobCountRestore _ _
  | .exportTracking _ _ _ | .exportTrackingDisable _ | .finalExport _ _ _ | .importState _ _ _
  | .snapshotRequest _ _ _ | .uncorrectableError _ _ _ | .resetBoot _ | .getVersion | .getCapabilities
  | .negotiateAlgorithms | .getDigests | .getCertificate _ | .challenge _ | .getMeasurements _
  | .firmwareUpdate _ _ _ _ | .recoveryImageLoad _ _ _ | .powerOn | .partitionCreate _ | .vfAssign _ _ => false
  | _ => true

/-- The fields of an instruction are ones that its encoding can hold and that no check of R223 steps 3 to 6 refuses on
every core. -/
def Instr.wf : Instr → Bool
  | .br h _ | .jal h _ _ | .jalr h _ _ _ | .call h _ | .callr h _ | .ret h | .loop h _ _ | .trap h _ | .sysc h _
  | .brk h _ | .eret h | .nop h | .yield h | .sleep h _ | .exit h _ => hdOk h false false
  | .add h r | .sub h r | .mul h r | .and h r | .or h r | .xor h r | .andn h r | .orn h r | .xnor h r => hdOk h false r.g
  | .clz h r | .ctz h r | .popc h r | .brev h r | .bswap h r | .mov h r => hdOk h false r.g
  | .addi h r | .andi h r | .ori h r | .xori h r => hdOk h false r.g
  | .li h _ _ g | .liZ h _ _ g | .liHi h _ _ _ g | .addpc h _ _ g => hdOk h false g
  | .mulh h _ r | .shfi h r _ | .min h _ r | .max h _ r => hdOk h false r.g
  | .div h _ r | .rem h _ r => hdOk h true r.g
  | .shl h r _ | .shr h r _ | .sar h r _ | .rotr h r _ => hdOk h false r.g
  | .bfe h _ r _ _ | .bfi h r _ _ | .sext h r _ | .zext h r _ => hdOk h false r.g
  | .sel h _ _ _ _ => hdOk h false false
  | .cmp h _ _ _ _ _ g | .cmpi h _ _ _ _ _ g => hdOk h false g
  | .pand h _ _ _ _ _ | .por h _ _ _ _ _ | .pxor h _ _ _ _ _ | .pset h _ _ | .psetNz h _ _ | .psetAll h _ | .pget h _
  | .feClr h _ | .feTst h _ _ => hdOk h false false
  | .fadd h _ _ r | .fsub h _ _ r | .fmul h _ _ r | .ffma h _ _ _ r _ | .fmin h _ r | .fmax h _ r | .fsgn h _ _ r =>
    hdOk h false r.g
  | .fcmp h _ _ _ _ _ g => hdOk h false g
  | .fcvt h d s _ _ r => hdOk h false r.g && !(d.isInt && s.isInt)
  | .frcp h _ _ r | .frsq h _ _ r | .fclass h _ r => hdOk h false r.g
  | .csrr h _ _ | .csrw h _ _ | .csrxSwap h _ _ _ | .csrxSet h _ _ _ | .csrxClr h _ _ _ => hdOk h false false
  | .ld h _ r | .ldAcq h _ _ r => hdOk h true r.g
  | .st h _ r | .stRel h _ _ r => hdOk h true r.g
  | .ldx h _ r | .stx h _ r => hdOk h true r.g
  | .ldp h r | .stp h r => hdOk h true r.g
  | .prefL1 h m | .prefCc h m | .ccWbL1 h m | .ccWbCc h m | .ccInvL1 h m | .ccInvCc h m => hdOk h false m.g
  | .ccPin h _ _ => hdOk h false false
  | .amo h _ _ _ _ r _ => hdOk h true r.g
  | .cas h _ _ _ r _ _ => hdOk h true r.g
  | .red h op _ _ _ _ _ g _ => hdOk h true g && op != .swap
  | .fence h _ p q => hdOk h false false && p.nonempty && q.nonempty
  | .watch h r => hdOk h false false && !r.g
  | .unwatch h _ => hdOk h false false
  | .cpy h _ _ _ r | .cpyg h _ _ _ _ r => hdOk h true r.g
  | .chsetFill h _ _ g | .chsetTable h _ _ g | .chsetNsrc h _ _ g | .chsetFolio h _ _ _ g => hdOk h false g
  | .chwm h _ _ g | .chwmSt h _ _ g => hdOk h false g
  | .send h _ n _ _ => hdOk h false false && n.toNat ≤ 8
  | .done h | .bind h _ _ => hdOk h false false
  | .fenter h r => hdOk h false r.g
  | .fleave h r => hdOk h false r.g
  | .fhold h _ _ _ | .finc h _ _ | .fdrop h _ => hdOk h false false
  | .fwait h _ _ g | .fprobe h _ _ g | .fprobeInfo h _ _ g => hdOk h false g
  | .gcallLabel h _ => hdOk h false false
  | .gcallReg h xa => hdOk h false false && xa != 0
  | .gret h => hdOk h false false
  | .tlbinvPg h _ _ _ | .tlbinvAs h _ _ | .tlbinvAll h _ | .scrub h _ _ _ | .ctxsave h _ _ _ | .ctxrest h _ _ | .ipi h _ _
  | .fgraphIns h _ _ | .fgraphExt h _ _ | .fgraphDel h _ _ => hdOk h false false
  | .vadd h r | .vsub h r | .vmul h r | .vfma h _ r _ => hdOk h false false && rndOk (!r.ty.isInt) r.rm
  | .vmin h _ _ | .vmax h _ _ => hdOk h false false
  | .vmulh h ty _ => hdOk h false false && ty.mulhOk
  | .vdiv h ty rm rm' _ => hdOk h true false && ty.divOk && rndOk (!ty.isInt) rm && (!rm' || ty.isInt)
  | .vsqrt h ty _ _ _ => hdOk h true false && ty.sqrtOk
  | .vrcp h ty rm _ _ | .vrsq h ty rm _ _ | .vexp2 h ty rm _ _ | .vlog2 h ty rm _ _ => hdOk h false false && estRnd ty rm
  | .vsgnCp h ty _ | .vsgnNcp h ty _ | .vsgnXor h ty _ => hdOk h false false && !ty.isInt
  | .vsgnAbs h ty _ _ | .vsgnNeg h ty _ _ => hdOk h false false && !ty.isInt
  | .vand h _ | .vor h _ | .vxor h _ | .vandn h _ | .vpopc h _ _ | .vmov h _ _ _ => hdOk h false false
  | .vshl h ty _ _ _ | .vshr h ty _ _ _ | .vsar h ty _ _ _ | .vclz h ty _ _ => hdOk h false false && ty.isInt
  | .vcmp h ty c _ _ _ _ => hdOk h false false && !ty.isPacked && !(ty.isInt && (c == .un || c == .ord))
  | .vsel h _ _ _ => hdOk h false false
  | .vcvt h d s rm _ _ _ =>
    hdOk h false false && !d.isPacked && rndOk (!(d.isInt && s.isInt)) rm
  | .vpack h f ty rm _ r =>
    hdOk h false false && rndOk (!(f.isInt && ty != .f32)) rm && (f.takesScale || r.vb == 0)
  | .vunpk h f ty rm _ _ _ => hdOk h false false && rndOk (!f.isInt && ty != .f32) rm
  | .vlutL4 h _ _ | .vlutTab h _ => hdOk h false false
  | .vdot h r _ => hdOk h false false && r.ty.dotOk && rndOk (!r.ty.isInt) r.rm && (!r.sat || r.ty.isInt)
  | .vshfIdx h _ _ | .vshfXor h _ _ _ _ | .vshfUp h _ _ _ _ | .vshfDn h _ _ _ _ => hdOk h false false
  | .vsplat h n64 _ src => hdOk h false false && (!n64 || match src with | .sreg _ => true | .imm _ => false)
  | .vbcast h _ _ _ _ | .vrot h _ _ _ _ => hdOk h false false
  | .vballot h hi cnt _ _ => hdOk h false false && !(hi && cnt)
  | .vred h op ty rm sat _ _ | .vscan h op ty rm sat _ _ _ | .vseg h op ty rm sat _ =>
    hdOk h false false && redOk op ty rm sat
  | .vconf h _ _ _ _ => hdOk h false false
  | .vtopk h ty _ k _ | .vmrgk h ty _ k _ => hdOk h false false && ty.distOk && k != 0
  | .vld h _ _ _ _ _ => hdOk h true false
  | .vst h _ _ _ _ _ => hdOk h true false
  | .vldc h _ _ _ _ | .vstc h _ _ _ _ => hdOk h true false
  | .vamo h op ty _ _ => hdOk h true false && op.tyOk ty
  | .vrdm h op _ _ _ _ _ _ => hdOk h true false && op != .swap
  | .mma h m => hdOk h true false && m.ok
  | .mrot h m => hdOk h true false && m.ok && m.disjoint
  | .mjoin h | .mready h | .mzero h _ => hdOk h false false
  | .mrd h _ _ _ _ k =>
    hdOk h true false && match k with | .raw => true | .fp f _ _ => f.moveOk | .i8 _ => true
  | .mwr h _ _ _ _ c =>
    hdOk h true false && match c with | none => true | some f => f.moveOk || f == .i8
  | .mwait h _ => hdOk h false false
  | .mtrn h _ _ => hdOk h true false
  -- the device's own steps: their subjects exist on the device
  | .sleepExpiry c | .lineEntry c | .lineWaitRelease c | .windowSpill c | .windowReload c | .asyncMachineDelivery c
  | .watermarkStallRelease c | .storeBufferWriteback c | .pageWalk c _ _ | .fairnessTimerExpiry c | .mrotArrival c _
  | .kill c => c.ok
  | .gets c _ | .getm c _ | .upg c _ | .puts c _ | .pute c _ | .putm c _ | .invack c _ | .datawb c _ | .inv c _ | .fwds c _
  | .fwdm c _ | .dataReply c _ | .ackupg c _ => c.ok
  | .burstSend _ ch _ | .burstTransfer _ ch _ | .burstLanding _ ch _ => ch < 16
  | .overflowAdd c r q | .overflowInval c r q => c < 12 && r < 64 && q < 4
  | .tileBatchSend c r | .thermalExclusion c r _ | .droopEvent c r | .thermalReinstatement c r _ | .tileRetire c r
  | .engineOperationEnd _ c r => c < 12 && r < 64
  | .clusterBatchForward c | .gangPlacement _ c | .missMergeExpiry c _ => c < 12
  | .rds c _ | .rdm c _ | .regionWb c _ | .evr c _ | .rinv c _ | .rdown c _ | .regionData c _ => c ≤ 12
  | .qwrDoorbell q _ | .queueRegisterWrite q _ _ | .qctlResume q | .qctlKill q | .qctlBadwrClear q | .privokSet q _
  | .packetStart q | .signalWaitPacket q | .launchPacket q | .folioLaunchPacket q | .copyPacket q
  | .graphInstallPacket q | .signalAbort q | .packetCompletion q => q.ok
  | .flagCompletion _ | .registerFill _ | .quirePatrolRead _ | .reservedOpcode _ _ | .galleyTimeout _
  | .channelDrainExpiry _ | .deviceBatchForward | .jobStart _ _ | .batchApply _ | .frontierAnnounce _ _
  | .closureWalkEnd _ | .messageArrival _ | .senderHeldAccept _ | .queuePushArrival _ | .storeAcknowledgement _
  | .tlbinvAck _ | .hostCxlMemRead _ _ | .hostCxlMemWrite _ _ | .regionAcknowledgement _ | .atomicAtUnit _
  | .teamPlacement _ | .coresidentPlacementTimeout _ | .thermalThrottle | .thermalThrottleEnd | .mjoinRelease _ _
  | .partitionPreempt _ _ _ | .timeSliceExpiry _ | .contextRestore _ | .tenantSwitch _ _ _ | .expectedSeqRelease _
  | .debugPortRead _ _ _ _ _ _ | .debugPortWrite _ _ _ _ _ _ _ | .debugEnable _ _ | .linkFlitReceive _ _ _ _ _ _
  | .linkFailure _ | .partFault _ | .deviceFault _ | .jobCountRestore _ _ | .exportTracking _ _ _
  | .exportTrackingDisable _ | .finalExport _ _ _ | .importState _ _ _ | .snapshotRequest _ _ _
  | .uncorrectableError _ _ _ | .resetBoot _ | .getVersion | .getCapabilities | .negotiateAlgorithms | .getDigests
  | .getCertificate _ | .challenge _ | .getMeasurements _ | .firmwareUpdate _ _ _ _ | .recoveryImageLoad _ _ _
  | .powerOn | .partitionCreate _ | .vfAssign _ _ => true

end Sys2Proof
end

