-- ==== Sys2Proof/Decode.lean ====
section
/-! DEFINITION. Instruction lines, heads and tails (R205 to R221): the decoder, total on any bits and refusing by name, and
after it the encoder. Fields are taken apart with division and remainder, bit 0 least significant. -/

namespace Sys2Proof

/-- Why a head does not decode (R223 steps 1, 3, 4, 5, 6), or does not fit its class in the line (R208 row 7). -/
inductive DecErr where
  | opcode | tailLen | gBit | flagSelect | reservedBits | variant
deriving DecidableEq, Repr

/-- The tail classes (R214). -/
inductive Cls where
  | N | X3 | XI | B | V3 | C | XL | XB | V4 | VX | M
deriving DecidableEq, Repr

/-- The tail length code of a class (R214). -/
def Cls.tlen : Cls → Nat
  | .N => 0
  | .X3 => 1
  | .XI | .B | .V3 | .C => 2
  | .XL | .XB | .V4 | .VX | .M => 3

/-- What the opcode map and the entries say of an opcode: class, whether G is permitted (R232), whether it can set a flag
(R211). -/
structure OpInfo where
  cls : Cls
  g : Bool
  flag : Bool
deriving DecidableEq, Repr

/-- The class, G permission and flag permission of every assigned opcode (R221, R211, R232); none for a reserved one. -/
def opInfo (opc : Nat) : Option OpInfo :=
  let mk := fun c g f => some ⟨c, g, f⟩
  match opc / 16, opc % 16 with
  | 0x0, 0x1 | 0x0, 0x7 | 0x0, 0xB | 0x0, 0xD => mk .N false false
  | 0x0, 0x2 | 0x0, 0x5 => mk .B false false
  | 0x0, 0x3 | 0x0, 0x8 => mk .XB false false
  | 0x0, 0x4 | 0x0, 0x9 | 0x0, 0xA | 0x0, 0xC | 0x0, 0xF => mk .XI false false
  | 0x0, 0x6 | 0x0, 0xE => mk .X3 false false
  | 0x1, 0x0 | 0x1, 0x1 | 0x1, 0x5 | 0x1, 0x9 | 0x1, 0xA | 0x1, 0xB | 0x1, 0xC | 0x1, 0xD | 0x1, 0xE => mk .X3 true false
  | 0x1, 0x2 | 0x1, 0x6 | 0x1, 0xF => mk .XI true false
  | 0x1, 0x3 | 0x1, 0x4 => mk .XL true false
  | 0x1, 0x7 | 0x1, 0x8 => mk .XI true true
  | 0x2, 0x9 | 0x2, 0xA | 0x2, 0xB | 0x2, 0xC | 0x2, 0xD => mk .X3 true false
  | 0x2, _ => mk .XI true false
  | 0x3, 0x0 => mk .XI false false
  | 0x3, 0x4 | 0x3, 0x9 => mk .XL true false
  | 0x3, 0x5 => none
  | 0x3, _ => mk .XI true false
  | 0x4, 0x0 | 0x4, 0x1 | 0x4, 0x2 | 0x4, 0x3 => mk .XI false false
  | 0x4, 0x4 | 0x4, 0x8 | 0x4, 0x9 => mk .X3 false false
  | 0x4, 0x5 | 0x4, 0x6 | 0x4, 0x7 => mk .C false false
  | 0x4, 0xA => mk .X3 true false
  | 0x4, 0xB | 0x4, 0xC => mk .XI true false
  | 0x4, _ => none
  | 0x5, 0x0 | 0x5, 0x1 | 0x5, 0x2 | 0x5, 0x3 | 0x5, 0x4 | 0x5, 0x5 | 0x5, 0xA | 0x5, 0xB => mk .XI true true
  | 0x5, 0x6 | 0x5, 0x7 | 0x5, 0x8 => mk .XI true false
  | 0x5, 0x9 => mk .XI false false
  | 0x5, _ => none
  | 0x6, 0x0 | 0x6, 0x1 | 0x6, 0x2 => mk .XL true true
  | 0x6, 0x3 | 0x6, 0x4 | 0x6, 0x5 => mk .XI false false
  | 0x6, _ => none
  | 0x7, 0x0 | 0x7, 0x1 => mk .XL true true
  | 0x7, 0x2 => mk .XL true false
  | 0x7, 0x3 | 0x7, 0x7 | 0x7, 0x8 | 0x7, 0xC | 0x7, 0xD => mk .XI true false
  | 0x7, 0x4 => mk .XL false false
  | 0x7, 0x5 | 0x7, 0xF => mk .N false false
  | 0x7, 0x6 | 0x7, 0x9 | 0x7, 0xA | 0x7, 0xB => mk .XI false false
  | 0x7, 0xE => mk .XB false false
  | 0x8, 0xC | 0x8, 0xD | 0x8, 0xE | 0x8, 0xF => mk .V3 false false
  | 0x8, _ => mk .V4 false false
  | 0x9, 0x4 | 0x9, 0xA => mk .V3 false false
  | 0x9, 0xB | 0x9, 0xD | 0x9, 0xE => mk .VX false false
  | 0x9, _ => mk .V4 false false
  | 0xA, 0x1 => mk .VX false false
  | 0xA, 0x7 | 0xA, 0x8 | 0xA, 0x9 | 0xA, 0xA | 0xA, 0xC => mk .VX false true
  | 0xA, 0xB | 0xA, 0xE | 0xA, 0xF => mk .V4 false true
  | 0xA, _ => mk .V4 false false
  | 0xC, 0x0 | 0xC, 0x1 | 0xC, 0x4 | 0xC, 0x5 | 0xC, 0x8 => mk .M false true
  | 0xC, 0x2 | 0xC, 0x6 => mk .N false false
  | 0xC, 0x3 | 0xC, 0x7 => mk .M false false
  | 0xE, 0x0 | 0xE, 0x2 | 0xE, 0x3 | 0xE, 0x4 | 0xE, 0x5 => mk .XI false false
  | 0xE, 0x1 => mk .XL false false
  | _, _ => none

/-- Go on when no reserved bit is set (R223 step 5). -/
def rsv (zero : Bool) (k : Except DecErr Instr) : Except DecErr Instr := if zero then k else .error .reservedBits

/-- Go on when the sub, variant, type or format value is assigned (R223 step 6). -/
def vok (ok : Bool) (k : Except DecErr Instr) : Except DecErr Instr := if ok then k else .error .variant

/-- Go on with the value of an assigned code (R223 step 6). -/
def vget {α : Type} (o : Option α) (k : α → Except DecErr Instr) : Except DecErr Instr :=
  match o with
  | some a => k a
  | none => .error .variant

/-! The code tables of the enumerations. -/

def MulhKind.ofCode : Nat → Option MulhKind
  | 0 => some .ss | 1 => some .uu | 2 => some .su | _ => none

def MulhKind.code : MulhKind → Nat
  | .ss => 0 | .uu => 1 | .su => 2

def Cond.ofCode : Nat → Option Cond
  | 0 => some .eq | 1 => some .ne | 2 => some .ltI | 3 => some .geI | 4 => some .ltN | 5 => some .geN | _ => none

def Cond.code : Cond → Nat
  | .eq => 0 | .ne => 1 | .ltI => 2 | .geI => 3 | .ltN => 4 | .geN => 5

def Comb.ofCode : Nat → Option Comb
  | 0 => some .set | 1 => some .and | 2 => some .or | _ => none

def Comb.code : Comb → Nat
  | .set => 0 | .and => 1 | .or => 2

/-- The conditions in the order of `fcmp` and of `vcmp` (R265, R329). -/
def FCond.ofCode : Nat → Option FCond
  | 0 => some .eq | 1 => some .ne | 2 => some .lt | 3 => some .le | 4 => some .gt | 5 => some .ge | 6 => some .un
  | 7 => some .ord | _ => none

def FCond.code : FCond → Nat
  | .eq => 0 | .ne => 1 | .lt => 2 | .le => 3 | .gt => 4 | .ge => 5 | .un => 6 | .ord => 7

def Rnd.ofCode : Nat → Option Rnd
  | 0 => some .rn | 1 => some .rz | 2 => some .ru | 3 => some .rd | 4 => some .rs | _ => none

def Rnd.code : Rnd → Nat
  | .rn => 0 | .rz => 1 | .ru => 2 | .rd => 3 | .rs => 4

def XFmt.ofCode : Nat → Option XFmt
  | 0 => some .i32 | 1 => some .n32 | 2 => some .f32 | 3 => some .f64 | 4 => some .f16 | 5 => some .bf16 | 6 => some .i16
  | 7 => some .n16 | 8 => some .i8 | 9 => some .n8 | 10 => some .e4m3 | 11 => some .e5m2 | 12 => some .e4m3z
  | 13 => some .e2m1 | 14 => some .i64 | 15 => some .n64 | _ => none

def XFmt.code : XFmt → Nat
  | .i32 => 0 | .n32 => 1 | .f32 => 2 | .f64 => 3 | .f16 => 4 | .bf16 => 5 | .i16 => 6 | .n16 => 7 | .i8 => 8 | .n8 => 9
  | .e4m3 => 10 | .e5m2 => 11 | .e4m3z => 12 | .e2m1 => 13 | .i64 => 14 | .n64 => 15

def Ety.ofCode : Nat → Option Ety
  | 0 => some .i32 | 1 => some .n32 | 2 => some .f32 | 3 => some .f64 | 4 => some .f16 | 5 => some .bf16 | 6 => some .i16
  | 7 => some .n16 | 8 => some .i8 | 9 => some .n8 | 10 => some .f16x2 | 11 => some .bf16x2 | 12 => some .i16x2
  | 13 => some .i8x4 | 14 => some .i64 | 15 => some .n64 | _ => none

def Ety.code : Ety → Nat
  | .i32 => 0 | .n32 => 1 | .f32 => 2 | .f64 => 3 | .f16 => 4 | .bf16 => 5 | .i16 => 6 | .n16 => 7 | .i8 => 8 | .n8 => 9
  | .f16x2 => 10 | .bf16x2 => 11 | .i16x2 => 12 | .i8x4 => 13 | .i64 => 14 | .n64 => 15

def MFmt.ofCode : Nat → Option MFmt
  | 0 => some .f16 | 1 => some .bf16 | 2 => some .e4m3 | 3 => some .e5m2 | 4 => some .e4m3z | 5 => some .i8 | 6 => some .e2m1
  | 7 => some .i4 | 8 => some .l4 | 9 => some .i4x | _ => none

def MFmt.code : MFmt → Nat
  | .f16 => 0 | .bf16 => 1 | .e4m3 => 2 | .e5m2 => 3 | .e4m3z => 4 | .i8 => 5 | .e2m1 => 6 | .i4 => 7 | .l4 => 8 | .i4x => 9

def PFmt.ofCode : Nat → Option PFmt
  | 0 => some .f16 | 1 => some .bf16 | 2 => some .i16 | 3 => some .n16 | 4 => some .i8 | 5 => some .n8 | 6 => some .e4m3
  | 7 => some .e5m2 | 8 => some .e4m3z | 9 => some .e2m1 | 10 => some .i4 | _ => none

def PFmt.code : PFmt → Nat
  | .f16 => 0 | .bf16 => 1 | .i16 => 2 | .n16 => 3 | .i8 => 4 | .n8 => 5 | .e4m3 => 6 | .e5m2 => 7 | .e4m3z => 8
  | .e2m1 => 9 | .i4 => 10

/-- The type field of `vpack` and `vunpk` (R333) in the codes of R215. -/
def WTy.ofCode : Nat → Option WTy
  | 0 => some .i32 | 1 => some .n32 | 2 => some .f32 | _ => none

def WTy.code : WTy → Nat
  | .i32 => 0 | .n32 => 1 | .f32 => 2

def LdSize.ofCode : Nat → Option LdSize
  | 0 => some .n8 | 1 => some .n16 | 2 => some .n32 | 3 => some .n64 | 4 => some .i8 | 5 => some .i16 | 6 => some .i32
  | _ => none

def LdSize.code : LdSize → Nat
  | .n8 => 0 | .n16 => 1 | .n32 => 2 | .n64 => 3 | .i8 => 4 | .i16 => 5 | .i32 => 6

def StSize.ofCode : Nat → Option StSize
  | 0 => some .n8 | 1 => some .n16 | 2 => some .n32 | 3 => some .n64 | _ => none

def StSize.code : StSize → Nat
  | .n8 => 0 | .n16 => 1 | .n32 => 2 | .n64 => 3

def Scope.ofCode : Nat → Option Scope
  | 0 => some .th | 1 => some .tm | 2 => some .cl | 3 => some .dv | 4 => some .sy | _ => none

def Scope.code : Scope → Nat
  | .th => 0 | .tm => 1 | .cl => 2 | .dv => 3 | .sy => 4

def Scope4.ofCode : Nat → Option Scope4
  | 0 => some .tm | 1 => some .cl | 2 => some .dv | 3 => some .sy | _ => none

def Scope4.code : Scope4 → Nat
  | .tm => 0 | .cl => 1 | .dv => 2 | .sy => 3

def Ord.ofCode : Nat → Option Ord
  | 0 => some .none | 1 => some .acq | 2 => some .rel | 3 => some .ar | _ => none

def Ord.code : Ord → Nat
  | .none => 0 | .acq => 1 | .rel => 2 | .ar => 3

def AmoOp.ofCode : Nat → Option AmoOp
  | 0 => some .add | 1 => some .and | 2 => some .or | 3 => some .xor | 4 => some .swap | 5 => some .minI | 6 => some .maxI
  | 7 => some .minN | 8 => some .maxN | 9 => some .fadd | 10 => some .fmin | 11 => some .fmax | _ => none

def AmoOp.code : AmoOp → Nat
  | .add => 0 | .and => 1 | .or => 2 | .xor => 3 | .swap => 4 | .minI => 5 | .maxI => 6 | .minN => 7 | .maxN => 8
  | .fadd => 9 | .fmin => 10 | .fmax => 11

def SgnOp.ofCode : Nat → Option SgnOp
  | 0 => some .cp | 1 => some .ncp | 2 => some .xor | _ => none

def SgnOp.code : SgnOp → Nat
  | .cp => 0 | .ncp => 1 | .xor => 2

def Esz.ofCode : Nat → Option Esz
  | 0 => some .w4 | 1 => some .w8 | 2 => some .w16 | 3 => some .w32 | 4 => some .w64 | 5 => some .w128 | 6 => some .w256
  | 7 => some .bad | _ => none

def Esz.code : Esz → Nat
  | .w4 => 0 | .w8 => 1 | .w16 => 2 | .w32 => 3 | .w64 => 4 | .w128 => 5 | .w256 => 6 | .bad => 7

def RedOp.ofCode : Nat → Option RedOp
  | 0 => some .add | 1 => some .min | 2 => some .max | 3 => some .and | 4 => some .or | 5 => some .xor | _ => none

def RedOp.code : RedOp → Nat
  | .add => 0 | .min => 1 | .max => 2 | .and => 3 | .or => 4 | .xor => 5

/-- The letters of a fence set, bit 0 for l (R294). -/
def FSet.ofCode (n : Nat) : FSet := ⟨bitAt n 0, bitAt n 1, bitAt n 2, bitAt n 3⟩

def FSet.code (f : FSet) : Nat := b2n f.l + 2 * b2n f.s + 4 * b2n f.c + 8 * b2n f.m

/-! Tails: one splitter and one packer per class (R214). -/

structure X3Tail where
  xd : Reg
  xa : Reg
  xb : Reg
  g : Bool
deriving DecidableEq, Repr

def X3Tail.of (t : Nat) : X3Tail := ⟨.ofNat 5 (bits t 15 11), .ofNat 5 (bits t 10 6), .ofNat 5 (bits t 5 1), bitAt t 0⟩

def X3Tail.pack (t : X3Tail) : Nat := t.xd.toNat * 2 ^ 11 + t.xa.toNat * 2 ^ 6 + t.xb.toNat * 2 + b2n t.g

/-- An XI tail; sub is sub[4:0], g is sub[5]. -/
structure XITail where
  xd : Reg
  xa : Reg
  g : Bool
  sub : Nat
  imm : Nat
deriving DecidableEq, Repr

def XITail.of (t : Nat) : XITail :=
  ⟨.ofNat 5 (bits t 31 27), .ofNat 5 (bits t 26 22), bitAt t 21, bits t 20 16, bits t 15 0⟩

def XITail.pack (t : XITail) : Nat :=
  t.xd.toNat * 2 ^ 27 + t.xa.toNat * 2 ^ 22 + b2n t.g * 2 ^ 21 + t.sub * 2 ^ 16 + t.imm

/-- An XL tail; sub is sub[4:0], g is sub[5]. -/
structure XLTail where
  xd : Reg
  xa : Reg
  g : Bool
  sub : Nat
  imm : Nat
deriving DecidableEq, Repr

def XLTail.of (t : Nat) : XLTail :=
  ⟨.ofNat 5 (bits t 47 43), .ofNat 5 (bits t 42 38), bitAt t 37, bits t 36 32, bits t 31 0⟩

def XLTail.pack (t : XLTail) : Nat :=
  t.xd.toNat * 2 ^ 43 + t.xa.toNat * 2 ^ 38 + b2n t.g * 2 ^ 37 + t.sub * 2 ^ 32 + t.imm

def Target.of (t : Nat) : Target := ⟨.ofNat 26 (bits t 31 6), .ofNat 6 (bits t 5 0)⟩

def Target.pack (t : Target) : Nat := t.disp.toNat * 2 ^ 6 + t.idx.toNat

/-- An XB tail: a register over the B layout, with the bits between them (R214). -/
structure XBTail where
  x : Reg
  zero : Nat
  t : Target
deriving DecidableEq, Repr

def XBTail.of (t : Nat) : XBTail := ⟨.ofNat 5 (bits t 47 43), bits t 42 32, Target.of t⟩

def XBTail.pack (t : XBTail) : Nat := t.x.toNat * 2 ^ 43 + t.zero * 2 ^ 32 + t.t.pack

structure V3Tail where
  vd : VReg
  va : VReg
  vb : VReg
  sub : Nat
deriving DecidableEq, Repr

def V3Tail.of (t : Nat) : V3Tail := ⟨.ofNat 9 (bits t 31 23), .ofNat 9 (bits t 22 14), .ofNat 9 (bits t 13 5), bits t 4 0⟩

def V3Tail.pack (t : V3Tail) : Nat := t.vd.toNat * 2 ^ 23 + t.va.toNat * 2 ^ 14 + t.vb.toNat * 2 ^ 5 + t.sub

structure CTail where
  xd : Reg
  xa : Reg
  n : BitVec 12
  sub : Nat
deriving DecidableEq, Repr

def CTail.of (t : Nat) : CTail := ⟨.ofNat 5 (bits t 31 27), .ofNat 5 (bits t 26 22), .ofNat 12 (bits t 21 10), bits t 9 0⟩

def CTail.pack (t : CTail) : Nat := t.xd.toNat * 2 ^ 27 + t.xa.toNat * 2 ^ 22 + t.n.toNat * 2 ^ 10 + t.sub

structure V4Tail where
  vd : VReg
  va : VReg
  vb : VReg
  vc : VReg
  ty : Nat
  rm : Nat
  var : Nat
deriving DecidableEq, Repr

def V4Tail.of (t : Nat) : V4Tail :=
  ⟨.ofNat 9 (bits t 47 39), .ofNat 9 (bits t 38 30), .ofNat 9 (bits t 29 21), .ofNat 9 (bits t 20 12), bits t 11 8,
    bits t 7 5, bits t 4 0⟩

def V4Tail.pack (t : V4Tail) : Nat :=
  t.vd.toNat * 2 ^ 39 + t.va.toNat * 2 ^ 30 + t.vb.toNat * 2 ^ 21 + t.vc.toNat * 2 ^ 12 + t.ty * 2 ^ 8 + t.rm * 2 ^ 5 + t.var

structure VXTail where
  vd : VReg
  va : VReg
  s : Reg
  sub : Nat
  imm : Nat
deriving DecidableEq, Repr

def VXTail.of (t : Nat) : VXTail :=
  ⟨.ofNat 9 (bits t 47 39), .ofNat 9 (bits t 38 30), .ofNat 5 (bits t 29 25), bits t 24 16, bits t 15 0⟩

def VXTail.pack (t : VXTail) : Nat :=
  t.vd.toNat * 2 ^ 39 + t.va.toNat * 2 ^ 30 + t.s.toNat * 2 ^ 25 + t.sub * 2 ^ 16 + t.imm

structure MTail where
  acc : AccReg
  va : Blk
  vb : Blk
  vs : VReg
  fa : Nat
  fb : Nat
  var : Nat
deriving DecidableEq, Repr

def MTail.of (t : Nat) : MTail :=
  ⟨.ofNat 3 (bits t 47 45), .ofNat 5 (bits t 44 40), .ofNat 5 (bits t 39 35), .ofNat 9 (bits t 34 26), bits t 25 22,
    bits t 21 18, bits t 17 0⟩

def MTail.pack (t : MTail) : Nat :=
  t.acc.toNat * 2 ^ 45 + t.va.toNat * 2 ^ 40 + t.vb.toNat * 2 ^ 35 + t.vs.toNat * 2 ^ 26 + t.fa * 2 ^ 22 + t.fb * 2 ^ 18 +
    t.var

def Hd.of (head : Nat) : Hd := ⟨.ofNat 4 (bits head 5 2), bitAt head 1, bitAt head 0⟩

/-- A head: tail length code, opcode, guard and flag select (R207). -/
def Hd.pack (h : Hd) (tlen opc : Nat) : Nat :=
  tlen * 2 ^ 14 + opc * 2 ^ 6 + h.gp.toNat * 2 ^ 2 + b2n h.gs * 2 + b2n h.fs

/-! The decoder, one function per class and group of opcodes. Reserved fields come before values (R223 steps 5, 6). -/

def decN (opc : Nat) (h : Hd) : Except DecErr Instr :=
  match opc with
  | 0x01 => .ok (.nop h)
  | 0x07 => .ok (.ret h)
  | 0x0B => .ok (.eret h)
  | 0x0D => .ok (.yield h)
  | 0x75 => .ok (.done h)
  | 0x7F => .ok (.gret h)
  | 0xC2 => .ok (.mjoin h)
  | 0xC6 => .ok (.mready h)
  | _ => .error .opcode

def decB (opc : Nat) (h : Hd) (t : Target) : Except DecErr Instr :=
  match opc with
  | 0x02 => .ok (.br h t)
  | 0x05 => .ok (.call h t)
  | _ => .error .opcode

def decXB (opc : Nat) (h : Hd) (t : XBTail) : Except DecErr Instr :=
  rsv (t.zero == 0) <|
  match opc with
  | 0x03 => .ok (.jal h t.x t.t)
  | 0x08 => .ok (.loop h t.x t.t)
  | 0x7E => if t.x == 0 then .ok (.gcallLabel h t.t) else rsv (t.t.pack == 0) (.ok (.gcallReg h t.x))
  | _ => .error .opcode

/-- A three-register X3 instruction. -/
def X3Tail.r3 (t : X3Tail) : R3 := ⟨t.xd, t.xa, t.xb, t.g⟩
/-- A one-source X3 instruction: xb must be zero. -/
def X3Tail.r2 (t : X3Tail) : R2 := ⟨t.xd, t.xa, t.g⟩

def decX3 (opc : Nat) (h : Hd) (t : X3Tail) : Except DecErr Instr :=
  match opc with
  | 0x10 => .ok (.add h t.r3)
  | 0x11 => .ok (.sub h t.r3)
  | 0x15 => .ok (.mul h t.r3)
  | 0x19 => .ok (.and h t.r3)
  | 0x1A => .ok (.or h t.r3)
  | 0x1B => .ok (.xor h t.r3)
  | 0x1C => .ok (.andn h t.r3)
  | 0x1D => .ok (.orn h t.r3)
  | 0x1E => .ok (.xnor h t.r3)
  | 0x06 => rsv (t.xd == 0 && t.xb == 0) (.ok (.callr h t.xa))
  | 0x0E => rsv (t.xd == 0 && t.xb == 0) (.ok (.exit h t.xa))
  | 0x29 => rsv (t.xb == 0) (.ok (.clz h t.r2))
  | 0x2A => rsv (t.xb == 0) (.ok (.ctz h t.r2))
  | 0x2B => rsv (t.xb == 0) (.ok (.popc h t.r2))
  | 0x2C => rsv (t.xb == 0) (.ok (.brev h t.r2))
  | 0x2D => rsv (t.xb == 0) (.ok (.bswap h t.r2))
  | 0x4A => rsv (t.xb == 0) (.ok (.mov h t.r2))
  | 0x44 => rsv (t.xa == 0 && t.xb == 0) (.ok (.pget h t.xd))
  | 0x48 => rsv (t.xa == 0 && t.xb == 0) (.ok (.feClr h t.xd))
  | 0x49 => rsv (t.xb == 0 && t.xd.toNat < 16) (.ok (.feTst h (.ofNat 4 t.xd.toNat) t.xa))
  | _ => .error .opcode

def XITail.r2 (t : XITail) : R2 := ⟨t.xd, t.xa, t.g⟩
/-- A second source in imm16[4:0] (R214). -/
def XITail.r3 (t : XITail) : R3 := ⟨t.xd, t.xa, .ofNat 5 (bits t.imm 4 0), t.g⟩
def XITail.ri (t : XITail) : RI := ⟨t.xd, t.xa, .ofNat 16 t.imm, t.g⟩
def XITail.mem (t : XITail) : MemOp := ⟨t.xa, .ofNat 16 t.imm, t.g⟩
def XITail.rx (t : XITail) : RX := ⟨t.xd, t.xa, .ofNat 5 (bits t.imm 4 0), .ofNat 3 (bits t.imm 7 5), t.g⟩
/-- imm16[15:5] = 0, where imm16 holds only a register. -/
def XITail.immReg (t : XITail) : Bool := t.imm < 32
/-- The predicate of the xd field; bit 4 must be zero (R233). -/
def XITail.pd (t : XITail) : PReg := .ofNat 4 t.xd.toNat

/-- The shifts of R250. -/
def decShift (t : XITail) (k : R2 → ShAmt → Instr) : Except DecErr Instr :=
  if t.sub == 0 then rsv (t.imm < 64) (.ok (k t.r2 (.imm (.ofNat 6 t.imm))))
  else rsv (t.sub == 1 && t.immReg) (.ok (k t.r2 (.reg (.ofNat 5 t.imm))))

/-- The forms with sub[0] a choice and imm16[4:0] a register (R249, R253, R264). -/
def decSub0 (t : XITail) (k : Bool → R3 → Instr) : Except DecErr Instr :=
  rsv (t.sub < 2 && t.immReg) (.ok (k (t.sub == 1) t.r3))

/-- The two-operand floating-point forms (R262). -/
def decFp3 (t : XITail) (k : Bool → Rnd → R3 → Instr) : Except DecErr Instr :=
  rsv (t.sub < 16 && t.immReg) (vget (Rnd.ofCode (t.sub / 2)) fun rm => .ok (k (bitAt t.sub 0) rm t.r3))

/-- The predicate operations (R257). -/
def decPred (t : XITail) (k : PReg → PReg → PReg → Bool → Bool → Instr) : Except DecErr Instr :=
  rsv (t.xd.toNat < 16 && t.xa.toNat < 16 && t.imm < 64 && t.sub == 0)
    (.ok (k t.pd (.ofNat 4 t.xa.toNat) (.ofNat 4 (bits t.imm 3 0)) (bitAt t.imm 4) (bitAt t.imm 5)))

/-- The cache-control forms (R286, R287): sub chooses .l1 or .cc. -/
def decCc (t : XITail) (l1 cc : MemOp → Instr) : Except DecErr Instr :=
  rsv (t.xd == 0) (if t.sub == 0 then .ok (l1 t.mem) else vok (t.sub == 1) (.ok (cc t.mem)))

/-- Opcodes 0x0_ of class XI. -/
def decXI0 (opc : Nat) (h : Hd) (t : XITail) : Except DecErr Instr :=
  match opc with
  | 0x04 => rsv (t.sub == 0) (.ok (.jalr h t.xd t.xa (.ofNat 16 t.imm)))
  | 0x09 => rsv (t.xd == 0 && t.xa == 0 && t.sub == 0) (.ok (.trap h (.ofNat 16 t.imm)))
  | 0x0A => rsv (t.xd == 0 && t.xa == 0 && t.sub == 0) (.ok (.sysc h (.ofNat 16 t.imm)))
  | 0x0C => rsv (t.xd == 0 && t.xa == 0 && t.sub == 0) (.ok (.brk h (.ofNat 16 t.imm)))
  | 0x0F => rsv (t.xd == 0 && t.xa == 0 && t.sub == 0) (.ok (.sleep h (.ofNat 16 t.imm)))
  | _ => .error .opcode

/-- Opcodes 0x1_ and 0x2_ of class XI. -/
def decXI1 (opc : Nat) (h : Hd) (t : XITail) : Except DecErr Instr :=
  match opc with
  | 0x12 => rsv (t.sub == 0) (.ok (.addi h t.ri))
  | 0x1F => rsv (t.sub == 0) (.ok (.andi h t.ri))
  | 0x20 => rsv (t.sub == 0) (.ok (.ori h t.ri))
  | 0x21 => rsv (t.sub == 0) (.ok (.xori h t.ri))
  | 0x16 => rsv t.immReg (vget (MulhKind.ofCode t.sub) fun k => .ok (.mulh h k t.r3))
  | 0x17 => decSub0 t (.div h)
  | 0x18 => decSub0 t (.rem h)
  | 0x22 => decShift t (.shl h)
  | 0x23 => decShift t (.shr h)
  | 0x24 => decShift t (.sar h)
  | 0x25 => decShift t (.rotr h)
  | 0x26 => rsv (t.sub == 0 && t.imm < 2 ^ 11) (.ok (.shfi h t.r3 (.ofNat 6 (bits t.imm 10 5))))
  | 0x27 => decSub0 t (.min h)
  | 0x28 => decSub0 t (.max h)
  | 0x2E => rsv (t.imm < 2 ^ 12) (vok (t.sub < 2)
      (.ok (.bfe h (t.sub == 1) t.r2 (.ofNat 6 (bits t.imm 5 0)) (.ofNat 6 (bits t.imm 11 6)))))
  | 0x2F => rsv (t.imm < 2 ^ 12) (vok (t.sub == 0)
      (.ok (.bfi h t.r2 (.ofNat 6 (bits t.imm 5 0)) (.ofNat 6 (bits t.imm 11 6)))))
  | _ => .error .opcode

/-- Opcodes 0x3_ of class XI. -/
def decXI3 (opc : Nat) (h : Hd) (t : XITail) : Except DecErr Instr :=
  match opc with
  | 0x30 => rsv (t.sub == 0 && t.imm < 2 ^ 9)
      (.ok (.sel h t.xd t.xa (.ofNat 5 (bits t.imm 4 0)) (.ofNat 4 (bits t.imm 8 5))))
  | 0x31 => rsv (t.sub == 0 && t.imm < 64) (.ok (.sext h t.r2 (.ofNat 6 t.imm)))
  | 0x32 => rsv (t.sub == 0 && t.imm < 64) (.ok (.zext h t.r2 (.ofNat 6 t.imm)))
  | 0x33 => rsv (t.xd.toNat < 16 && t.immReg) (vget (Cond.ofCode (t.sub % 8)) fun c => vget (Comb.ofCode (t.sub / 8)) fun k =>
      .ok (.cmp h c k t.pd t.xa (.ofNat 5 (bits t.imm 4 0)) t.g))
  | 0x36 => decFp3 t (.fadd h)
  | 0x37 => decFp3 t (.fsub h)
  | 0x38 => decFp3 t (.fmul h)
  | 0x3A => decSub0 t (.fmin h)
  | 0x3B => decSub0 t (.fmax h)
  | 0x3C => rsv (t.xd.toNat < 16 && t.sub < 16 && t.immReg) (vget (FCond.ofCode (t.sub / 2)) fun c =>
      .ok (.fcmp h (bitAt t.sub 0) c t.pd t.xa (.ofNat 5 (bits t.imm 4 0)) t.g))
  | 0x3D => rsv (t.sub < 16 && t.imm < 256) (vget (Rnd.ofCode (t.sub % 8)) fun rm =>
      vget (XFmt.ofCode (bits t.imm 7 4)) fun d => vget (XFmt.ofCode (bits t.imm 3 0)) fun s =>
      vok (!(d.isInt && s.isInt)) (.ok (.fcvt h d s rm (bitAt t.sub 3) t.r2)))
  | 0x3E => rsv (t.sub < 16 && t.imm == 0) (vget (Rnd.ofCode (t.sub / 2)) fun rm => .ok (.frcp h (bitAt t.sub 0) rm t.r2))
  | 0x3F => rsv (t.sub < 16 && t.imm == 0) (vget (Rnd.ofCode (t.sub / 2)) fun rm => .ok (.frsq h (bitAt t.sub 0) rm t.r2))
  | _ => .error .opcode

/-- Opcodes 0x4_ of class XI. -/
def decXI4 (opc : Nat) (h : Hd) (t : XITail) : Except DecErr Instr :=
  match opc with
  | 0x40 => decPred t (.pand h)
  | 0x41 => decPred t (.por h)
  | 0x42 => decPred t (.pxor h)
  | 0x43 =>
    if t.sub == 0 then rsv (t.xd.toNat < 16 && t.xa == 0 && t.imm < 2) (.ok (.pset h t.pd (t.imm == 1)))
    else if t.sub == 1 then rsv (t.xd.toNat < 16 && t.imm == 0) (.ok (.psetNz h t.pd t.xa))
    else vok (t.sub == 2) (rsv (t.xd == 0 && t.imm == 0) (.ok (.psetAll h t.xa)))
  | 0x4B => rsv (t.sub < 8 && t.immReg) (vget (SgnOp.ofCode (t.sub / 2)) fun op => .ok (.fsgn h (bitAt t.sub 0) op t.r3))
  | 0x4C => rsv (t.sub < 2 && t.imm == 0) (.ok (.fclass h (t.sub == 1) t.r2))
  | _ => .error .opcode

/-- Opcodes 0x5_ and 0x6_ of class XI. -/
def decXI5 (opc : Nat) (h : Hd) (t : XITail) : Except DecErr Instr :=
  match opc with
  | 0x50 => rsv (t.sub < 8) (vget (LdSize.ofCode t.sub) fun z => .ok (.ld h z t.ri))
  | 0x51 => rsv (t.sub < 8 && t.imm < 256) (vget (LdSize.ofCode t.sub) fun z => .ok (.ldx h z t.rx))
  | 0x52 => rsv (t.sub < 8) (vget (StSize.ofCode t.sub) fun z => .ok (.st h z t.ri))
  | 0x53 => rsv (t.sub < 8 && t.imm < 256) (vget (StSize.ofCode t.sub) fun z => .ok (.stx h z t.rx))
  | 0x54 => rsv (t.sub == 0) (.ok (.ldp h t.ri))
  | 0x55 => rsv (t.sub == 0) (.ok (.stp h t.ri))
  | 0x56 => decCc t (.prefL1 h) (.prefCc h)
  | 0x57 => decCc t (.ccWbL1 h) (.ccWbCc h)
  | 0x58 => decCc t (.ccInvL1 h) (.ccInvCc h)
  | 0x59 => rsv (t.xa == 0 && t.sub == 0 && t.imm < 4) (.ok (.ccPin h t.xd (.ofNat 2 t.imm)))
  | 0x5A => vget (LdSize.ofCode (t.sub % 8)) fun z => vget (Scope4.ofCode (t.sub / 8)) fun s => .ok (.ldAcq h z s t.ri)
  | 0x5B => vget (StSize.ofCode (t.sub % 8)) fun z => vget (Scope4.ofCode (t.sub / 8)) fun s => .ok (.stRel h z s t.ri)
  | 0x63 => rsv (t.xd == 0 && t.xa == 0 && t.sub < 8 && t.imm < 256) (vget (Scope.ofCode t.sub) fun s =>
      let p := FSet.ofCode (bits t.imm 3 0)
      let q := FSet.ofCode (bits t.imm 7 4)
      vok (p.nonempty && q.nonempty) (.ok (.fence h s p q)))
  | 0x64 => rsv (t.sub == 0) (.ok (.watch h ⟨t.xd, t.xa, .ofNat 16 t.imm, false⟩))
  | 0x65 => rsv (t.xa == 0 && t.sub == 0 && t.imm == 0) (.ok (.unwatch h t.xd))
  | _ => .error .opcode

/-- Opcodes 0x7_ of class XI. -/
def decXI7 (opc : Nat) (h : Hd) (t : XITail) : Except DecErr Instr :=
  match opc with
  | 0x73 => rsv (t.xa == 0 && t.immReg) (if t.sub == 0 then .ok (.chwm h t.xd (.ofNat 5 t.imm) t.g)
      else vok (t.sub == 1) (.ok (.chwmSt h t.xd (.ofNat 5 t.imm) t.g)))
  | 0x76 => rsv (t.xd == 0 && t.sub == 0 && t.imm < 16) (.ok (.bind h (.ofNat 4 t.imm) t.xa))
  | 0x77 => rsv (t.sub == 0) (.ok (.fenter h t.ri))
  | 0x78 => rsv (t.sub == 0 && t.imm == 0) (.ok (.fleave h t.r2))
  | 0x79 => rsv (t.xd == 0 && t.sub == 0 && t.immReg) (.ok (.finc h t.xa (.ofNat 5 t.imm)))
  | 0x7A => rsv (t.sub == 0 && t.imm < 2 ^ 10) (.ok (.fhold h t.xd t.xa (.ofNat 10 t.imm)))
  | 0x7B => rsv (t.xd == 0 && t.sub == 0 && t.imm == 0) (.ok (.fdrop h t.xa))
  | 0x7C => rsv (t.xd == 0 && t.sub == 0 && t.imm < 2 ^ 10) (.ok (.fwait h t.xa (.ofNat 10 t.imm) t.g))
  | 0x7D => rsv (t.xa == 0 && t.imm < 2 ^ 10) (if t.sub == 0 then .ok (.fprobe h t.xd (.ofNat 10 t.imm) t.g)
      else vok (t.sub == 1) (.ok (.fprobeInfo h t.xd (.ofNat 10 t.imm) t.g)))
  | _ => .error .opcode

/-- Opcodes 0xE_ of class XI. -/
def decXIE (opc : Nat) (h : Hd) (t : XITail) : Except DecErr Instr :=
  match opc with
  | 0xE0 =>
    if t.sub == 0 then rsv (t.imm < 256) (.ok (.tlbinvPg h t.xd t.xa (.ofNat 8 t.imm)))
    else if t.sub == 1 then rsv (t.imm < 256 && t.xa == 0) (.ok (.tlbinvAs h t.xd (.ofNat 8 t.imm)))
    else vok (t.sub == 2) (rsv (t.xa == 0 && t.imm == 0) (.ok (.tlbinvAll h t.xd)))
  | 0xE2 => rsv (t.sub == 0 && t.immReg) (.ok (.ctxsave h t.xd t.xa (.ofNat 5 t.imm)))
  | 0xE3 => rsv (t.sub == 0 && t.imm == 0) (.ok (.ctxrest h t.xd t.xa))
  | 0xE4 => rsv (t.sub == 0 && t.imm == 0) (.ok (.ipi h t.xd t.xa))
  | 0xE5 =>
    if t.sub == 0 then rsv (t.imm == 0) (.ok (.fgraphIns h t.xd t.xa))
    else if t.sub == 1 then rsv (t.imm == 0) (.ok (.fgraphExt h t.xd t.xa))
    else vok (t.sub == 2) (rsv (t.xa == 0 && t.imm < 2 ^ 10) (.ok (.fgraphDel h t.xd (.ofNat 10 t.imm))))
  | _ => .error .opcode

def decXI (opc : Nat) (h : Hd) (t : XITail) : Except DecErr Instr :=
  match opc / 16 with
  | 0x0 => decXI0 opc h t
  | 0x1 | 0x2 => decXI1 opc h t
  | 0x3 => decXI3 opc h t
  | 0x4 => decXI4 opc h t
  | 0x5 | 0x6 => decXI5 opc h t
  | 0x7 => decXI7 opc h t
  | _ => decXIE opc h t

/-- A channel-field write (R299). -/
def decChset (h : Hd) (t : XLTail) : Except DecErr Instr :=
  let ch : BitVec 5 := .ofNat 5 (bits t.imm 4 0)
  match t.sub with
  | 0 => rsv (t.xd == 0 && t.imm < 32) (.ok (.chsetFill h ch t.xa t.g))
  | 1 => rsv (t.xd == 0 && t.imm < 32) (.ok (.chsetTable h ch t.xa t.g))
  | 2 => rsv (t.xd == 0 && t.imm < 32) (.ok (.chsetNsrc h ch t.xa t.g))
  | 3 => rsv (t.xd == 0 && t.imm < 2 ^ 15) (.ok (.chsetFolio h ch t.xa (.ofNat 10 (bits t.imm 14 5)) t.g))
  | _ => rsv (t.xd == 0 && t.imm < 2 ^ 15) (.error .variant)

def decXL (opc : Nat) (h : Hd) (t : XLTail) : Except DecErr Instr :=
  let xb : Reg := .ofNat 5 (bits t.imm 4 0)
  let xb9 : Reg := .ofNat 5 (bits t.imm 9 5)
  match opc with
  | 0x13 =>
    if t.sub == 0 then rsv (t.xa == 0) (.ok (.li h t.xd (.ofNat 32 t.imm) t.g))
    else if t.sub == 1 then rsv (t.xa == 0) (.ok (.liZ h t.xd (.ofNat 32 t.imm) t.g))
    else vok (t.sub == 2) (.ok (.liHi h t.xd t.xa (.ofNat 32 t.imm) t.g))
  | 0x14 => rsv (t.xa == 0) (vok (t.sub == 0) (.ok (.addpc h t.xd (Target.of t.imm) t.g)))
  | 0x34 => rsv (t.xd.toNat < 16) (vget (Cond.ofCode (t.sub % 8)) fun c => vget (Comb.ofCode (t.sub / 8)) fun k =>
      .ok (.cmpi h c k (.ofNat 4 t.xd.toNat) t.xa (.ofNat 32 t.imm) t.g))
  | 0x39 => rsv (t.imm < 2 ^ 10) (vget (Rnd.ofCode (bits t.sub 3 1)) fun rm =>
      .ok (.ffma h (bitAt t.sub 4) (bitAt t.sub 0) rm ⟨t.xd, t.xa, xb, t.g⟩ xb9))
  | 0x60 => rsv (t.sub == 0) (vget (Scope.ofCode (bits t.imm 15 13)) fun s => vget (Ord.ofCode (bits t.imm 12 11)) fun o =>
      vget (AmoOp.ofCode (bits t.imm 9 5)) fun op =>
      .ok (.amo h op s o (bitAt t.imm 10) ⟨t.xd, t.xa, xb, t.g⟩ (.ofNat 16 (bits t.imm 31 16))))
  | 0x61 => rsv (t.sub == 0) (vget (Scope.ofCode (bits t.imm 15 13)) fun s => vget (Ord.ofCode (bits t.imm 12 11)) fun o =>
      .ok (.cas h s o (bitAt t.imm 10) ⟨t.xd, t.xa, xb, t.g⟩ xb9 (.ofNat 16 (bits t.imm 31 16))))
  | 0x62 => rsv (t.sub == 0) (vok (t.xd == 0) (vget (Scope.ofCode (bits t.imm 15 13)) fun s =>
      vget (AmoOp.ofCode (bits t.imm 9 5)) fun op => vok (op != .swap && (bits t.imm 12 11 == 0 || bits t.imm 12 11 == 2))
      (.ok (.red h op s (bits t.imm 12 11 == 2) (bitAt t.imm 10) t.xa xb t.g (.ofNat 16 (bits t.imm 31 16))))))
  | 0x70 => rsv (t.sub == 0 && t.imm < 2 ^ 12)
      (.ok (.cpy h (bitAt t.imm 11) (bitAt t.imm 10) xb ⟨t.xd, t.xa, xb9, t.g⟩))
  | 0x71 => rsv (t.sub == 0 && t.imm < 2 ^ 15) (vget (Esz.ofCode (bits t.imm 14 12)) fun z =>
      .ok (.cpyg h z (bitAt t.imm 11) (bitAt t.imm 10) xb ⟨t.xd, t.xa, xb9, t.g⟩))
  | 0x72 => decChset h t
  | 0x74 => rsv (t.sub == 0 && t.imm < 2 ^ 16) (vok (bits t.imm 15 12 ≤ 8)
      (.ok (.send h (.ofNat 12 (bits t.imm 11 0)) (.ofNat 4 (bits t.imm 15 12)) t.xd t.xa)))
  | 0xE1 => rsv (t.sub == 0 && t.imm < 2 ^ 10) (.ok (.scrub h t.xd t.xa (.ofNat 10 t.imm)))
  | _ => .error .opcode

def decC (opc : Nat) (h : Hd) (t : CTail) : Except DecErr Instr :=
  match opc with
  | 0x45 => rsv (t.xa == 0 && t.sub == 0) (.ok (.csrr h t.xd t.n))
  | 0x46 => rsv (t.xd == 0 && t.sub == 0) (.ok (.csrw h t.n t.xa))
  | 0x47 => if t.sub == 0 then .ok (.csrxSwap h t.xd t.n t.xa) else if t.sub == 1 then .ok (.csrxSet h t.xd t.n t.xa)
      else vok (t.sub == 2) (.ok (.csrxClr h t.xd t.n t.xa))
  | _ => .error .opcode

def V3Tail.r (t : V3Tail) : V3 := ⟨t.vd, t.va, t.vb⟩

def decV3 (opc : Nat) (h : Hd) (t : V3Tail) : Except DecErr Instr :=
  match opc with
  | 0x8C => rsv (t.sub == 0) (.ok (.vand h t.r))
  | 0x8D => rsv (t.sub == 0) (.ok (.vor h t.r))
  | 0x8E => rsv (t.sub == 0) (.ok (.vxor h t.r))
  | 0x8F => rsv (t.sub == 0) (.ok (.vandn h t.r))
  | 0x94 => rsv (t.sub == 0 && t.vb == 0) (.ok (.vpopc h t.vd t.va))
  | 0x9A => rsv (t.sub < 2 && t.vb == 0) (.ok (.vmov h (t.sub == 1) t.vd t.va))
  | _ => .error .opcode

def V4Tail.r (t : V4Tail) : V3 := ⟨t.vd, t.va, t.vb⟩

/-- Type and rounding mode of a V4 tail, the rounding field zero where nothing rounds (R320). -/
def decTyRm (t : V4Tail) (rounds : Ety → Bool) (k : Ety → Rnd → Except DecErr Instr) : Except DecErr Instr :=
  vget (Ety.ofCode t.ty) fun ty => rsv (rounds ty || t.rm == 0) (vget (Rnd.ofCode t.rm) fun rm => k ty rm)

/-- A V4 form that never rounds. -/
def decTy (t : V4Tail) (zero : Bool) (ok : Ety → Bool) (k : Ety → Instr) : Except DecErr Instr :=
  rsv (zero && t.rm == 0) (vget (Ety.ofCode t.ty) fun ty => vok (ok ty) (.ok (k ty)))

/-- `vadd`, `vsub`, `vmul` (R323). -/
def decArith (t : V4Tail) (k : VA → Instr) : Except DecErr Instr :=
  rsv (t.vc == 0) (decTyRm t (fun ty => !ty.isInt) fun ty rm => vok (t.var < 2)
    (.ok (k ⟨ty, rm, t.var == 1, t.vd, t.va, t.vb⟩)))

/-- The estimates (R324). -/
def decEst (t : V4Tail) (k : Ety → Rnd → VReg → VReg → Instr) : Except DecErr Instr :=
  rsv (t.vb == 0 && t.vc == 0 && t.var == 0) (decTyRm t (fun ty => ty != .f32) fun ty rm => vok ty.estOk
    (.ok (k ty rm t.vd t.va)))

/-- The vector shifts (R328). -/
def decVShift (t : V4Tail) (k : Ety → VReg → VReg → VAmt → Instr) : Except DecErr Instr :=
  if t.var == 0 then decTy t (t.vc == 0) Ety.isInt fun ty => k ty t.vd t.va (.reg t.vb)
  else if t.var == 1 then decTy t (t.vb == 0) Ety.isInt fun ty => k ty t.vd t.va (.imm t.vc)
  else rsv (t.rm == 0) (.error .variant)

/-- Opcodes 0x80 to 0x8B. -/
def decV48 (opc : Nat) (h : Hd) (t : V4Tail) : Except DecErr Instr :=
  match opc with
  | 0x80 => decArith t (.vadd h)
  | 0x81 => decArith t (.vsub h)
  | 0x82 => decArith t (.vmul h)
  | 0x83 => decTyRm t (fun ty => !ty.isInt) fun ty rm => vok (t.var < 4)
      (.ok (.vfma h (bitAt t.var 1) ⟨ty, rm, bitAt t.var 0, t.vd, t.va, t.vb⟩ t.vc))
  | 0x84 => decTy t (t.vc == 0 && t.var == 0) (fun _ => true) fun ty => .vmin h ty t.r
  | 0x85 => decTy t (t.vc == 0 && t.var == 0) (fun _ => true) fun ty => .vmax h ty t.r
  | 0x86 =>
    if t.var == 0 then decTy t (t.vc == 0) (fun ty => !ty.isInt) fun ty => .vsgnCp h ty t.r
    else if t.var == 1 then decTy t (t.vc == 0) (fun ty => !ty.isInt) fun ty => .vsgnNcp h ty t.r
    else if t.var == 2 then decTy t (t.vc == 0) (fun ty => !ty.isInt) fun ty => .vsgnXor h ty t.r
    else if t.var == 3 then decTy t (t.vc == 0 && t.vb == 0) (fun ty => !ty.isInt) fun ty => .vsgnAbs h ty t.vd t.va
    else if t.var == 4 then decTy t (t.vc == 0 && t.vb == 0) (fun ty => !ty.isInt) fun ty => .vsgnNeg h ty t.vd t.va
    else rsv (t.rm == 0 && t.vc == 0) (.error .variant)
  | 0x87 => decEst t (.vrcp h)
  | 0x88 => decEst t (.vrsq h)
  | 0x89 => decEst t (.vexp2 h)
  | 0x8A => decEst t (.vlog2 h)
  | 0x8B => decTy t (t.vc == 0 && t.var == 0) Ety.mulhOk fun ty => .vmulh h ty t.r
  | _ => .error .opcode

/-- A type field of .n32 or .n64 (R330, R337). -/
def decN64 (t : V4Tail) (zero : Bool) (k : Bool → Instr) : Except DecErr Instr :=
  rsv (zero && t.rm == 0) (vok (t.ty == 1 || t.ty == 15) (.ok (k (t.ty == 15))))

/-- Opcodes 0x90 to 0x9C of class V4. -/
def decV49 (opc : Nat) (h : Hd) (t : V4Tail) : Except DecErr Instr :=
  match opc with
  | 0x90 => decVShift t (.vshl h)
  | 0x91 => decVShift t (.vshr h)
  | 0x92 => decVShift t (.vsar h)
  | 0x93 => decTy t (t.vb == 0 && t.vc == 0 && t.var == 0) Ety.isInt fun ty => .vclz h ty t.vd t.va
  | 0x95 => rsv (t.vd.toNat < 16 && t.vc == 0 && t.rm == 0) (vget (Ety.ofCode t.ty) fun ty =>
      vget (FCond.ofCode (t.var % 8)) fun c => vget (Comb.ofCode (t.var / 8)) fun k =>
      vok (!ty.isPacked && !(ty.isInt && (c == .un || c == .ord))) (.ok (.vcmp h ty c k (.ofNat 4 t.vd.toNat) t.va t.vb)))
  | 0x96 => decN64 t (t.vc.toNat < 16 && t.var == 0) fun w => .vsel h w t.r (.ofNat 4 t.vc.toNat)
  | 0x97 => rsv (t.vb == 0 && t.vc == 0) (vget (XFmt.ofCode (t.var % 16)) fun s =>
      decTyRm t (fun d => !(d.isInt && s.isInt)) fun d rm => vok (!d.isPacked)
        (.ok (.vcvt h d s rm (bitAt t.var 4) t.vd t.va)))
  | 0x98 => rsv (t.vc == 0) (vget (PFmt.ofCode (t.var % 16)) fun f => rsv (f.takesScale || t.vb == 0)
      (vget (WTy.ofCode t.ty) fun ty => rsv (!(f.isInt && ty != .f32) || t.rm == 0)
        (vget (Rnd.ofCode t.rm) fun rm => .ok (.vpack h f ty rm (bitAt t.var 4) t.r))))
  | 0x99 => rsv (t.vb == 0 && t.vc == 0) (vget (PFmt.ofCode (t.var % 16)) fun f => vget (WTy.ofCode t.ty) fun ty =>
      rsv ((!f.isInt && ty != .f32) || t.rm == 0)
        (vget (Rnd.ofCode t.rm) fun rm => .ok (.vunpk h f ty rm (bitAt t.var 4) t.vd t.va)))
  | 0x9C =>
    if t.var == 0 then decN64 t (t.vc == 0) fun w => .vshfIdx h w t.r
    else if t.var == 1 then rsv (t.vb == 0 && t.rm == 0) (vok (t.vc.toNat < 128)
      (decN64 t true fun w => .vshfXor h w t.vd t.va (.ofNat 7 t.vc.toNat)))
    else if t.var == 2 then rsv (t.vb == 0 && t.rm == 0) (vok (t.vc.toNat < 128)
      (decN64 t true fun w => .vshfUp h w t.vd t.va (.ofNat 7 t.vc.toNat)))
    else if t.var == 3 then rsv (t.vb == 0 && t.rm == 0) (vok (t.vc.toNat < 128)
      (decN64 t true fun w => .vshfDn h w t.vd t.va (.ofNat 7 t.vc.toNat)))
    else rsv (t.rm == 0 && t.var < 4) (.error .variant)
  | 0x9F => rsv (t.vb == 0 && t.vc == 0) (decTyRm t (fun ty => !ty.isInt && t.var % 8 == 0) fun ty rm =>
      vget (RedOp.ofCode (t.var % 8)) fun op => vok (redOk op ty rm (bitAt t.var 4) && !bitAt t.var 3)
        (.ok (.vred h op ty rm (bitAt t.var 4) t.vd t.va)))
  | _ => .error .opcode

/-- Opcodes 0xA0 to 0xAF of class V4. -/
def decV4A (opc : Nat) (h : Hd) (t : V4Tail) : Except DecErr Instr :=
  match opc with
  | 0xA0 => rsv (t.vb == 0 && t.vc == 0) (decTyRm t (fun ty => !ty.isInt && t.var % 8 == 0) fun ty rm =>
      vget (RedOp.ofCode (t.var % 8)) fun op => vok (redOk op ty rm (bitAt t.var 4))
        (.ok (.vscan h op ty rm (bitAt t.var 4) (bitAt t.var 3) t.vd t.va)))
  | 0xA2 => decN64 t (t.vb == 0 && t.var == 0 && t.vc.toNat < 16) fun w => .vconf h w t.vd t.va (.ofNat 4 t.vc.toNat)
  | 0xA3 => rsv (t.vc == 0) (decTyRm t (fun ty => !ty.isInt && t.var % 8 == 0) fun ty rm =>
      vget (RedOp.ofCode (t.var % 8)) fun op => vok (redOk op ty rm (bitAt t.var 4) && !bitAt t.var 3)
        (.ok (.vseg h op ty rm (bitAt t.var 4) t.r)))
  | 0xA4 => rsv (t.rm == 0) (vget (Ety.ofCode t.ty) fun ty => vok (ty.distOk && t.vc != 0)
      (.ok (.vtopk h ty t.r t.vc (.ofNat 5 t.var))))
  | 0xA5 => rsv (t.rm == 0) (vget (Ety.ofCode t.ty) fun ty => vok (ty.distOk && t.vc != 0)
      (.ok (.vmrgk h ty t.r t.vc (.ofNat 5 t.var))))
  | 0xA6 =>
    if t.var == 0 then rsv (t.vb == 0 && t.vc == 0 && t.ty == 0 && t.rm == 0) (.ok (.vlutL4 h t.vd t.va))
    else rsv (t.vc == 0 && t.ty == 0 && t.rm == 0) (vok (t.var == 1) (.ok (.vlutTab h t.r)))
  | 0xAB => rsv (t.rm == 0 && (t.var % 16 == 12 || t.vc == 0)) (vget (Ety.ofCode t.ty) fun ty =>
      if t.var % 16 == 12 then vok ((VAmoOp.cas t.vc).tyOk ty) (.ok (.vamo h (.cas t.vc) ty (bitAt t.var 4) t.r))
      else vget (AmoOp.ofCode (t.var % 16)) fun op => vok ((VAmoOp.op op).tyOk ty)
        (.ok (.vamo h (.op op) ty (bitAt t.var 4) t.r)))
  | 0xAD => decTyRm t (fun ty => !ty.isInt) fun ty rm => vok (ty.dotOk && t.var < 2 && (t.var == 0 || ty.isInt))
      (.ok (.vdot h ⟨ty, rm, t.var == 1, t.vd, t.va, t.vb⟩ t.vc))
  | 0xAE => rsv (t.vc == 0) (decTyRm t (fun ty => !ty.isInt) fun ty rm => vok (ty.divOk && t.var < 2 && (t.var == 0 || ty.isInt))
      (.ok (.vdiv h ty rm (t.var == 1) t.r)))
  | 0xAF => rsv (t.vb == 0 && t.vc == 0 && t.var == 0) (decTyRm t (fun _ => true) fun ty rm => vok ty.sqrtOk
      (.ok (.vsqrt h ty rm t.vd t.va)))
  | _ => .error .opcode

def decV4 (opc : Nat) (h : Hd) (t : V4Tail) : Except DecErr Instr :=
  match opc / 16 with
  | 0x8 => decV48 opc h t
  | 0x9 => decV49 opc h t
  | _ => decV4A opc h t

/-- The lane number of `vbcast` and `vrot` (R339). -/
def decLane (t : VXTail) (k : Bool → LaneSrc → Instr) : Except DecErr Instr :=
  if bitAt t.sub 0 then rsv (t.sub < 4 && t.imm == 0) (.ok (k (bitAt t.sub 1) (.sreg t.s)))
  else rsv (t.sub < 4 && t.s == 0 && t.imm < 128) (.ok (k (bitAt t.sub 1) (.imm (.ofNat 7 t.imm))))

/-- The address mode of `vld` and `vst` (R347). -/
def decVMode (t : VXTail) (k : VMode → Except DecErr Instr) : Except DecErr Instr :=
  match bits t.sub 4 3 with
  | 0 => rsv (t.va == 0 && t.sub < 32) (k .unit)
  | 1 => rsv (t.va == 0 && t.sub < 32) (k .stride)
  | 2 => rsv (t.sub < 256) (k (.index t.va (.ofNat 3 (bits t.sub 7 5))))
  | _ => rsv (t.sub < 256) (.error .variant)

def decVX (opc : Nat) (h : Hd) (t : VXTail) : Except DecErr Instr :=
  match opc with
  | 0x9B =>
    if bitAt t.sub 0 then rsv (t.sub < 4 && t.va == 0 && t.imm == 0) (.ok (.vsplat h (bitAt t.sub 1) t.vd (.sreg t.s)))
    else rsv (t.sub < 4 && t.va == 0 && t.s == 0) (vok (t.sub == 0) (.ok (.vsplat h false t.vd (.imm (.ofNat 16 t.imm)))))
  | 0x9D => decLane t fun w src => .vbcast h w t.vd t.va src
  | 0x9E => decLane t fun w src => .vrot h w t.vd t.va src
  | 0xA1 => rsv (t.sub < 4 && t.imm < 16 && t.vd == 0 && t.va == 0) (vok (t.sub != 3)
      (.ok (.vballot h (bitAt t.sub 0) (bitAt t.sub 1) t.s (.ofNat 4 t.imm))))
  | 0xA7 => decVMode t fun m => vget (LdSize.ofCode (t.sub % 8)) fun z => .ok (.vld h z m t.vd t.s (.ofNat 16 t.imm))
  | 0xA8 => rsv (t.sub < 16 && t.va == 0) (.ok (.vldc h (.ofNat 4 t.sub) t.vd t.s (.ofNat 16 t.imm)))
  | 0xA9 => decVMode t fun m => vget (StSize.ofCode (t.sub % 8)) fun z => .ok (.vst h z m t.vd t.s (.ofNat 16 t.imm))
  | 0xAA => rsv (t.sub < 16 && t.va == 0) (.ok (.vstc h (.ofNat 4 t.sub) t.vd t.s (.ofNat 16 t.imm)))
  | 0xAC => rsv (t.sub < 256) (vget (AmoOp.ofCode (t.sub % 16)) fun op => vget (Scope.ofCode (bits t.sub 7 5)) fun sc =>
      vok (op != .swap) (.ok (.vrdm h op (bitAt t.sub 4) sc t.vd t.va t.s (.ofNat 16 t.imm))))
  | _ => .error .opcode

/-- The format pair, `.mx` and scale field of a product (R354, R355, R361). -/
def decMM (t : MTail) (ok : MM → Bool) (k : MM → Instr) : Except DecErr Instr :=
  rsv (t.var < 4) (vget (MFmt.ofCode t.fa) fun fa => vget (MFmt.ofCode t.fb) fun fb =>
    let m : MM := ⟨t.acc, t.va, t.vb, t.vs, fa, fb, bitAt t.var 0, bitAt t.var 1⟩
    rsv (m.scaleRegs != 0 || t.vs == 0) (vok (m.ok && ok m) (.ok (k m))))

/-- `mrd` (R366). -/
def decMrd (h : Hd) (t : MTail) : Except DecErr Instr :=
  let mk := fun k => Instr.mrd h t.acc t.va (.ofNat 2 (bits t.var 1 0)) (.ofNat 4 (bits t.var 11 8)) k
  rsv (t.vb == 0 && t.vs == 0 && t.fb == 0 && t.var < 2 ^ 12) <|
    if bitAt t.var 2 then
      if bitAt t.var 7 then rsv (bits t.var 5 3 == 0) (vok (t.fa == 5) (.ok (mk (.i8 (bitAt t.var 6)))))
      else vget (MFmt.ofCode t.fa) fun f => vok f.moveOk (vget (Rnd.ofCode (bits t.var 5 3)) fun rm =>
        .ok (mk (.fp f rm (bitAt t.var 6))))
    else rsv (t.fa == 0 && bits t.var 7 3 == 0) (.ok (mk .raw))

/-- `mwr` (R367). -/
def decMwr (h : Hd) (t : MTail) : Except DecErr Instr :=
  let mk := fun c => Instr.mwr h t.acc t.va (.ofNat 2 (bits t.var 1 0)) (.ofNat 4 (bits t.var 11 8)) c
  rsv (t.vb == 0 && t.vs == 0 && t.fb == 0 && t.var < 2 ^ 12 && bits t.var 7 3 == 0) <|
    if bitAt t.var 2 then vget (MFmt.ofCode t.fa) fun f => vok (f.moveOk || f == .i8) (.ok (mk (some f)))
    else rsv (t.fa == 0) (.ok (mk none))

def decM (opc : Nat) (h : Hd) (t : MTail) : Except DecErr Instr :=
  let noRegs := t.va == 0 && t.vb == 0 && t.vs == 0 && t.fa == 0 && t.fb == 0
  match opc with
  | 0xC0 => decMM t (fun _ => true) (.mma h)
  | 0xC1 => decMM t MM.disjoint (.mrot h)
  | 0xC3 => rsv (noRegs && t.var == 0) (.ok (.mzero h t.acc))
  | 0xC4 => decMrd h t
  | 0xC5 => decMwr h t
  | 0xC7 => rsv (noRegs && t.var < 2) (if t.var == 0 then .ok (.mwait h (some t.acc))
      else rsv (t.acc == 0) (.ok (.mwait h none)))
  | 0xC8 => rsv (noRegs && t.var < 8) (.ok (.mtrn h t.acc (.ofNat 3 t.var)))
  | _ => .error .opcode

/-- Steps 5 and 6 of R223: the tail, taken apart as its class lays it out. -/
def decBody (c : Cls) (opc : Nat) (h : Hd) (tail : Nat) : Except DecErr Instr :=
  match c with
  | .N => decN opc h
  | .X3 => decX3 opc h (X3Tail.of tail)
  | .XI => decXI opc h (XITail.of tail)
  | .B => decB opc h (Target.of tail)
  | .V3 => decV3 opc h (V3Tail.of tail)
  | .C => decC opc h (CTail.of tail)
  | .XL => decXL opc h (XLTail.of tail)
  | .XB => decXB opc h (XBTail.of tail)
  | .V4 => decV4 opc h (V4Tail.of tail)
  | .VX => decVX opc h (VXTail.of tail)
  | .M => decM opc h (MTail.of tail)

/-- The G bit of a tail: sub[5] of XI and XL, bit 0 of X3 (R217). -/
def tailG (c : Cls) (tail : Nat) : Bool :=
  match c with
  | .X3 => bitAt tail 0
  | .XI => bitAt tail 21
  | .XL => bitAt tail 37
  | _ => false

/-- Decode one head with its tail: opcode (step 1), class length, G bit (step 3), flag select (step 4), then the tail. -/
def decode (head tail : Nat) : Except DecErr Instr :=
  let opc := bits head 13 6
  let h := Hd.of head
  match opInfo opc with
  | none => .error .opcode
  | some i =>
    if bits head 15 14 != i.cls.tlen then .error .tailLen
    else if tailG i.cls tail && !(i.g && h.unguarded) then .error .gBit
    else if h.fs && !i.flag then .error .flagSelect
    else decBody i.cls opc h tail

/-- The tail bits of a tail length code (R207). -/
def tailBits (tlen : Nat) : Nat := 16 * tlen

/-- The instruction that the decoder reads from bits numbered as the opcode table numbers them: the head in bits 15 to 0
and its tail, as R224 places it, above. -/
def decodeTableWord (nbits w : Nat) : Option Instr :=
  if nbits < 16 then none
  else match decode (w % 2 ^ 16) (w / 2 ^ 16 % 2 ^ tailBits (bits w 15 14)) with
    | .ok i => some i
    | .error _ => none

/-! Lines (R205, R206, R208). A line is the number whose bit 0 is bit 0 of its byte 0. -/

/-- Why a line entry fails, in the order of R208. -/
inductive LineErr where
  | header | count | target | flag | overflow | gap
  | tailLen (head : Nat)
deriving DecidableEq, Repr

/-- The head count n of a line (R205). -/
def lineHeads (line : Nat) : Nat := bits line 24 20

/-- Head i of a line (R206). -/
def lineHead (line i : Nat) : Nat := bits line (32 + 16 * i + 15) (32 + 16 * i)

/-- The tail length in bits of head i. -/
def headTailLen (line i : Nat) : Nat := tailBits (bits (lineHead line i) 15 14)

/-- T_i: the sum of the tail lengths up to head i (R206). -/
def tailSum (line : Nat) : Nat → Nat
  | 0 => headTailLen line 0
  | i + 1 => tailSum line i + headTailLen line (i + 1)

/-- The tail of head i (R206); 0 when it has none. -/
def lineTail (line i : Nat) : Nat := line / 2 ^ (512 - tailSum line i) % 2 ^ headTailLen line i

/-- The flag number of FLAGA or FLAGB: none for 0xF (R205). -/
def lineFlag (line : Nat) (b : Bool) : Option Nat :=
  let f := if b then bits line 19 16 else bits line 15 12
  if f < 12 then some f else none

/-- The wait mask (R205). -/
def lineWait (line : Nat) : Nat := bits line 11 0

/-- The lowest head whose opcode is assigned and whose TLEN is not its class length (R208 row 7). -/
def badTailLen (line : Nat) : Nat → Option Nat
  | 0 => none
  | n + 1 =>
    match badTailLen line n with
    | some i => some i
    | none =>
      let hd := lineHead line n
      match opInfo (bits hd 13 6) with
      | some i => if bits hd 15 14 == i.cls.tlen then none else some n
      | none => none

/-- The checks of R208, in their order; none when the line may be entered at head index idx. -/
def lineCheck (line idx : Nat) : Option LineErr :=
  let n := lineHeads line
  let t := tailSum line (n - 1)
  if bits line 31 25 != 0 then some .header
  else if n == 0 || n == 31 then some .count
  else if n ≤ idx then some .target
  else if (12 ≤ bits line 19 16 && bits line 19 16 ≤ 14) || (12 ≤ bits line 15 12 && bits line 15 12 ≤ 14) then some .flag
  else if 32 + 16 * n + t > 512 then some .overflow
  else if line / 2 ^ (32 + 16 * n) % 2 ^ (512 - t - (32 + 16 * n)) != 0 then some .gap
  else match badTailLen line n with
    | some i => some (.tailLen i)
    | none => none

/-! The encoder. -/

/-- The opcode and tail of an instruction of FIS-3 (R214, R221 and the entries); none for the device's own steps. -/
def encBody : Instr → Option (Hd × Nat × Nat)
  | .nop h => some (h, 0x01, 0)
  | .br h t => some (h, 0x02, t.pack)
  | .jal h xd t => some (h, 0x03, XBTail.pack ⟨xd, 0, t⟩)
  | .jalr h xd xa n => some (h, 0x04, XITail.pack ⟨xd, xa, false, 0, n.toNat⟩)
  | .call h t => some (h, 0x05, t.pack)
  | .callr h xa => some (h, 0x06, X3Tail.pack ⟨0, xa, 0, false⟩)
  | .ret h => some (h, 0x07, 0)
  | .loop h xa t => some (h, 0x08, XBTail.pack ⟨xa, 0, t⟩)
  | .trap h c => some (h, 0x09, XITail.pack ⟨0, 0, false, 0, c.toNat⟩)
  | .sysc h c => some (h, 0x0A, XITail.pack ⟨0, 0, false, 0, c.toNat⟩)
  | .eret h => some (h, 0x0B, 0)
  | .brk h c => some (h, 0x0C, XITail.pack ⟨0, 0, false, 0, c.toNat⟩)
  | .yield h => some (h, 0x0D, 0)
  | .exit h xa => some (h, 0x0E, X3Tail.pack ⟨0, xa, 0, false⟩)
  | .sleep h n => some (h, 0x0F, XITail.pack ⟨0, 0, false, 0, n.toNat⟩)
  | .add h r => some (h, 0x10, X3Tail.pack ⟨r.xd, r.xa, r.xb, r.g⟩)
  | .sub h r => some (h, 0x11, X3Tail.pack ⟨r.xd, r.xa, r.xb, r.g⟩)
  | .addi h r => some (h, 0x12, XITail.pack ⟨r.xd, r.xa, r.g, 0, r.imm.toNat⟩)
  | .li h xd n g => some (h, 0x13, XLTail.pack ⟨xd, 0, g, 0, n.toNat⟩)
  | .liZ h xd n g => some (h, 0x13, XLTail.pack ⟨xd, 0, g, 1, n.toNat⟩)
  | .liHi h xd xa n g => some (h, 0x13, XLTail.pack ⟨xd, xa, g, 2, n.toNat⟩)
  | .addpc h xd t g => some (h, 0x14, XLTail.pack ⟨xd, 0, g, 0, t.pack⟩)
  | .mul h r => some (h, 0x15, X3Tail.pack ⟨r.xd, r.xa, r.xb, r.g⟩)
  | .mulh h k r => some (h, 0x16, XITail.pack ⟨r.xd, r.xa, r.g, k.code, r.xb.toNat⟩)
  | .div h u r => some (h, 0x17, XITail.pack ⟨r.xd, r.xa, r.g, b2n u, r.xb.toNat⟩)
  | .rem h u r => some (h, 0x18, XITail.pack ⟨r.xd, r.xa, r.g, b2n u, r.xb.toNat⟩)
  | .and h r => some (h, 0x19, X3Tail.pack ⟨r.xd, r.xa, r.xb, r.g⟩)
  | .or h r => some (h, 0x1A, X3Tail.pack ⟨r.xd, r.xa, r.xb, r.g⟩)
  | .xor h r => some (h, 0x1B, X3Tail.pack ⟨r.xd, r.xa, r.xb, r.g⟩)
  | .andn h r => some (h, 0x1C, X3Tail.pack ⟨r.xd, r.xa, r.xb, r.g⟩)
  | .orn h r => some (h, 0x1D, X3Tail.pack ⟨r.xd, r.xa, r.xb, r.g⟩)
  | .xnor h r => some (h, 0x1E, X3Tail.pack ⟨r.xd, r.xa, r.xb, r.g⟩)
  | .andi h r => some (h, 0x1F, XITail.pack ⟨r.xd, r.xa, r.g, 0, r.imm.toNat⟩)
  | .ori h r => some (h, 0x20, XITail.pack ⟨r.xd, r.xa, r.g, 0, r.imm.toNat⟩)
  | .xori h r => some (h, 0x21, XITail.pack ⟨r.xd, r.xa, r.g, 0, r.imm.toNat⟩)
  | .shl h r a => some (h, 0x22, encShift r a)
  | .shr h r a => some (h, 0x23, encShift r a)
  | .sar h r a => some (h, 0x24, encShift r a)
  | .rotr h r a => some (h, 0x25, encShift r a)
  | .shfi h r n => some (h, 0x26, XITail.pack ⟨r.xd, r.xa, r.g, 0, r.xb.toNat + 32 * n.toNat⟩)
  | .min h u r => some (h, 0x27, XITail.pack ⟨r.xd, r.xa, r.g, b2n u, r.xb.toNat⟩)
  | .max h u r => some (h, 0x28, XITail.pack ⟨r.xd, r.xa, r.g, b2n u, r.xb.toNat⟩)
  | .clz h r => some (h, 0x29, X3Tail.pack ⟨r.xd, r.xa, 0, r.g⟩)
  | .ctz h r => some (h, 0x2A, X3Tail.pack ⟨r.xd, r.xa, 0, r.g⟩)
  | .popc h r => some (h, 0x2B, X3Tail.pack ⟨r.xd, r.xa, 0, r.g⟩)
  | .brev h r => some (h, 0x2C, X3Tail.pack ⟨r.xd, r.xa, 0, r.g⟩)
  | .bswap h r => some (h, 0x2D, X3Tail.pack ⟨r.xd, r.xa, 0, r.g⟩)
  | .bfe h s r l n => some (h, 0x2E, XITail.pack ⟨r.xd, r.xa, r.g, b2n s, l.toNat + 64 * n.toNat⟩)
  | .bfi h r l n => some (h, 0x2F, XITail.pack ⟨r.xd, r.xa, r.g, 0, l.toNat + 64 * n.toNat⟩)
  | .sel h xd xa xb pc => some (h, 0x30, XITail.pack ⟨xd, xa, false, 0, xb.toNat + 32 * pc.toNat⟩)
  | .sext h r n => some (h, 0x31, XITail.pack ⟨r.xd, r.xa, r.g, 0, n.toNat⟩)
  | .zext h r n => some (h, 0x32, XITail.pack ⟨r.xd, r.xa, r.g, 0, n.toNat⟩)
  | .cmp h c k pd xa xb g => some (h, 0x33, XITail.pack ⟨.ofNat 5 pd.toNat, xa, g, c.code + 8 * k.code, xb.toNat⟩)
  | .cmpi h c k pd xa n g => some (h, 0x34, XLTail.pack ⟨.ofNat 5 pd.toNat, xa, g, c.code + 8 * k.code, n.toNat⟩)
  | .fadd h d rm r => some (h, 0x36, XITail.pack ⟨r.xd, r.xa, r.g, b2n d + 2 * rm.code, r.xb.toNat⟩)
  | .fsub h d rm r => some (h, 0x37, XITail.pack ⟨r.xd, r.xa, r.g, b2n d + 2 * rm.code, r.xb.toNat⟩)
  | .fmul h d rm r => some (h, 0x38, XITail.pack ⟨r.xd, r.xa, r.g, b2n d + 2 * rm.code, r.xb.toNat⟩)
  | .ffma h neg d rm r xc =>
    some (h, 0x39, XLTail.pack ⟨r.xd, r.xa, r.g, b2n d + 2 * rm.code + 16 * b2n neg, r.xb.toNat + 32 * xc.toNat⟩)
  | .fmin h d r => some (h, 0x3A, XITail.pack ⟨r.xd, r.xa, r.g, b2n d, r.xb.toNat⟩)
  | .fmax h d r => some (h, 0x3B, XITail.pack ⟨r.xd, r.xa, r.g, b2n d, r.xb.toNat⟩)
  | .fcmp h d c pd xa xb g => some (h, 0x3C, XITail.pack ⟨.ofNat 5 pd.toNat, xa, g, b2n d + 2 * c.code, xb.toNat⟩)
  | .fcvt h d s rm sat r => some (h, 0x3D, XITail.pack ⟨r.xd, r.xa, r.g, rm.code + 8 * b2n sat, s.code + 16 * d.code⟩)
  | .frcp h d rm r => some (h, 0x3E, XITail.pack ⟨r.xd, r.xa, r.g, b2n d + 2 * rm.code, 0⟩)
  | .frsq h d rm r => some (h, 0x3F, XITail.pack ⟨r.xd, r.xa, r.g, b2n d + 2 * rm.code, 0⟩)
  | .pand h pd pa pb na nb => some (h, 0x40, encPred pd pa pb na nb)
  | .por h pd pa pb na nb => some (h, 0x41, encPred pd pa pb na nb)
  | .pxor h pd pa pb na nb => some (h, 0x42, encPred pd pa pb na nb)
  | .pset h pd b => some (h, 0x43, XITail.pack ⟨.ofNat 5 pd.toNat, 0, false, 0, b2n b⟩)
  | .psetNz h pd xa => some (h, 0x43, XITail.pack ⟨.ofNat 5 pd.toNat, xa, false, 1, 0⟩)
  | .psetAll h xa => some (h, 0x43, XITail.pack ⟨0, xa, false, 2, 0⟩)
  | .pget h xd => some (h, 0x44, X3Tail.pack ⟨xd, 0, 0, false⟩)
  | .csrr h xd n => some (h, 0x45, CTail.pack ⟨xd, 0, n, 0⟩)
  | .csrw h n xa => some (h, 0x46, CTail.pack ⟨0, xa, n, 0⟩)
  | .csrxSwap h xd n xa => some (h, 0x47, CTail.pack ⟨xd, xa, n, 0⟩)
  | .csrxSet h xd n xa => some (h, 0x47, CTail.pack ⟨xd, xa, n, 1⟩)
  | .csrxClr h xd n xa => some (h, 0x47, CTail.pack ⟨xd, xa, n, 2⟩)
  | .feClr h xd => some (h, 0x48, X3Tail.pack ⟨xd, 0, 0, false⟩)
  | .feTst h pd xa => some (h, 0x49, X3Tail.pack ⟨.ofNat 5 pd.toNat, xa, 0, false⟩)
  | .mov h r => some (h, 0x4A, X3Tail.pack ⟨r.xd, r.xa, 0, r.g⟩)
  | .fsgn h d op r => some (h, 0x4B, XITail.pack ⟨r.xd, r.xa, r.g, b2n d + 2 * op.code, r.xb.toNat⟩)
  | .fclass h d r => some (h, 0x4C, XITail.pack ⟨r.xd, r.xa, r.g, b2n d, 0⟩)
  | .ld h z r => some (h, 0x50, XITail.pack ⟨r.xd, r.xa, r.g, z.code, r.imm.toNat⟩)
  | .ldx h z r => some (h, 0x51, XITail.pack ⟨r.xd, r.xa, r.g, z.code, r.xb.toNat + 32 * r.s.toNat⟩)
  | .st h z r => some (h, 0x52, XITail.pack ⟨r.xd, r.xa, r.g, z.code, r.imm.toNat⟩)
  | .stx h z r => some (h, 0x53, XITail.pack ⟨r.xd, r.xa, r.g, z.code, r.xb.toNat + 32 * r.s.toNat⟩)
  | .ldp h r => some (h, 0x54, XITail.pack ⟨r.xd, r.xa, r.g, 0, r.imm.toNat⟩)
  | .stp h r => some (h, 0x55, XITail.pack ⟨r.xd, r.xa, r.g, 0, r.imm.toNat⟩)
  | .prefL1 h m => some (h, 0x56, XITail.pack ⟨0, m.xa, m.g, 0, m.imm.toNat⟩)
  | .prefCc h m => some (h, 0x56, XITail.pack ⟨0, m.xa, m.g, 1, m.imm.toNat⟩)
  | .ccWbL1 h m => some (h, 0x57, XITail.pack ⟨0, m.xa, m.g, 0, m.imm.toNat⟩)
  | .ccWbCc h m => some (h, 0x57, XITail.pack ⟨0, m.xa, m.g, 1, m.imm.toNat⟩)
  | .ccInvL1 h m => some (h, 0x58, XITail.pack ⟨0, m.xa, m.g, 0, m.imm.toNat⟩)
  | .ccInvCc h m => some (h, 0x58, XITail.pack ⟨0, m.xa, m.g, 1, m.imm.toNat⟩)
  | .ccPin h xd n => some (h, 0x59, XITail.pack ⟨xd, 0, false, 0, n.toNat⟩)
  | .ldAcq h z s r => some (h, 0x5A, XITail.pack ⟨r.xd, r.xa, r.g, z.code + 8 * s.code, r.imm.toNat⟩)
  | .stRel h z s r => some (h, 0x5B, XITail.pack ⟨r.xd, r.xa, r.g, z.code + 8 * s.code, r.imm.toNat⟩)
  | .amo h op s o z r off => some (h, 0x60, XLTail.pack ⟨r.xd, r.xa, r.g, 0, encAmo op.code s o.code z r.xb off⟩)
  | .cas h s o z r xc off => some (h, 0x61, XLTail.pack ⟨r.xd, r.xa, r.g, 0, encAmo xc.toNat s o.code z r.xb off⟩)
  | .red h op s rel z xa xb g off => some (h, 0x62, XLTail.pack ⟨0, xa, g, 0, encAmo op.code s (2 * b2n rel) z xb off⟩)
  | .fence h s p q => some (h, 0x63, XITail.pack ⟨0, 0, false, s.code, p.code + 16 * q.code⟩)
  | .watch h r => some (h, 0x64, XITail.pack ⟨r.xd, r.xa, false, 0, r.imm.toNat⟩)
  | .unwatch h xd => some (h, 0x65, XITail.pack ⟨xd, 0, false, 0, 0⟩)
  | .cpy h v f ch r => some (h, 0x70, XLTail.pack ⟨r.xd, r.xa, r.g, 0, encCpy 0 v f r.xb ch⟩)
  | .cpyg h z v f ch r => some (h, 0x71, XLTail.pack ⟨r.xd, r.xa, r.g, 0, encCpy z.code v f r.xb ch⟩)
  | .chsetFill h ch xa g => some (h, 0x72, XLTail.pack ⟨0, xa, g, 0, ch.toNat⟩)
  | .chsetTable h ch xa g => some (h, 0x72, XLTail.pack ⟨0, xa, g, 1, ch.toNat⟩)
  | .chsetNsrc h ch xa g => some (h, 0x72, XLTail.pack ⟨0, xa, g, 2, ch.toNat⟩)
  | .chsetFolio h ch xa l g => some (h, 0x72, XLTail.pack ⟨0, xa, g, 3, ch.toNat + 32 * l.toNat⟩)
  | .chwm h xd ch g => some (h, 0x73, XITail.pack ⟨xd, 0, g, 0, ch.toNat⟩)
  | .chwmSt h xd ch g => some (h, 0x73, XITail.pack ⟨xd, 0, g, 1, ch.toNat⟩)
  | .send h e n xd xa => some (h, 0x74, XLTail.pack ⟨xd, xa, false, 0, e.toNat + 2 ^ 12 * n.toNat⟩)
  | .done h => some (h, 0x75, 0)
  | .bind h c xa => some (h, 0x76, XITail.pack ⟨0, xa, false, 0, c.toNat⟩)
  | .fenter h r => some (h, 0x77, XITail.pack ⟨r.xd, r.xa, r.g, 0, r.imm.toNat⟩)
  | .fleave h r => some (h, 0x78, XITail.pack ⟨r.xd, r.xa, r.g, 0, 0⟩)
  | .finc h xa xb => some (h, 0x79, XITail.pack ⟨0, xa, false, 0, xb.toNat⟩)
  | .fhold h xd xa l => some (h, 0x7A, XITail.pack ⟨xd, xa, false, 0, l.toNat⟩)
  | .fdrop h xa => some (h, 0x7B, XITail.pack ⟨0, xa, false, 0, 0⟩)
  | .fwait h xa l g => some (h, 0x7C, XITail.pack ⟨0, xa, g, 0, l.toNat⟩)
  | .fprobe h xd l g => some (h, 0x7D, XITail.pack ⟨xd, 0, g, 0, l.toNat⟩)
  | .fprobeInfo h xd l g => some (h, 0x7D, XITail.pack ⟨xd, 0, g, 1, l.toNat⟩)
  | .gcallLabel h t => some (h, 0x7E, XBTail.pack ⟨0, 0, t⟩)
  | .gcallReg h xa => some (h, 0x7E, XBTail.pack ⟨xa, 0, ⟨0, 0⟩⟩)
  | .gret h => some (h, 0x7F, 0)
  | .tlbinvPg h xd xa n => some (h, 0xE0, XITail.pack ⟨xd, xa, false, 0, n.toNat⟩)
  | .tlbinvAs h xd n => some (h, 0xE0, XITail.pack ⟨xd, 0, false, 1, n.toNat⟩)
  | .tlbinvAll h xd => some (h, 0xE0, XITail.pack ⟨xd, 0, false, 2, 0⟩)
  | .scrub h xd xa c => some (h, 0xE1, XLTail.pack ⟨xd, xa, false, 0, c.toNat⟩)
  | .ctxsave h xd xa xb => some (h, 0xE2, XITail.pack ⟨xd, xa, false, 0, xb.toNat⟩)
  | .ctxrest h xd xa => some (h, 0xE3, XITail.pack ⟨xd, xa, false, 0, 0⟩)
  | .ipi h xd xa => some (h, 0xE4, XITail.pack ⟨xd, xa, false, 0, 0⟩)
  | .fgraphIns h xd xa => some (h, 0xE5, XITail.pack ⟨xd, xa, false, 0, 0⟩)
  | .fgraphExt h xd xa => some (h, 0xE5, XITail.pack ⟨xd, xa, false, 1, 0⟩)
  | .fgraphDel h xd n => some (h, 0xE5, XITail.pack ⟨xd, 0, false, 2, n.toNat⟩)
  | .vadd h r => some (h, 0x80, encVA r 0 0)
  | .vsub h r => some (h, 0x81, encVA r 0 0)
  | .vmul h r => some (h, 0x82, encVA r 0 0)
  | .vfma h neg r vc => some (h, 0x83, encVA r vc (2 * b2n neg))
  | .vmin h ty r => some (h, 0x84, encV4 r 0 ty.code 0 0)
  | .vmax h ty r => some (h, 0x85, encV4 r 0 ty.code 0 0)
  | .vsgnCp h ty r => some (h, 0x86, encV4 r 0 ty.code 0 0)
  | .vsgnNcp h ty r => some (h, 0x86, encV4 r 0 ty.code 0 1)
  | .vsgnXor h ty r => some (h, 0x86, encV4 r 0 ty.code 0 2)
  | .vsgnAbs h ty vd va => some (h, 0x86, encV4 ⟨vd, va, 0⟩ 0 ty.code 0 3)
  | .vsgnNeg h ty vd va => some (h, 0x86, encV4 ⟨vd, va, 0⟩ 0 ty.code 0 4)
  | .vrcp h ty rm vd va => some (h, 0x87, encV4 ⟨vd, va, 0⟩ 0 ty.code rm.code 0)
  | .vrsq h ty rm vd va => some (h, 0x88, encV4 ⟨vd, va, 0⟩ 0 ty.code rm.code 0)
  | .vexp2 h ty rm vd va => some (h, 0x89, encV4 ⟨vd, va, 0⟩ 0 ty.code rm.code 0)
  | .vlog2 h ty rm vd va => some (h, 0x8A, encV4 ⟨vd, va, 0⟩ 0 ty.code rm.code 0)
  | .vmulh h ty r => some (h, 0x8B, encV4 r 0 ty.code 0 0)
  | .vand h r => some (h, 0x8C, V3Tail.pack ⟨r.vd, r.va, r.vb, 0⟩)
  | .vor h r => some (h, 0x8D, V3Tail.pack ⟨r.vd, r.va, r.vb, 0⟩)
  | .vxor h r => some (h, 0x8E, V3Tail.pack ⟨r.vd, r.va, r.vb, 0⟩)
  | .vandn h r => some (h, 0x8F, V3Tail.pack ⟨r.vd, r.va, r.vb, 0⟩)
  | .vshl h ty vd va a => some (h, 0x90, encVShift ty vd va a)
  | .vshr h ty vd va a => some (h, 0x91, encVShift ty vd va a)
  | .vsar h ty vd va a => some (h, 0x92, encVShift ty vd va a)
  | .vclz h ty vd va => some (h, 0x93, encV4 ⟨vd, va, 0⟩ 0 ty.code 0 0)
  | .vpopc h vd va => some (h, 0x94, V3Tail.pack ⟨vd, va, 0, 0⟩)
  | .vcmp h ty c k pd va vb => some (h, 0x95, encV4 ⟨.ofNat 9 pd.toNat, va, vb⟩ 0 ty.code 0 (c.code + 8 * k.code))
  | .vsel h w r pc => some (h, 0x96, encV4 r (.ofNat 9 pc.toNat) (n64Code w) 0 0)
  | .vcvt h d s rm sat vd va => some (h, 0x97, encV4 ⟨vd, va, 0⟩ 0 d.code rm.code (s.code + 16 * b2n sat))
  | .vpack h f ty rm sat r => some (h, 0x98, encV4 r 0 ty.code rm.code (f.code + 16 * b2n sat))
  | .vunpk h f ty rm sat vd va => some (h, 0x99, encV4 ⟨vd, va, 0⟩ 0 ty.code rm.code (f.code + 16 * b2n sat))
  | .vmov h w vd va => some (h, 0x9A, V3Tail.pack ⟨vd, va, 0, b2n w⟩)
  | .vsplat h w vd src => some (h, 0x9B, match src with
      | .imm n => VXTail.pack ⟨vd, 0, 0, 2 * b2n w, n.toNat⟩
      | .sreg s => VXTail.pack ⟨vd, 0, s, 1 + 2 * b2n w, 0⟩)
  | .vshfIdx h w r => some (h, 0x9C, encV4 r 0 (n64Code w) 0 0)
  | .vshfXor h w vd va c => some (h, 0x9C, encV4 ⟨vd, va, 0⟩ (.ofNat 9 c.toNat) (n64Code w) 0 1)
  | .vshfUp h w vd va c => some (h, 0x9C, encV4 ⟨vd, va, 0⟩ (.ofNat 9 c.toNat) (n64Code w) 0 2)
  | .vshfDn h w vd va c => some (h, 0x9C, encV4 ⟨vd, va, 0⟩ (.ofNat 9 c.toNat) (n64Code w) 0 3)
  | .vbcast h w vd va src => some (h, 0x9D, encLane w vd va src)
  | .vrot h w vd va src => some (h, 0x9E, encLane w vd va src)
  | .vred h op ty rm sat vd va => some (h, 0x9F, encV4 ⟨vd, va, 0⟩ 0 ty.code rm.code (op.code + 16 * b2n sat))
  | .vscan h op ty rm sat ex vd va =>
    some (h, 0xA0, encV4 ⟨vd, va, 0⟩ 0 ty.code rm.code (op.code + 8 * b2n ex + 16 * b2n sat))
  | .vballot h hi cnt sd pc => some (h, 0xA1, VXTail.pack ⟨0, 0, sd, b2n hi + 2 * b2n cnt, pc.toNat⟩)
  | .vconf h w vd va pc => some (h, 0xA2, encV4 ⟨vd, va, 0⟩ (.ofNat 9 pc.toNat) (n64Code w) 0 0)
  | .vseg h op ty rm sat r => some (h, 0xA3, encV4 r 0 ty.code rm.code (op.code + 16 * b2n sat))
  | .vtopk h ty r k sc => some (h, 0xA4, encV4 r k ty.code 0 sc.toNat)
  | .vmrgk h ty r k sc => some (h, 0xA5, encV4 r k ty.code 0 sc.toNat)
  | .vlutL4 h vd va => some (h, 0xA6, encV4 ⟨vd, va, 0⟩ 0 0 0 0)
  | .vlutTab h r => some (h, 0xA6, encV4 r 0 0 0 1)
  | .vld h z m vd s n => some (h, 0xA7, encVMem z.code m vd s n)
  | .vldc h n1 vd s n => some (h, 0xA8, VXTail.pack ⟨vd, 0, s, n1.toNat, n.toNat⟩)
  | .vst h z m vd s n => some (h, 0xA9, encVMem z.code m vd s n)
  | .vstc h n1 vd s n => some (h, 0xAA, VXTail.pack ⟨vd, 0, s, n1.toNat, n.toNat⟩)
  | .vamo h op ty dv r => some (h, 0xAB, match op with
      | .op o => encV4 r 0 ty.code 0 (o.code + 16 * b2n dv)
      | .cas vc => encV4 r vc ty.code 0 (12 + 16 * b2n dv))
  | .vrdm h op z sc vd va s n => some (h, 0xAC, VXTail.pack ⟨vd, va, s, op.code + 16 * b2n z + 32 * sc.code, n.toNat⟩)
  | .vdot h r vc => some (h, 0xAD, encVA r vc 0)
  | .vdiv h ty rm re r => some (h, 0xAE, encV4 r 0 ty.code rm.code (b2n re))
  | .vsqrt h ty rm vd va => some (h, 0xAF, encV4 ⟨vd, va, 0⟩ 0 ty.code rm.code 0)
  | .mma h m => some (h, 0xC0, encMM m)
  | .mrot h m => some (h, 0xC1, encMM m)
  | .mjoin h => some (h, 0xC2, 0)
  | .mzero h acc => some (h, 0xC3, MTail.pack ⟨acc, 0, 0, 0, 0, 0, 0⟩)
  | .mrd h acc b g off k => some (h, 0xC4, match k with
      | .raw => MTail.pack ⟨acc, b, 0, 0, 0, 0, g.toNat + 2 ^ 8 * off.toNat⟩
      | .fp f rm sat =>
        MTail.pack ⟨acc, b, 0, 0, f.code, 0, g.toNat + 4 + 8 * rm.code + 64 * b2n sat + 2 ^ 8 * off.toNat⟩
      | .i8 sat => MTail.pack ⟨acc, b, 0, 0, 5, 0, g.toNat + 4 + 64 * b2n sat + 128 + 2 ^ 8 * off.toNat⟩)
  | .mwr h acc b g off c => some (h, 0xC5, match c with
      | none => MTail.pack ⟨acc, b, 0, 0, 0, 0, g.toNat + 2 ^ 8 * off.toNat⟩
      | some f => MTail.pack ⟨acc, b, 0, 0, f.code, 0, g.toNat + 4 + 2 ^ 8 * off.toNat⟩)
  | .mready h => some (h, 0xC6, 0)
  | .mwait h acc => some (h, 0xC7, match acc with
      | some a => MTail.pack ⟨a, 0, 0, 0, 0, 0, 0⟩
      | none => MTail.pack ⟨0, 0, 0, 0, 0, 0, 1⟩)
  | .mtrn h d s => some (h, 0xC8, MTail.pack ⟨d, 0, 0, 0, 0, 0, s.toNat⟩)
  | _ => none
where
  encShift (r : R2) : ShAmt → Nat
    | .imm n => XITail.pack ⟨r.xd, r.xa, r.g, 0, n.toNat⟩
    | .reg xb => XITail.pack ⟨r.xd, r.xa, r.g, 1, xb.toNat⟩
  encPred (pd pa pb : PReg) (na nb : Bool) : Nat :=
    XITail.pack ⟨.ofNat 5 pd.toNat, .ofNat 5 pa.toNat, false, 0, pb.toNat + 16 * b2n na + 32 * b2n nb⟩
  encAmo (op : Nat) (s : Scope) (o : Nat) (z : Bool) (xb : Reg) (off : BitVec 16) : Nat :=
    off.toNat * 2 ^ 16 + s.code * 2 ^ 13 + o * 2 ^ 11 + b2n z * 2 ^ 10 + op * 2 ^ 5 + xb.toNat
  encCpy (z : Nat) (v f : Bool) (xb : Reg) (ch : BitVec 5) : Nat :=
    z * 2 ^ 12 + b2n v * 2 ^ 11 + b2n f * 2 ^ 10 + xb.toNat * 2 ^ 5 + ch.toNat
  encV4 (r : V3) (vc : VReg) (ty rm var : Nat) : Nat := V4Tail.pack ⟨r.vd, r.va, r.vb, vc, ty, rm, var⟩
  encVA (r : VA) (vc : VReg) (var : Nat) : Nat :=
    V4Tail.pack ⟨r.vd, r.va, r.vb, vc, r.ty.code, r.rm.code, b2n r.sat + var⟩
  n64Code (w : Bool) : Nat := if w then 15 else 1
  encVShift (ty : Ety) (vd va : VReg) : VAmt → Nat
    | .reg vb => V4Tail.pack ⟨vd, va, vb, 0, ty.code, 0, 0⟩
    | .imm n => V4Tail.pack ⟨vd, va, 0, n, ty.code, 0, 1⟩
  encLane (w : Bool) (vd va : VReg) : LaneSrc → Nat
    | .imm n => VXTail.pack ⟨vd, va, 0, 2 * b2n w, n.toNat⟩
    | .sreg s => VXTail.pack ⟨vd, va, s, 1 + 2 * b2n w, 0⟩
  encVMem (z : Nat) (m : VMode) (vd : VReg) (s : Reg) (n : BitVec 16) : Nat :=
    match m with
    | .unit => VXTail.pack ⟨vd, 0, s, z, n.toNat⟩
    | .stride => VXTail.pack ⟨vd, 0, s, z + 8, n.toNat⟩
    | .index va sh => VXTail.pack ⟨vd, va, s, z + 16 + 32 * sh.toNat, n.toNat⟩
  encMM (m : MM) : Nat :=
    MTail.pack ⟨m.acc, m.va, m.vb, m.vs, m.fa.code, m.fb.code, b2n m.mx + 2 * b2n m.z⟩

/-- The head and tail of a well-formed instruction of FIS-3. -/
def encode (i : Instr) : Option (Nat × Nat) :=
  match encBody i with
  | some (h, opc, tail) =>
    match opInfo opc with
    | some info => some (h.pack info.cls.tlen opc, tail)
    | none => none
  | none => none

end Sys2Proof
end

