-- ==== Sys2Proof/Machine/Codes.lean ====
section
/-! DEFINITION. The codes and sizes that the spec gives to the names of Syntax.lean. -/

namespace Sys2Proof

/-- A word from a number. -/
def w64 (n : Nat) : Word := BitVec.ofNat 64 n

/-- KIND (R48). -/
def AccKind.code : AccKind → Nat
  | .load => 0 | .store => 1 | .fetch => 2 | .atomic => 3 | .writeBack => 4

/-- Whether an access kind writes, so that D is set when its leaf is installed (R29). -/
def AccKind.writes : AccKind → Bool
  | .store => true | .atomic => true | .load => false | .fetch => false | .writeBack => true

/-- STRUCT (R78). -/
def ErrStruct.code : ErrStruct → Nat
  | .scalarL1 => 1 | .wideL1 => 2 | .scratchpad => 3 | .clusterCache => 4 | .quire => 5 | .regFile => 6 | .accTile => 7
  | .pte => 8

/-- The quarter whose context this is (R153). -/
def CtxId.quarter (c : CtxId) : Nat := c.ctx / 4

/-- The scalar core of a context (R153). -/
def CtxId.coreId (c : CtxId) : CoreId := ⟨c.cluster, c.tile, c.core⟩

/-- The core of a tile that takes no L1 copies: its wide core, or a unit on its behalf. -/
def CtxId.wideCore (c : CtxId) : CoreId := ⟨c.cluster, c.tile, 4⟩

/-- Whether the context lies on the device: a saved context's id does not (R384). -/
def CtxId.onDevice (c : CtxId) : Bool := c.cluster < 12

/-- CTXID (R274). -/
def CtxId.word (c : CtxId) : Word :=
  w64 (c.cluster * 2 ^ 24 + c.tile * 2 ^ 16 + (if c.wide then 2 ^ 8 else 0) + c.core * 2 ^ 6 + c.ctx)

/-- The context that a value in the layout of CTXID names (R274, R315). -/
def CtxId.ofWord (w : Word) : CtxId :=
  ⟨bits w.toNat 27 24, bits w.toNat 21 16, bitAt w.toNat 8, bits w.toNat 7 6, bits w.toNat 4 0⟩

/-- The bytes of a load size (R282). -/
def LdSize.bytes : LdSize → Nat
  | .n8 => 1 | .n16 => 2 | .n32 => 4 | .n64 => 8 | .i8 => 1 | .i16 => 2 | .i32 => 4

/-- A loaded value, zero- or sign-extended (R282). -/
def LdSize.value (z : LdSize) (n : Nat) : Word :=
  match z with
  | .i8 => (BitVec.ofNat 8 n).signExtend 64
  | .i16 => (BitVec.ofNat 16 n).signExtend 64
  | .i32 => (BitVec.ofNat 32 n).signExtend 64
  | .n8 => w64 n | .n16 => w64 n | .n32 => w64 n | .n64 => w64 n

/-- The bytes of a store size (R282). -/
def StSize.bytes : StSize → Nat
  | .n8 => 1 | .n16 => 2 | .n32 => 4 | .n64 => 8

/-- Whether a scope reaches the device. -/
def Scope.dvOrWider : Scope → Bool
  | .th => false | .tm => false | .cl => false | .dv => true | .sy => true

/-- Whether a scope reaches the cluster. -/
def Scope.clOrWider : Scope → Bool
  | .th => false | .tm => false | .cl => true | .dv => true | .sy => true

end Sys2Proof
end

