-- ==== Sys2Proof/Config.lean ====
section
/-! DEFINITION. What the spec leaves open: values that nothing in the model fixes, and what one implementation fixes. -/

namespace Sys2Proof.Config

/-- The n-th value that the spec calls undefined: x16 to x31 of a fresh window (R160, R377), matrix results under R100.
No body: nothing can be proved of it (log 6). -/
opaque freeWord : Nat → Word

/-- The n-th 32-bit undefined value (R100). -/
opaque freeElem : Nat → Elem

/-- The n-th undefined byte (R45, R98, R121). -/
opaque freeByte : Nat → Byte

/-- A choice that the spec leaves open among finitely many: the replacement order of R34, R47, R60 (log 9). -/
opaque freePick : Nat → Nat

/-- Byte i of the Ed25519 signature of a body (R391, R413), made with a key that never leaves the security core (log 10). -/
opaque ed25519Byte : List Byte → Nat → Byte

/-- Byte i of the ML-DSA-65 signature of a body (R391, R413; log 10). -/
opaque mlDsa65Byte : List Byte → Nat → Byte

/-- Byte i of the SHA-384 digest of a byte string (R391, R414; log 10). -/
opaque sha384Byte : List Byte → Nat → Byte

/-- The 64 bytes of an Ed25519 signature. -/
def ed25519 (b : List Byte) : List Byte := (List.range 64).map (ed25519Byte b)

/-- The 3,309 bytes of an ML-DSA-65 signature. -/
def mlDsa65 (b : List Byte) : List Byte := (List.range 3309).map (mlDsa65Byte b)

/-- The 48 bytes of a SHA-384 digest. -/
def sha384 (b : List Byte) : List Byte := (List.range 48).map (sha384Byte b)

/-- The device serial number whose digest the colophon carries (R391). -/
opaque serialNumber : List Byte

/-- The sealed image that the n-th save writes for a team: its size in 4 KiB pages, less one and at most 65,536 of them, and
byte i of it (R314; the layout is not visible to programs, log 10). -/
opaque imagePages : Nat → BitVec 16
opaque imageByte : Nat → Nat → Byte

/-- The certificate chain of a slot (R414, log 10). -/
opaque spdmCertificate : Nat → List Byte

/-- The answers of SPDM 1.3 whose bytes its standard gives: by request, with what they depend on (R414, log 10). -/
opaque spdmAnswer : Nat → List Byte → List Byte

/-- The boot ROM, and the management and helper images, that measurements 1, 3 and 4 cover (R414, log 10). -/
opaque bootRom : List Byte
opaque managementImage : List Byte
opaque helperImage : List Byte

/-- The body of a counter snapshot, from its fields in the order in which R413 names them (log 10). -/
opaque snapshotBody : List Nat → List Byte

/-- A canonical export, from its fields in the order in which R409 names them (log 10). -/
opaque exportBody : List Nat → List Byte

/-- By how much more than a nominal cc the clocks last from a cc on until the device's next step under thermal throttling
(R2, R120, log 35). -/
opaque throttleExtra : Nat → Nat

/-- The errors of a structure that its check bits correct in a cc (R76, log 94). -/
opaque correctedErrors : Nat → Nat → Nat

/-- At an issue at this cc: the estimated energy in mJ, and the bytes moved to and from Quire and over the host port since the
issue before it (R412, log 10). -/
opaque energyOf : Nat → Nat
opaque quireBytes : Nat → Nat
opaque hostBytes : Nat → Nat

end Sys2Proof.Config
end

