-- ==== Sys2Proof/Machine/State.lean ====
section
/-! DEFINITION. The state of the Gnomapra 3 as plain data: every piece of state that the spec gives the machine (INVENTORY.md
lists them), and the model's own fields: the agenda, the current context and the counter of free values. -/

namespace Sys2Proof.Machine

/-- Why a step can stop. -/
inductive Fault where
  /-- Raised by the meaning of an instruction of FIS-3 when no context is current: there is nothing to execute it. Safe:
  no context of the device is in that situation. -/
  | noContext
deriving DecidableEq, Repr

/-- Why an instruction has no meaning here. -/
inductive Refusal where
  /-- Raised by an arm of `exec` whose instruction the model does not yet describe, by its mnemonic. Safe. -/
  | notModelled (mnemonic : String)
deriving DecidableEq, Repr

/-! ## Registers and operations in flight -/

/-- An x register: its value and its full/empty bit (R95, R219). -/
structure XReg where
  val : Word
  full : Bool
deriving DecidableEq, Repr

/-- A register at launch: zero and full (R388). -/
def XReg.zero : XReg := ⟨0, true⟩

/-- A storage space that an address leads to: physical memory, a tile's scratchpad, the pinned ways (R14). -/
inductive Space where
  | mem | scratch | pinned
deriving DecidableEq, Repr

/-- An access after its checks: the place of its first byte, and what the memory order and the faults need of it. -/
structure Acc where
  space : Space
  addr : Nat
  va : Word
  cached : Bool
  host : Bool
deriving DecidableEq, Repr

/-- Where a fill goes (R51, R95): an x register of the window at a depth of a thread, a v register of a lane, the pair that
an x register of a lane names, an s register, a push to another context's receive queue (R277), or nowhere; gone is a register of a window that has been left (R160). -/
inductive Dst where
  | none
  | gone
  | queue (target : CtxId)
  | x (level : Nat) (r : Nat)
  | v (r lane : Nat)
  | pair (r lane : Nat)
  | s (r : Nat)
deriving DecidableEq, Repr

/-- One element of a load in flight (R54, R283). val is set once its value has been taken (R84, R92). -/
structure LoadElt where
  acc : Acc
  size : LdSize
  dst : Dst
  val : Option Word
deriving DecidableEq, Repr

/-- One atomic operation in flight (R291): the compare value makes it a compare-and-swap; near: its unit is the near-cache unit
of the line's home tile (R71). -/
structure AmoElt where
  near : Bool
  acc : Acc
  op : AmoOp
  cmp : Option Word
  operand : Word
  sz8 : Bool
  dst : Dst
deriving DecidableEq, Repr

/-- What a TLB invalidation removes (R39). -/
inductive TlbSel where
  | page (asid : Nat) (va : Word)
  | asid (asid : Nat)
  | all
deriving DecidableEq, Repr

/-- An operation that an instruction has left in flight. -/
inductive OpKind where
  | load (els : List LoadElt)
  | fills (fs : List (Dst × Word))
  | atomic (els : List AmoElt)
  | red (els : List AmoElt)
  | vrdm (elt : AmoElt) (lanes : List (Dst × Word))
  | store (els : List (Acc × List Byte))
  | push (target : CtxId) (v : Word)
  | tlbinv (sel : TlbSel) (dst : Dst)
  | restore (team : TeamId) (dst : Dst)
  | graph (dst : Dst)
  | flagDue
deriving DecidableEq, Repr

/-- An operation in flight with its owner, the partition and translation context under which it was issued (R40), and the
completion flag that it holds (R210). rel: it is the store or atomic of a release, which goes before every later acquire of its
owner (R89). acq: it is an atomic for which its instruction waits, since it acquires or fills an s register (R89, R232). -/
structure Op where
  id : Nat
  owner : CtxId
  part : Nat
  ptbase : Word
  flag : Option Nat
  rel : Bool
  acq : Bool
  kind : OpKind
deriving DecidableEq, Repr

/-- An entry of a store buffer (R53): a 32-byte line with a byte mask, the frame and translation context under which its
stores were accepted (R42), the information word of a refusal that its thread has not yet been told of (R47), whether it was
made inside a RELEASE_PERM handler (R45), and whether its write-back has been started without a release (R285, R287). -/
structure SbEntry where
  va : Word
  pa : Nat
  ptbase : Word
  cached : Bool
  mask : BitVec 32
  data : Tab Byte
  held : Option Word
  inHandler : Bool
  go : Bool
deriving DecidableEq, Repr

/-- Dirty bytes of a line of a wide-core L1 that were accepted under one virtual line and translation context (R42). held is the
information word of the refusal that holds them, told whether a release or a store has reported it (R44, R47); heldFor names the
callers that a refused `gret` bound them to, whose gang no longer writes them back (R46); go tells whether their write-back has
been started without a release (R285, R287), due whether a release or an eviction waits to write them back (R43, R56). -/
structure WGroup where
  va : Word
  ptbase : Word
  mask : BitVec 256
  held : Option Word
  told : Bool
  heldFor : List CtxId
  go : Bool
  due : Bool
deriving DecidableEq, Repr

/-- A line of a wide-core L1 (R55): its valid bytes, and its dirty bytes in groups, no byte in two. The quarter is the one whose
way the line lies in; every gang of the core finds it (R56, R82). -/
structure WLine where
  cluster : Nat
  tile : Nat
  quarter : Nat
  part : Nat
  pa : Nat
  valid : BitVec 256
  data : Tab Byte
  groups : List WGroup
  /-- The gang that wrote each dirty byte last, so that a kill discards its own (R383). -/
  writer : List (Nat × CtxId)
deriving DecidableEq, Repr

/-- A trap that waits for delivery, or that a context reports: cause, TVAL, TINFO (R376). -/
structure TrapInfo where
  cause : Nat
  tval : Word
  tinfo : Word
deriving DecidableEq, Repr

/-- A count point (R140): instance, location and folio. -/
structure CountPt where
  inst : Inst
  loc : Nat
  folio : Word
deriving DecidableEq, Repr

/-- A capability of a context, by handle 1 to 8 (R140, R307). moving is the new folio of a `finc` whose increment is made
and whose decrement still waits for the acknowledgement. -/
structure Cap where
  handle : Nat
  pt : CountPt
  moving : Option Word
deriving DecidableEq, Repr

/-- A message (R301 to R303, R380). -/
structure Msg where
  id : Nat
  cls : Nat
  part : Nat
  launch : Option Nat
  team : Nat
  cluster : Option Nat
  pt : Option CountPt
  loc : Word
  folio : Word
  payload : List Word
  sender : Word
  senderTeam : Word
  /-- The context whose `send` is parked on this message (R164). -/
  heldAt : Option CtxId
  /-- It has arrived and found no place or no binding: the channel holds it at its sender (R164, R302). -/
  held : Bool
  /-- The gang that a trap message reports (R380). -/
  gang : Option CtxId
  /-- Another device of the job to which the message goes (R301). -/
  dev : Option Nat
  /-- The device from which it came, with its number there: that device is told of its acceptance (R301, R302). -/
  origin : Option (Nat × Nat)
deriving DecidableEq, Repr

/-- An armed monitor (R295): its sector and the register bound to it. -/
structure Monitor where
  space : Space
  sector : Nat
  dst : Dst
deriving DecidableEq, Repr

/-- The twelve completion flags (R210). -/
abbrev Flags := Vector Nat 12

/-- A stall of an access at a channel of its team (R117): the lane (0 for a thread), the lowest stalled byte as the access names
it, the end of the stalled bytes, and, once the watermark has covered them, whether the channel's error was set then: the
information word. -/
structure StallAt where
  ch : Nat
  lane : Nat
  tval : Word
  hi : Nat
  released : Bool
  bad : Option Word
deriving DecidableEq, Repr

/-- Why a context is PARKED (R154, R155). retry: the instruction or line is tried again; the others end by an event: the gang's
return or a lane fault, the acceptance of the messages sent, the handler's `done`, the start of its team (R156), or the
watermarks that an access waits for (R117). -/
inductive Wait where
  | retry
  | stall (xs : List StallAt)
  | gcall
  | accept
  | trapService
  | placing
deriving DecidableEq, Repr

/-- States of a scalar thread (R154); FREE is a context that no Thread record names, and SAVED is any of these while its
team is SAVED: its record then keeps the state in which it was saved, under an id outside the device (R384). -/
inductive TState where
  | ready
  | parked (w : Wait)
  | idleMsg
  | sleeping (wake : Option Nat)
  | exited
deriving DecidableEq, Repr

/-- An operation of a window unit (R161). -/
inductive WinOp where
  | spill | reload
deriving DecidableEq, Repr

/-- A word in a receive queue, with the cc and the core of its arrival (R277). -/
structure Pushed where
  val : Word
  cc : Nat
  core : Nat
deriving DecidableEq, Repr

/-- The trap registers of a thread (R375). -/
structure TrapRegs where
  tvec : Word
  tcause : Word
  tval : Word
  tpc : Word
  tinfo : Word
  tscratch : Word
deriving DecidableEq, Repr

/-- A scalar thread in its barrel context (R152, R384). x is the current window: x1 to x7, then the windowed x8 to x31;
outer holds x8 to x23 of each window below it, the innermost first (a window's x24 to x31 are the x8 to x15 of the window
above it, R160). spilled counts the windows, from the outermost, whose records are in the window-stack region (R50). -/
structure Thread where
  id : CtxId
  part : Nat
  team : TeamId
  state : TState
  pc : Word
  line : Option Nat
  x : Vector XReg 32
  outer : List (Vector XReg 16)
  spilled : Nat
  /-- What the window unit has to do for it, and the cc in which the need arose (R161). -/
  winOp : Option (WinOp × Nat)
  depth : Nat
  maxDepth : Nat
  trapDepth : Nat
  preds : BitVec 16
  shadow : BitVec 16
  flags : Flags
  issued : Nat
  priv : Bool
  inTrap : Bool
  tr : TrapRegs
  srseed : BitVec 32
  lutlo : Word
  luthi : Word
  qbind : Word
  ptbase : Word
  notBefore : Nat
  sb : List SbEntry
  pend : Nat
  monitors : List Monitor
  recvq : List Pushed
  ipiPending : Bool
  cls : Option Nat
  entry : Word
  msg : Option Msg
  inbox : List Msg
  spillbox : List Msg
  caps : List Cap
  unacked : Nat
  exitCode : Word
  /-- The galley lane's results, or its fault, that the parked `gcall` takes (R310). -/
  args : List Word
  /-- Asynchronous MACHINE deliveries that are due (R77, R379). -/
  dueMachine : List TrapInfo
  /-- Counts toward keeping its team RUNNING (R156): not so for a trap-service context. -/
  keepsTeam : Bool
  /-- Remaining sleep time of a saved thread (R242, R384). -/
  sleepLeft : Option Nat
  /-- It was restored while it waited in the middle of a line, which it enters again at its next head (R208). -/
  reenter : Bool
deriving DecidableEq, Repr

/-- States of a gang (R155), FREE and SAVED as for a thread. -/
inductive GState where
  | ready
  | parked (w : Wait)
  | exited
deriving DecidableEq, Repr

/-- A lane group (R168). line is the line in which it goes on, none when it enters one (R208). -/
structure Group where
  pc : Word
  lanes : Mask
  line : Option Nat
deriving DecidableEq, Repr

/-- A matrix operation from its issue to its covering `mwait` (R356, R357). table is the copy of LUTLO and LUTHI (R193);
dirty lists the operand and scale registers that were written in the interval of R100, and accDirty says that the tile was;
ended: the engine has read the operands and written the tile; err is the uncorrectable error that it met (R361). -/
structure MatOp where
  mm : MM
  rot : Bool
  seq : Nat
  table : Word × Word
  flag : Option Nat
  dirty : List Nat
  accDirty : Bool
  ended : Bool
  err : Option TrapInfo
deriving DecidableEq, Repr

/-- A block on its way or in an arrival buffer (R371): the number and the tile of the sending operation, and register numbers
with 64 lanes of values each. -/
structure Arrival where
  seq : Nat
  acc : Nat
  regs : List (Nat × List Elem)
deriving DecidableEq, Repr

/-- A gang in its gang context (R152, R384). v is keyed 128 × register + lane; empty lists the same keys whose full bit is
clear. acc is keyed 4096 × tile + 64 × row + column. -/
structure Gang where
  id : CtxId
  part : Nat
  team : Option TeamId
  num : Nat
  state : GState
  width : Nat
  vregs : Nat
  sregs : Nat
  accs : Nat
  pc : Word
  lanes : Mask
  line : Option Nat
  stack : List Group
  timer : Nat
  modeNone : Bool
  period : Nat
  switchDue : Bool
  /-- A `yield` has offered the switch of R168 at the next line boundary (R427). -/
  yieldDue : Bool
  v : Tab Elem
  empty : Tab Bool
  s : Vector Word 32
  preds : Vector Mask 16
  acc : Tab Elem
  flags : Flags
  issued : Nat
  srseed : BitVec 32
  lutlo : Word
  luthi : Word
  ptbase : Word
  pend : Nat
  notBefore : Nat
  all : Mask
  exitedLanes : Mask
  masked : Mask
  returned : Mask
  exitCodes : List (Nat × Word)
  /-- The callers of a galley gang by lane (R171); none for a caller that was killed (R383). -/
  callers : List (Option CtxId)
  caps : List (Nat × Cap)
  unacked : Nat
  matOps : List MatOp
  matSeq : Nat
  written : List Nat
  arrivalW : Option Arrival
  arrivalN : Option Arrival
  /-- Each `mrot` taken whose arrival has not landed, in order (R371): its number and the registers that it took. -/
  awaitW : List (Nat × List Nat)
  awaitN : List (Nat × List Nat)
  /-- Blocks on their way to the west, or (true) to the north. -/
  pendingSends : List (Bool × Arrival)
  njoin : Nat
  inJoin : Bool
  joinDone : Bool
  dueMachine : List TrapInfo
  /-- As for a thread. -/
  reenter : Bool
deriving DecidableEq, Repr

/-! ## Launches, teams, channels -/

/-- A kernel header (R225). -/
structure KHdr where
  kind : Nat
  width : Nat
  vregs : Nat
  sregs : Nat
  acc : Nat
  scratch : Nat
  timeout : Nat
  progress : Nat
  place : Nat
  windows : Nat
  entry : Nat
  cls : Nat
  corows : Nat
  cocols : Nat
  flags : Nat
deriving DecidableEq, Repr

/-- The source of a copy (R108, R113). -/
inductive CopySrc where
  | none
  | flat (va : Word)
  | gather (list table : Word) (esz nsrc : Nat)
deriving DecidableEq, Repr

/-- States of a channel (R109). -/
inductive ChState where
  | idle | active | done | saved
deriving DecidableEq, Repr

/-- A burst whose source read stalls at another channel of the team, with the stalled bytes; bad once that channel has
released it with ERR set (R117). -/
structure CopyStall where
  burst : Nat
  ch : Nat
  lo : Nat
  hi : Nat
  bad : Bool
  open_ : Bool
deriving DecidableEq, Repr

/-- The agent that owns the bytes of a run of a copy's source (R105): a streamer on a stack's logic die, the copy port of a tile,
or the CXL port. -/
inductive CopyAgent where
  | streamer (stack n : Nat)
  | port (cluster tile : Nat)
  | cxl
deriving DecidableEq, Repr

/-- A run of a copy's source, for one burst, that has been sent to its owning agent (R105, R106). -/
structure Run where
  burst : Nat
  va : Word
  len : Nat
  agent : CopyAgent
deriving DecidableEq, Repr

/-- A copy channel (R108, R109). tdst and tsrc are the accesses of a global destination and of a global contiguous source or index
list, 64 KiB page by page, as translated at issue (R112). runs: those sent of the bursts that have not landed. -/
structure Channel where
  base : Word
  len : Nat
  wm : Nat
  state : ChState
  err : Bool
  errkind : Nat
  errpos : Nat
  dkind : Nat
  gath : Bool
  fc : Bool
  fill : Word
  folio : Word
  loc : Nat
  table : Word
  nsrc : Nat
  src : CopySrc
  vdst : Bool
  owner : Option CtxId
  ptbase : Word
  pt : Option CountPt
  sent : List Nat
  moved : List Nat
  bm : Nat
  tdst : List Acc
  tsrc : List Acc
  runs : List Run
  stalls : List CopyStall
deriving DecidableEq, Repr

/-- A channel at launch (R108). -/
def Channel.idle : Channel :=
  { base := 0, len := 0, wm := 0, state := .idle, err := false, errkind := 0, errpos := 0, dkind := 0, gath := false,
    fc := false, fill := 0, folio := 0, loc := 0, table := 0, nsrc := 0, src := .none, vdst := false, owner := none,
    ptbase := 0, pt := none, sent := [], moved := [], bm := 0, tdst := [], tsrc := [], runs := [], stalls := [] }

/-- States of a team (R156). -/
inductive TeamState where
  | placing | running | draining | saved | ended
deriving DecidableEq, Repr

/-- A binding of a message class in a team (R163). -/
structure Binding where
  cls : Nat
  ctx : CtxId
  entry : Word
deriving DecidableEq, Repr

/-- A team (R152, R156): its tile, its runs of scratchpad bytes in the partition's bytes of the tile (R50), its channels and
bindings. While it is SAVED, cluster is a number outside the device, under which its contexts and scratchpad bytes are kept
(R384); home is the cluster on which it stands or stood. -/
structure Team where
  id : TeamId
  part : Nat
  cluster : Nat
  tile : Nat
  state : TeamState
  scrBase : Nat
  scrSize : Nat
  regBase : Nat
  regSize : Nat
  home : Nat
  chans : Vector Channel 16
  binds : List Binding
  /-- When it was saved, in nominal cc (R119, R120). -/
  savedAt : Nat
deriving DecidableEq, Repr

/-- States of a launch: held for its colophon number (R393), placing its teams (R174), returned to the head of its queue after
a co-resident placement that could not finish (R176), started, ended. -/
inductive LState where
  | held | placing | waiting | started | ended
deriving DecidableEq, Repr

/-- The result of an ended context in a launch (R403). -/
structure ExitRec where
  team : Nat
  gang : Bool
  order : Nat
  code : Word
deriving DecidableEq, Repr

/-- A launch (R400, R401). uid is the model's own number of it; trapD is WINDOWS of the TRAPSVC header; startedAt is the cc at
which its placement started, origin the rectangle's cluster and origin tile rank (R176). -/
structure Launch where
  uid : Nat
  part : Nat
  queue : QueueId
  index : Nat
  ident : Nat
  hdr : KHdr
  entry : Word
  ptbase : Word
  teams : Nat
  threads : Nat
  gangs : Nat
  trapsvc : Word
  trapD : Nat
  /-- ARG; a folio launch has none. -/
  arg : Option Word
  prio : Nat
  priv : Bool
  expect : Option Word
  state : LState
  placed : Nat
  startedAt : Nat
  origin : Option (Nat × Nat)
  exits : List ExitRec
  killed : Option (TrapInfo × Word × Word)
  /-- Its seeds: location, team and folio (R401). -/
  seeds : List (Nat × Nat × Word)
deriving DecidableEq, Repr

/-! ## Galley -/

/-- A galley key (R170). callers are in order of arrival. -/
structure Key where
  id : Nat
  part : Nat
  cluster : Nat
  entry : Word
  ptbase : Word
  hdr : KHdr
  since : Nat
  callers : List CtxId
deriving DecidableEq, Repr

/-- A caller that waits for a key (R170). -/
structure KeyWaiter where
  part : Nat
  cluster : Nat
  entry : Word
  ptbase : Word
  hdr : KHdr
  ctx : CtxId
deriving DecidableEq, Repr

/-- A launch record (R170, R172). -/
structure LaunchRec where
  part : Nat
  cluster : Nat
  entry : Word
  ptbase : Word
  hdr : KHdr
  callers : List CtxId
deriving DecidableEq, Repr

/-! ## Folios -/

/-- An installed location (R128). -/
structure Loc where
  cls : Nat
  level : Nat
  depth : Nat
  port : Nat
  node : Nat
  deleted : Bool
  eff : Nat
deriving DecidableEq, Repr

/-- An installed edge (R129). -/
structure Edge where
  lvl : Nat
  action : Nat
  dst : Nat
  src : Nat
  dead : Bool
deriving DecidableEq, Repr

/-- A path summary (R132): kept is the number of counters kept (m + 1), adds their offsets, consts the constants inside. -/
structure Summary where
  adds : List Nat
  consts : List Nat
deriving DecidableEq, Repr

/-- An entry of the closure table (R135). -/
structure TabEntry where
  a : Nat
  b : Nat
  s : Summary
deriving DecidableEq, Repr

/-- The installed graph of a partition (R127 to R138). -/
structure Graph where
  locs : List Loc
  edges : List Edge
  table : List TabEntry
deriving DecidableEq, Repr

/-- What asked for a walk: an `fgraph`, by its operation in flight, or a queue packet (R316, R401). -/
inductive WalkFor where
  | instr (op : Nat)
  | packet (q : QueueId) (index : Nat)
deriving DecidableEq, Repr

/-- A walk in progress (R135 to R138): op 0 INSTALL, 1 EXTEND, 2 DELETE; the graph that would result, or the status that the
descriptor checks gave; remote: whether the aggregating device has been asked for counts at the node, and its answer. -/
structure Walk where
  op : Nat
  node : Nat
  result : Option Graph
  status : Nat
  client : WalkFor
  remote : Option (Option Bool)
deriving DecidableEq, Repr

/-- One count change on its way (R144). producers are the contexts that wait for the acknowledgement of its increments
(R146). -/
structure Change where
  pt : CountPt
  delta : Int
  producers : List CtxId
deriving DecidableEq, Repr

/-- A batch of changes (R144, R145). -/
abbrev Batch := List Change

/-- A count point in use with its count (R141). -/
structure Count where
  pt : CountPt
  n : Int
deriving DecidableEq, Repr

/-- A frontier as announced (R147): none is +∞. -/
structure Announced where
  inst : Inst
  loc : Nat
  folio : Option Word
deriving DecidableEq, Repr

/-! ## Memory-system metadata -/

/-- A TLB entry (R33). -/
structure TlbEntry where
  part : Nat
  cluster : Nat
  asid : Nat
  vpage : Nat
  big : Bool
  frame : Nat
  r : Bool
  w : Bool
  x : Bool
  h : Bool
  c : Bool
  d : Bool
deriving DecidableEq, Repr

/-- A leaf that a walk has accepted: the entry as it was read, its address and level, and the physical address (R27). -/
structure Leaf where
  pte : Nat
  at_ : Nat
  level : Nat
  pa : Nat
deriving DecidableEq, Repr

/-- How far the walk for a page has come: not begun, its entries read (none: an entry that refuses it), or ended with a fault that
its requesters have not yet taken (R27, R35). -/
inductive MissState where
  | queued
  | walking (leaf : Option Leaf)
  | failed
deriving DecidableEq, Repr

/-- A page in the miss queue of a quarter (R35): the context, address and access kind of its first miss, and every requester. -/
structure Miss where
  part : Nat
  cluster : Nat
  quarter : Nat
  ptbase : Word
  vpage : Nat
  ctx : CtxId
  va : Word
  kind : AccKind
  waiters : List CtxId
  state : MissState
deriving DecidableEq, Repr

/-- An entry of a tile's micro-TLB, in a quarter's share of it (R33). -/
structure MicroEntry where
  tile : Nat
  quarter : Nat
  entry : TlbEntry
deriving DecidableEq, Repr

/-- States of a line in a scalar L1 (R61); I is a line that is not listed. -/
inductive L1State where
  | s | e | m
deriving DecidableEq, Repr

/-- A 32-byte line of a scalar L1, in a way of a quarter (R52). -/
structure L1Line where
  core : CoreId
  line : Nat
  quarter : Nat
  st : L1State
deriving DecidableEq, Repr

/-- States of a home directory entry (R62); U is a line that is not listed. -/
inductive DirState where
  | s | sx | o
deriving DecidableEq, Repr

/-- A request that a home serves (R61, R62): of a scalar L1; read and write of an agent that takes no copy, a wide core or a
near-cache unit (R55, R56, R71); recall, which takes the copies back (R60). -/
inductive HomeReq where
  | gets | getm | upg | read | write | recall
deriving DecidableEq, Repr

/-- A request with its requester and the slot quarter that it comes from (R52, R60). -/
structure HomeAsk where
  req : HomeReq
  core : CoreId
  quarter : Nat
deriving DecidableEq, Repr

/-- A transaction in progress at a home (R63): the request, the cores whose answers are awaited, and whether the requester held
the line in S. -/
structure HomeTrans where
  ask : HomeAsk
  awaiting : List CoreId
  heldS : Bool
deriving DecidableEq, Repr

/-- A home directory entry (R62): its sharers or owner, its overflow record, the transaction in progress and the requests
that wait behind it. -/
structure HomeLine where
  cluster : Nat
  line : Nat
  st : Option DirState
  ptrs : List CoreId
  record : Option Nat
  trans : Option HomeTrans
  queue : List HomeAsk
deriving DecidableEq, Repr

/-- Coherence messages in flight within a cluster (R61, R62). -/
inductive CohKind where
  | gets | getm | upg | read | write | recall | puts | pute | putm | invack | datawb | inv | fwds | fwdm
  | dataS | dataE | dataM | dataN | ackUpg
deriving DecidableEq, Repr

/-- A coherence message between a core and the home of a line: the slot quarter behind a request and its answer, and whether
data that goes to the home is dirty. Core 4 of a tile is its wide core, and core 5 the home's own recall. -/
structure CohMsg where
  kind : CohKind
  core : CoreId
  line : Nat
  quarter : Nat
  dirty : Bool
deriving DecidableEq, Repr

/-- An overflow record (R64): the sharers beyond the pointers. -/
structure OvfRecord where
  cluster : Nat
  rank : Nat
  quarter : Nat
  index : Nat
  line : Nat
  sharers : List CoreId
deriving DecidableEq, Repr

/-- An event queued to the overflow handler (R64). -/
structure OvfEvent where
  cluster : Nat
  rank : Nat
  quarter : Nat
  line : Nat
  add : Option CoreId
deriving DecidableEq, Repr

/-- The system context of scalar core 0 of a home tile, which runs the overflow handler: the slot quarter whose event it handled
last (R65, R66). No other system context runs anything. -/
structure SysCtx where
  cluster : Nat
  rank : Nat
  last : Nat
deriving DecidableEq, Repr

/-- A 256-byte line of a cluster cache (R59): its block, its way in the set of its home slice, its valid and dirty sectors, and
when it was used last (R60). The bytes themselves have one place, device memory (log 41). -/
structure CcLine where
  cluster : Nat
  block : Nat
  way : Nat
  valid : BitVec 8
  dirty : BitVec 8
  used : Nat
deriving DecidableEq, Repr

/-- States of a region (R67); I is a region that is not listed. -/
inductive RegState where
  | s | m
deriving DecidableEq, Repr

/-- What a request to the region directory is for (R67): sectors of a line for a cluster cache, a host access by its address,
length and data, what a device link delivers, or nothing but the recall itself (R68, R71, R106). -/
inductive RegAct where
  | fill (block : Nat) (sectors : List Nat)
  | host (a n : Nat) (bs : List Byte)
  | link (dev : Nat) (m : LinkMsg)
  | take
deriving DecidableEq, Repr

/-- A request to the region directory: agents 0 to 11 are clusters, 12 the host (R67); 13 has the region recalled from every
holder, for the slice itself (R68), a memory-side atomic unit (R71), a copy (R106) or a device link. -/
structure RegReq where
  agent : Nat
  write : Bool
  act : RegAct
deriving DecidableEq, Repr

/-- A region-directory entry (R67): its holders, owner, the transaction in progress with the agents whose acknowledgements
are awaited, and the requests behind it. -/
structure RegEntry where
  region : Nat
  st : Option RegState
  agents : List Nat
  trans : Option RegReq
  awaiting : List Nat
  queue : List RegReq
  used : Nat
deriving DecidableEq, Repr

/-- Region-directory messages in flight (R67): from a cluster cache rds, rdm, wb, evr and ack, to it rinv, rdown and data; take
asks for a recall from every holder. -/
inductive RegKind where
  | rds | rdm | wb | evr | ack | take | rinv | rdown | data
deriving DecidableEq, Repr

/-- A region-directory message of an agent; a request and its data name sectors of a line. -/
structure RegMsg where
  kind : RegKind
  agent : Nat
  region : Nat
  block : Nat
  sectors : List Nat
deriving DecidableEq, Repr

/-- An instruction line that a tile's instruction cache holds (R57). -/
structure ICLine where
  part : Nat
  cluster : Nat
  tile : Nat
  pa : Nat
  bits : Nat
deriving DecidableEq, Repr

/-- Read misses that a cluster's memory port holds to merge (R69): sectors wanted of a 256-byte block. -/
structure MissMerge where
  cluster : Nat
  block : Nat
  sectors : List Nat
deriving DecidableEq, Repr

/-- An uncorrectable error that is present (R77): the structure and the place in it, or the register that holds a value
read from it with the address of the data (R78). -/
structure ErrMark where
  st : ErrStruct
  key : Nat
  va : Word
  reg : Option (CtxId × Dst)
deriving DecidableEq, Repr

/-- The issue slots of a partition on a wide core (R165, R166): the gang context that issued last, and the ac from which
its next instruction can issue. -/
structure WideSlot where
  cluster : Nat
  tile : Nat
  part : Nat
  last : Nat
  free : Nat
deriving DecidableEq, Repr

/-! ## Host, partitions and firmware -/

/-- The accounting counters (R412). -/
structure Counters where
  issueScalar : Nat
  issueWide : Nat
  mac16 : Nat
  mac8f : Nat
  mac8i : Nat
  mac4 : Nat
  memb : Nat
  linkb : Nat
  hostb : Nat
  energy : Nat
  coloph : Nat
deriving DecidableEq, Repr

/-- Counters at creation (R412). -/
def Counters.zero : Counters := ⟨0, 0, 0, 0, 0, 0, 0, 0, 0, 0, 0⟩

/-- A record of an error queue (R403, R405). -/
structure ErrRec where
  cause : Nat
  tval : Word
  tinfo : Word
  ctxid : Word
deriving DecidableEq, Repr

/-- A virtual function (R396, R405). -/
structure Vf where
  part : Nat
  num : Nat
  errq : List ErrRec
  drops : Nat
  counters : Counters
deriving DecidableEq, Repr

/-- A queue's registers (R398, R399). -/
structure Queue where
  id : QueueId
  qbase : Word
  qsize : Nat
  qwr : Nat
  qrd : Nat
  qpt : Word
  badwr : Bool
  prio : Nat
  privok : Bool
  ringfault : Bool
  stopped : Bool
  en : Bool
deriving DecidableEq, Repr

/-- A queue at reset (R398). -/
def Queue.fresh (id : QueueId) : Queue := ⟨id, 0, 0, 0, 0, 0, false, 0, false, false, false, false⟩

/-- The completion of a packet (R403). -/
structure Completion where
  status : Nat
  check : Nat
  result : Word
deriving DecidableEq, Repr

/-- A packet that has passed its checks, or that has been refused, and whose completion is not yet written (R402, R403): its 64
bytes and their address. plan: the launch that it asks for, until it starts. copy: the source, destination and length that
remain. -/
structure Pkt where
  queue : QueueId
  index : Nat
  va : Word
  bytes : List Byte
  started : Bool
  plan : Option Launch
  launch : Option Nat
  copy : Option (Word × Word × Nat)
  done : Option Completion
deriving DecidableEq, Repr

/-- A signal that a signal wait names, by its physical address; neg: it has been negative since the wait was accepted (R404). -/
structure SigWatch where
  queue : QueueId
  index : Nat
  pa : Nat
  neg : Bool
deriving DecidableEq, Repr

/-- Bytes of a copy's destination, by offset, that another agent wrote while the copy was in flight (R98). -/
structure Race where
  team : TeamId
  ch : Nat
  lo : Nat
  len : Nat
deriving DecidableEq, Repr

/-- Export tracking of a partition (R408, R409). -/
structure Export where
  log : Nat
  cap : Nat
  pages : List Nat
  overflow : Bool
deriving DecidableEq, Repr

/-- A partition (R397). -/
structure Partition where
  cfg : PartConfig
  quota : Nat
  clseq : Word
  drainlim : Nat
  held : Bool
  pins : List (Nat × Nat)
  counters : Counters
  exporting : Option Export
  stopped : Bool
  /-- The firmware has enabled debugging (R405). -/
  debug : Bool
  slice : Nat
  sliceLeft : Nat
  graph : Graph
  walk : Option Walk
  opened : List Inst
  counts : List Count
  announced : List Announced
deriving DecidableEq, Repr

/-- A team saved by `ctxsave` or by pre-emption (R314, R384). Its team, contexts and operations keep their records, under
ids outside the device. image: the address and bytes that `ctxsave` wrote. -/
structure SavedTeam where
  id : TeamId
  byCtxsave : Bool
  image : Option (Word × List Byte)
deriving DecidableEq, Repr

/-- A pre-emption that has been asked for (R384, R386): of a partition's work on a set of tiles, for a reason, or (team) of one
team by the `ctxsave` of a context (R314). raised: PREEMPT has been raised on the tiles. -/
structure PreReq where
  part : Nat
  tiles : List (Nat × Nat)
  why : Option PreReason
  team : Option (TeamId × CtxId)
  raised : Bool
deriving DecidableEq, Repr

/-- Boot phases (R414 to R416). -/
inductive Boot where
  | off | securityCore | running | recovery
deriving DecidableEq, Repr

/-- The firmware (R414, R415): the image slot with its security version, whether its last write was interrupted, the trusted
firmware image that runs and its measurement. -/
structure Firmware where
  boot : Boot
  slot : List Byte
  version : Nat
  interrupted : Bool
  running : List Byte
  measurement : List Byte
  /-- Sectors of Quire that the 8-hour reading found uncorrectable (R77). -/
  log : List Nat
deriving DecidableEq, Repr

/-- The images of a partition's saved teams that a final export holds (R384, R409): their launches, teams, contexts, operations,
messages and scratchpad bytes, and the packets that have started and not completed. -/
structure Images where
  launches : List Launch
  teams : List Team
  threads : List Thread
  gangs : List Gang
  ops : List Op
  msgs : List Msg
  saved : List SavedTeam
  scratch : Tab Byte
  pkts : List Pkt
deriving DecidableEq, Repr

/-- A final export (R409): the partition with its pairs, the function, the registers of its queues, the images of its teams. -/
structure ExportRec where
  part : Nat
  pairs : List (Nat × Nat)
  vf : Nat
  queues : List Queue
  images : Images
  incomplete : Bool
deriving DecidableEq, Repr

/-- What the device answers to the outside. -/
inductive Output where
  | cxl (data : List Byte)
  | debug (value : Option (List Word))
  | spdm (data : List Byte)
  | link (dev : Nat) (data : List Byte)
  | countAck (dev num : Nat)
  | countQuery (dev part : Nat) (locs : List Nat)
  | countState (dev part : Nat) (busy : Bool)
  | accepted (dev num : Nat)
  | msix (q : QueueId)
  | counts (dev num : Nat) (batch : Batch)
  | frontier (part loc : Nat) (folio : Option Word)
  | message (dev : Nat) (m : Msg)
  | exported (part : Nat) (incomplete : Bool) (pages : List Nat)
  | scrubFailure (part : Nat)
deriving DecidableEq, Repr

/-- A tile's thermal record (R174, R175): temperature, droop times, when it last became cool and quiet, excluded. -/
structure Thermal where
  cluster : Nat
  tile : Nat
  temp : Nat
  droops : List Nat
  coolSince : Option Nat
  excluded : Bool
deriving DecidableEq, Repr

/-- What comes next: a context may issue, cycles pass, or a step of the device itself happens. -/
inductive Turn where
  | run (c : CtxId)
  | tick (n : Nat)
  | event (i : Instr)
deriving DecidableEq, Repr

/-- The whole device. -/
structure State where
  -- time and the model's own fields
  cc : Nat
  agenda : List Turn
  cur : Option CtxId
  fresh : Nat
  nextId : Nat
  turns : Nat
  -- storage
  mem : Tab Byte
  scratch : Tab Byte
  pinned : Tab Byte
  -- work
  threads : List Thread
  gangs : List Gang
  teams : List Team
  launches : List Launch
  saved : List SavedTeam
  ops : List Op
  msgs : List Msg
  keys : List Key
  keyQueue : List KeyWaiter
  launchRecs : List LaunchRec
  copyReqs : List (TeamId × Nat)
  races : List Race
  engine : List (CtxId × Nat)
  wide : List WideSlot
  -- counting
  tileOut : List (Nat × Nat × Change)
  clusterIn : List (Nat × Batch)
  clusterOut : List (Nat × Change)
  devIn : List Batch
  devOut : List Change
  aggIn : List Batch
  /-- Batches forwarded to another aggregating device, by number, that it has not yet acknowledged (R144, R146). -/
  sentBatches : List (Nat × Batch)
  jobDevice : Nat
  aggregator : Nat
  jobFaulted : Bool
  faultedDevices : List Nat
  -- memory-system metadata
  wl1 : List WLine
  tlb : List TlbEntry
  utlb : List MicroEntry
  missq : List Miss
  icache : List ICLine
  /-- Bytes as they were before stores of this device's contexts since the partition's last launch, which instruction fetch still
  sees (R57). -/
  codeOld : List (Nat × Byte)
  l1 : List L1Line
  ccache : List CcLine
  home : List HomeLine
  coh : List CohMsg
  sysctx : List SysCtx
  ovf : List OvfRecord
  ovfEvents : List OvfEvent
  region : List RegEntry
  reg : List RegMsg
  merges : List MissMerge
  errs : List ErrMark
  errCounts : List (Nat × Nat)
  -- host and firmware
  parts : List Partition
  vfs : List Vf
  queues : List Queue
  pkts : List Pkt
  sigs : List SigWatch
  fw : Firmware
  throttled : Bool
  thermal : List Thermal
  retired : List (Nat × Nat)
  links : Vector Bool 16
  linkSeqs : List (Nat × Nat × Nat)
  linkHeld : List (Nat × Nat × Nat × LinkMsg)
  snapshots : Nat
  /-- The scrub sequence number of each partition number, kept over resets (R392). -/
  scrubSeq : List (Nat × Nat)
  exports : List ExportRec
  preempt : List (Nat × Nat × TrapInfo)
  preReqs : List PreReq
  /-- The nominal cc of the device time base (R120, R391). -/
  time : Nat
  out : List Output
deriving DecidableEq, Repr

/-- The device right after reset, as R416 leaves it before power-on: no partition, no context, every register of R398 zero,
every memory with nothing listed. -/
def State.reset : State :=
  { cc := 0, agenda := [], cur := none, fresh := 0, nextId := 0, turns := 0, mem := [], scratch := [], pinned := [],
    threads := [], gangs := [], teams := [], launches := [], saved := [], ops := [], msgs := [], keys := [], keyQueue := [],
    launchRecs := [], copyReqs := [], races := [], engine := [], wide := [], tileOut := [], clusterIn := [], clusterOut := [],
    devIn := [], devOut := [], aggIn := [], sentBatches := [], jobDevice := 0, aggregator := 0, jobFaulted := false, faultedDevices := [],
    wl1 := [], tlb := [], utlb := [], missq := [], icache := [], codeOld := [], l1 := [], ccache := [], home := [], coh := [], sysctx := [], ovf := [], ovfEvents := [], region := [],
    reg := [], merges := [], errs := [], errCounts := [], parts := [], vfs := [], queues := [], pkts := [], sigs := [],
    fw := { boot := .off, slot := [], version := 0, interrupted := false, running := [], measurement := [], log := [] },
    throttled := false, thermal := [], retired := [], links := Vector.replicate 16 true, linkSeqs := [], linkHeld := [],
    snapshots := 0, scrubSeq := [], exports := [], preempt := [], preReqs := [], time := 0, out := [] }

end Sys2Proof.Machine
end

