-- ==== Sys2Proof/Machine/Table.lean ====
section
/-! DEFINITION. Sparse tables in canonical form, bytes and numbers (R7), and how the parts of the state are found and
replaced. -/

namespace Sys2Proof.Machine

/-- What a key of a table reads as: its entry, or d when it is not listed. -/
def tget {α : Type} (d : α) : Tab α → Nat → α
  | [], _ => d
  | (k', v) :: t, k => if k' = k then v else tget d t k

/-- A table with one key changed, in canonical form: writing d takes the entry out. -/
def tput {α : Type} [DecidableEq α] (d : α) : Tab α → Nat → α → Tab α
  | [], k, v => if v = d then [] else [(k, v)]
  | (k', v') :: t, k, v =>
    if k < k' then (if v = d then (k', v') :: t else (k, v) :: (k', v') :: t)
    else if k = k' then (if v = d then t else (k, v) :: t)
    else (k', v') :: tput d t k v

/-- The canonical form: keys strictly rising, and no entry equal to d. -/
def twf {α : Type} [DecidableEq α] (d : α) : Tab α → Bool
  | [] => true
  | [(_, v)] => decide (v ≠ d)
  | (k, v) :: (k', v') :: t => decide (v ≠ d) && decide (k < k') && twf d ((k', v') :: t)

/-- A table without the keys from lo up to, not including, hi. -/
def tclear {α : Type} (lo hi : Nat) (t : Tab α) : Tab α := t.filter fun p => p.1 < lo || hi ≤ p.1

/-- n bytes from address a on. -/
def rdBytes (m : Tab Byte) (a : Nat) : Nat → List Byte
  | 0 => []
  | n + 1 => tget 0 m a :: rdBytes m (a + 1) n

/-- Bytes stored from address a on. -/
def wrBytes (m : Tab Byte) (a : Nat) : List Byte → Tab Byte
  | [] => m
  | b :: bs => wrBytes (tput 0 m a b) (a + 1) bs

/-- The number that bytes hold, the first byte lowest (R7). -/
def leNat : List Byte → Nat
  | [] => 0
  | b :: bs => b.toNat + 256 * leNat bs

/-- The n low bytes of a number, the lowest first (R7). -/
def toBytes : Nat → Nat → List Byte
  | 0, _ => []
  | n + 1, v => BitVec.ofNat 8 v :: toBytes n (v / 256)

/-- A memory in canonical form: no entry equal to the byte 0 that an unlisted address reads as (log 1). -/
abbrev Memory.wf (m : Tab Byte) : Bool := twf 0 m

/-- An element put into its place in a sorted list, before those equal to it. -/
def insertBy {α : Type} (le : α → α → Bool) (x : α) : List α → List α
  | [] => [x]
  | y :: ys => if le x y then x :: y :: ys else y :: insertBy le x ys

/-- A list sorted; equal elements keep their order. -/
def sortBy {α : Type} (le : α → α → Bool) : List α → List α
  | [] => []
  | x :: xs => insertBy le x (sortBy le xs)

/-- The set of lanes that a list of lanes gives. -/
def maskOf (ls : List Nat) : Mask := ls.foldl (fun m l => m ||| BitVec.ofNat 128 (2 ^ l)) 0

/-- The lanes of a set in ascending order. -/
def lanesOf (m : Mask) : List Nat := (List.range 128).filter fun l => bitAt m.toNat l

/-! ## Finding and replacing -/

/-- The thread in a barrel context. -/
def State.thread? (s : State) (c : CtxId) : Option Thread := s.threads.find? fun t => t.id == c

/-- The gang in a gang context. -/
def State.gang? (s : State) (c : CtxId) : Option Gang := s.gangs.find? fun g => g.id == c

/-- The state with the record of one thread replaced. -/
def State.setThread (s : State) (t : Thread) : State :=
  { s with threads := s.threads.map fun u => if u.id == t.id then t else u }

/-- The state with the record of one gang replaced. -/
def State.setGang (s : State) (g : Gang) : State :=
  { s with gangs := s.gangs.map fun u => if u.id == g.id then g else u }

def State.updThread (s : State) (c : CtxId) (f : Thread → Thread) : State :=
  { s with threads := s.threads.map fun u => if u.id == c then f u else u }

def State.updGang (s : State) (c : CtxId) (f : Gang → Gang) : State :=
  { s with gangs := s.gangs.map fun u => if u.id == c then f u else u }

def State.part? (s : State) (n : Nat) : Option Partition := s.parts.find? fun p => p.cfg.num == n

def State.updPart (s : State) (n : Nat) (f : Partition → Partition) : State :=
  { s with parts := s.parts.map fun p => if p.cfg.num == n then f p else p }

def State.team? (s : State) (i : TeamId) : Option Team := s.teams.find? fun t => t.id == i

def State.updTeam (s : State) (i : TeamId) (f : Team → Team) : State :=
  { s with teams := s.teams.map fun t => if t.id == i then f t else t }

def State.launch? (s : State) (u : Nat) : Option Launch := s.launches.find? fun l => l.uid == u

def State.updLaunch (s : State) (u : Nat) (f : Launch → Launch) : State :=
  { s with launches := s.launches.map fun l => if l.uid == u then f l else l }

/-- The partition and translation context of a context. -/
def State.partOf (s : State) (c : CtxId) : Nat × Word :=
  match s.thread? c with
  | some t => (t.part, t.ptbase)
  | none =>
    match s.gang? c with
    | some g => (g.part, g.ptbase)
    | none => (0, 0)

/-- The state with one more operation in flight. -/
def State.addOp (s : State) (owner : CtxId) (flag : Option Nat) (k : OpKind) (rel : Bool := false) (acq : Bool := false) : State :=
  { s with ops := s.ops ++ [⟨s.nextId, owner, (s.partOf owner).1, (s.partOf owner).2, flag, rel, acq, k⟩]
           nextId := s.nextId + 1 }

def State.op? (s : State) (id : Nat) : Option Op := s.ops.find? fun o => o.id == id

def State.updOp (s : State) (id : Nat) (f : Op → Op) : State :=
  { s with ops := s.ops.map fun o => if o.id == id then f o else o }

def State.dropOp (s : State) (id : Nat) : State := { s with ops := s.ops.filter fun o => o.id != id }

/-- The quarters that a partition holds in a cluster, in ascending order (R397). -/
def Partition.quarters (p : Partition) (cl : Nat) : List Nat :=
  (List.range 4).filter fun q => p.cfg.pairs.contains (cl, q)

/-- The quarters of partition n in a cluster. -/
def State.quarters (s : State) (n cl : Nat) : List Nat :=
  match s.part? n with
  | some p => p.quarters cl
  | none => []

/-- One more in an error counter (R405). -/
def State.countErr (s : State) (k : Nat) : State :=
  { s with errCounts :=
      if s.errCounts.any fun e => e.1 == k then s.errCounts.map fun e => if e.1 = k then (e.1, e.2 + 1) else e
      else s.errCounts ++ [(k, 1)] }

/-- What an error counter reads (R76, R405): the errors that the steps of the model have met, and the corrected ones of the
structure so far, which change nothing else. -/
def State.errCounter (s : State) (k : Nat) : Nat :=
  ((s.errCounts.find? fun e => e.1 == k).elim 0 (·.2)) + ((List.range s.cc).map fun i => Config.correctedErrors k i).sum

/-- Advances the counter of free values. -/
def State.bump (s : State) (n : Nat) : State := { s with fresh := s.fresh + n }

/-- Whether an address lies in one of a list of ranges. -/
def inRanges (rs : List (Nat × Nat)) (a : Nat) : Bool := rs.any fun r => r.1 ≤ a && a < r.1 + r.2

end Sys2Proof.Machine
end

