-- ==== Sys2Proof/Machine/Regs.lean ====
section
/-! DEFINITION. The registers of threads and gangs, their full/empty bits (R95, R219), the register windows (R160), and the
fills that wake their readers (R11, R51). -/

namespace Sys2Proof.Machine

/-- Builds a vector of 32 registers. -/
def mkX (f : Nat → XReg) : Vector XReg 32 := ⟨((List.range 32).map f).toArray, by simp⟩

/-- Builds a vector of 16 registers. -/
def mk16 (f : Nat → XReg) : Vector XReg 16 := ⟨((List.range 16).map f).toArray, by simp⟩

/-- Builds a vector of 32 words. -/
def mkW (f : Nat → Word) : Vector Word 32 := ⟨((List.range 32).map f).toArray, by simp⟩

/-- A register of the current window, as it stands. -/
def Thread.getX (t : Thread) (r : Nat) : XReg := t.x[r]?.getD XReg.zero

/-- A thread with a register of the current window replaced; x0 is never written (R219). -/
def Thread.setX (t : Thread) (r : Nat) (x : XReg) : Thread :=
  if r = 0 then t else { t with x := t.x.setIfInBounds r x }

/-- The number of windows below the current one. -/
def Thread.level (t : Thread) : Nat := t.outer.length

/-- The one name of a register of the window at a level: globals at level 0, and x24 to x31 as the x8 to x15 of the window
above (R160). -/
def normX (l r : Nat) : Nat × Nat := if r < 8 then (0, r) else if 24 ≤ r then (l + 1, r - 16) else (l, r)

/-- Whether the neighbour queue is enabled (R276). -/
def Thread.queueOn (t : Thread) : Bool := bitAt t.qbind.toNat 0

/-- The context that a thread's pushes go to (R276). -/
def Thread.pushTarget (t : Thread) : CtxId :=
  { t.id with core := bits t.qbind.toNat 9 8, ctx := bits t.qbind.toNat 7 4 }

/-- Where a write to a register of the current window goes: nowhere for x0, and with the neighbour queue enabled, which keeps the
global x6 and x7, nowhere for x6 and to the target's queue for x7 (R277). -/
def Thread.dst (t : Thread) (r : Nat) : Dst :=
  if r = 0 || (t.queueOn && r == 6) then .none
  else if t.queueOn && r == 7 then .queue t.pushTarget
  else .x (normX t.level r).1 (normX t.level r).2

/-- A thread with the register at a level changed, in the current window, in one below it, resident or in its record (R51);
the registers of a window that was left are gone. -/
def Thread.updAt (t : Thread) (l r : Nat) (f : XReg → XReg) : Thread :=
  if r < 8 then t.setX r (f (t.getX r))
  else if l = t.level then t.setX r (f (t.getX r))
  else if l = t.level + 1 && r < 16 then t.setX (r + 16) (f (t.getX (r + 16)))
  else if l < t.level then
    { t with outer := t.outer.modify (t.level - 1 - l) fun w => w.setIfInBounds (r - 8) (f (w[r - 8]?.getD XReg.zero)) }
  else t

/-- The windows that are resident (R160, R161). -/
def Thread.resident (t : Thread) : Nat := t.outer.length + 1 - t.spilled

/-- Moves to a fresh window: the caller's x24 to x31 become its x8 to x15, x16 to x31 are full with undefined values taken
from the n-th free value on (R160, R377). -/
def Thread.pushWindow (t : Thread) (n : Nat) : Thread :=
  { t with
    outer := mk16 (fun i => t.getX (i + 8)) :: t.outer
    x := mkX fun i =>
      if i < 8 then t.getX i else if i < 16 then t.getX (i + 16) else ⟨Config.freeWord (n + i - 16), true⟩ }

/-- Moves back to the window below (R160). -/
def Thread.popWindow (t : Thread) : Thread :=
  match t.outer with
  | [] => t
  | w :: ws =>
    { t with
      outer := ws
      x := mkX fun i =>
        if i < 8 then t.getX i else if i < 24 then w[i - 8]?.getD XReg.zero else t.getX (i - 16) }

/-- `ReadReg` of an x register (R11, R231): none when it is empty; with the neighbour queue enabled x6 pops and x7 reads zero
(R277). -/
def Thread.readX (t : Thread) (r : Nat) : Option (Word × Thread) :=
  if r = 0 then some (0, t)
  else if t.queueOn && r == 6 then
    match t.recvq with
    | [] => none
    | p :: q => some (p.val, { t with recvq := q })
  else if t.queueOn && r == 7 then some (0, t)
  else if (t.getX r).full then some ((t.getX r).val, t)
  else none

/-- `ReadReg` of several registers in order. -/
def Thread.readXs (t : Thread) : List Nat → Option (List Word × Thread)
  | [] => some ([], t)
  | r :: rs =>
    match t.readX r with
    | none => none
    | some (v, t1) =>
      match t1.readXs rs with
      | none => none
      | some (vs, t2) => some (v :: vs, t2)

/-- The key of a v register element. -/
def vKey (r l : Nat) : Nat := 128 * r + l

/-- One element of a v register as it stands. -/
def Gang.getV (g : Gang) (r l : Nat) : Elem := tget 0 g.v (vKey r l)

/-- Whether one element of a v register is full. -/
def Gang.fullV (g : Gang) (r l : Nat) : Bool := !tget false g.empty (vKey r l)

/-- The scale registers of A, and of B, which follow them (R355). -/
def MM.scalesA (m : MM) : List Nat := (List.range (m.fa.scaleRegs m.mx)).map fun i => m.vs.toNat + i
def MM.scalesB (m : MM) : List Nat := (List.range (m.fb.scaleRegs m.mx)).map fun i => m.vs.toNat + m.fa.scaleRegs m.mx + i

/-- The registers of a block (R352). -/
def blockRegs (b : Blk) : List Nat := (List.range 16).map fun i => 16 * b.toNat + i

/-- The registers that an operation takes with A, and with B. -/
def MM.regsA (m : MM) : List Nat := blockRegs m.va ++ MM.scalesA m
def MM.regsB (m : MM) : List Nat := blockRegs m.vb ++ MM.scalesB m

/-- Whether an operation reads a register (R352, R355). -/
def MM.readsReg (m : MM) (r : Nat) : Bool := (MM.regsA m).contains r || (MM.regsB m).contains r

/-- A write to a register noted for R100: in the interval that the last `mready` began, and in that of each operation that
reads it. taken: an `mrot` arrival, which is no such write for the receiving operation, named by its number. -/
def Gang.noteWrite (g : Gang) (taken : Option Nat) (r : Nat) : Gang :=
  if g.written.contains r && g.matOps.isEmpty then g
  else
    { g with
      written := if g.written.contains r then g.written else r :: g.written
      matOps := g.matOps.map fun o =>
        if MM.readsReg o.mm r && !o.dirty.contains r && taken != some o.seq then { o with dirty := r :: o.dirty } else o }

/-- One element's value and full bit. -/
def Gang.putV (g : Gang) (r l : Nat) (v : Elem) : Gang :=
  { g with v := tput 0 g.v (vKey r l) v, empty := tput false g.empty (vKey r l) false }

/-- A gang with one element written and full. -/
def Gang.setV (g : Gang) (r l : Nat) (v : Elem) : Gang := (g.putV r l v).noteWrite none r

/-- A gang with one element's full bit cleared. -/
def Gang.clrV (g : Gang) (r l : Nat) : Gang := { g with empty := tput false g.empty (vKey r l) true }

/-- The pair of v registers that xn names on a wide core (R219). -/
def Gang.pairVal (g : Gang) (r l : Nat) : Word := (g.getV (2 * r + 1) l) ++ (g.getV (2 * r) l)

/-- Writes both halves of a lane's x register; x0 is never written (R219). -/
def Gang.setPair (g : Gang) (r l : Nat) (w : Word) : Gang :=
  if r = 0 then g else (g.setV (2 * r) l (w.extractLsb' 0 32)).setV (2 * r + 1) l (w.extractLsb' 32 32)

/-- Empties both halves of a lane's x register. -/
def Gang.clrPair (g : Gang) (r l : Nat) : Gang :=
  if r = 0 then g else (g.clrV (2 * r) l).clrV (2 * r + 1) l

/-- Writes both registers of a pair, whichever it is. -/
def Gang.putPair (g : Gang) (r l : Nat) (w : Word) : Gang :=
  (g.setV (2 * r) l (w.extractLsb' 0 32)).setV (2 * r + 1) l (w.extractLsb' 32 32)

/-- Empties both registers of a pair, whichever it is. -/
def Gang.clrBoth (g : Gang) (r l : Nat) : Gang := (g.clrV (2 * r) l).clrV (2 * r + 1) l

/-- The register pair behind a lane's x register; x0 has none (R219). -/
def xDst (r l : Nat) : Dst := if r = 0 then .none else .pair r l

/-- `ReadReg` of a lane's x register (R219). -/
def Gang.readX (g : Gang) (r l : Nat) : Option Word :=
  if r = 0 then some 0 else if g.fullV (2 * r) l && g.fullV (2 * r + 1) l then some (g.pairVal r l) else none

/-- An s register: s0 reads zero (R219). -/
def Gang.getS (g : Gang) (r : Nat) : Word := if r = 0 then 0 else g.s[r]?.getD 0

/-- A gang with an s register written; s0 ignores writes (R219). -/
def Gang.setS (g : Gang) (r : Nat) (w : Word) : Gang := if r = 0 then g else { g with s := g.s.setIfInBounds r w }

/-- An accumulator element (R353). -/
def Gang.getAcc (g : Gang) (a r c : Nat) : Elem := tget 0 g.acc (4096 * a + 64 * r + c)

def Gang.setAcc (g : Gang) (a r c : Nat) (v : Elem) : Gang := { g with acc := tput 0 g.acc (4096 * a + 64 * r + c) v }

/-! ## Tiles and the interval of R100 -/

/-- A tile replaced by values in the order 64 × row + column. -/
def Gang.putTile (g : Gang) (a : Nat) (es : List Elem) : Gang :=
  { g with acc := (g.acc.filter fun x => x.1 < 4096 * a) ++
      ((es.zipIdx).filterMap fun x => if x.1 = 0 || 4096 ≤ x.2 then none else some (4096 * a + x.2, x.1)) ++
      (g.acc.filter fun x => 4096 * (a + 1) ≤ x.1) }

/-- A tile of undefined words, the n-th free value first (R100). -/
def Gang.freeTile (g : Gang) (a n : Nat) : Gang :=
  g.putTile a ((List.range 4096).map fun i => Config.freeElem (n + i))

/-- Whether what the operations of a tile left, in order, is undefined (R100): u says so of what the first one found. -/
def openUndefined : List MatOp → Bool → Bool
  | [], u => u
  | o :: os, u => openUndefined os (!o.dirty.isEmpty || o.accDirty || (u && !o.mm.z))

/-- The operations that sel chooses are covered (R357): the interval of R100 ends, with a tile left undefined where it says
so. -/
def coverOps (c : CtxId) (sel : MatOp → Bool) (s : State) : State :=
  match s.gang? c with
  | none => s
  | some g =>
    let bad := (List.range 8).filter fun a =>
      g.matOps.any (fun o => sel o && o.mm.acc.toNat == a) && openUndefined (g.matOps.filter fun o => o.mm.acc.toNat == a) false
    let g1 := bad.foldl (fun g1 a => g1.freeTile a (s.fresh + 4096 * a)) g
    (s.bump (if bad.isEmpty then 0 else 8 * 4096)).setGang { g1 with matOps := g.matOps.filter fun o => !sel o }

/-! ## Predicates -/

/-- A thread's predicate: p0 reads true (R219). -/
def Thread.pred (t : Thread) (p : Nat) : Bool := p == 0 || t.preds.getLsbD p

/-- A predicate of a lane. -/
def Gang.pred (g : Gang) (p l : Nat) : Bool := p == 0 || bitAt (g.preds[p]?.getD 0).toNat l

/-- A 16-bit predicate file with one predicate written; a write to p0 is discarded (R231). -/
def setBit16 (m : BitVec 16) (p : Nat) (b : Bool) : BitVec 16 :=
  if p = 0 then m else if b then m ||| BitVec.ofNat 16 (2 ^ p) else m &&& ~~~ BitVec.ofNat 16 (2 ^ p)

def Thread.setPred (t : Thread) (p : Nat) (b : Bool) : Thread := { t with preds := setBit16 t.preds p b }

/-- A set of lanes with one lane put in or taken out. -/
def setLane (m : Mask) (l : Nat) (b : Bool) : Mask :=
  if b then m ||| BitVec.ofNat 128 (2 ^ l) else m &&& ~~~ BitVec.ofNat 128 (2 ^ l)

def Gang.setPred (g : Gang) (p l : Nat) (b : Bool) : Gang :=
  if p = 0 then g else { g with preds := g.preds.setIfInBounds p (setLane (g.preds[p]?.getD 0) l b) }

/-! ## Fills and waking -/

/-- A thread or gang whose condition holds is READY again. -/
def State.wake (s : State) (c : CtxId) : State :=
  (s.updThread c fun t => if t.state = .parked .retry then { t with state := .ready } else t).updGang c
    fun g => if g.state = .parked .retry then { g with state := .ready } else g

/-- The register cells of a destination. -/
def Dst.cells : Dst → List (Nat × Nat × Nat)
  | .none => []
  | .gone => []
  | .queue _ => []
  | .x l r => [(0, l, r)]
  | .v r l => [(1, r, l)]
  | .pair r l => [(1, 2 * r, l), (1, 2 * r + 1, l)]
  | .s r => [(2, r, 0)]

/-- Whether two destinations share a register cell. -/
def Dst.meets (a b : Dst) : Bool := a.cells.any fun c => b.cells.contains c

/-- A register error mark goes when its register is written. -/
def State.clearErr (s : State) (c : CtxId) (d : Dst) : State :=
  { s with errs := s.errs.filter fun e => match e.reg with
      | none => true
      | some (c', d') => !(c' == c && d'.meets d) }

/-- The error, if any, that a register read would consume (R77). -/
def State.regErr (s : State) (c : CtxId) (ds : List Dst) : Option ErrMark :=
  s.errs.find? fun e => match e.reg with
    | none => false
    | some (c', d') => c' == c && ds.any d'.meets

/-- A value and its full bit written to a destination as one event, or a push made. -/
def State.putRaw (s : State) (c : CtxId) (d : Dst) (w : Word) : State :=
  match d with
  | .none => s
  | .gone => s
  | .queue d => if (s.thread? d).isSome then s.addOp c Option.none (.push d w) else s
  | .x l r => s.updThread c fun t => t.updAt l r fun _ => ⟨w, true⟩
  | .v r l => s.updGang c fun g => g.setV r l (w.extractLsb' 0 32)
  | .pair r l => s.updGang c fun g => g.putPair r l w
  | .s r => s.updGang c fun g => g.setS r w

/-- Writes a destination, whose error goes with the value that had it (R77). -/
def State.putDst (s : State) (c : CtxId) (d : Dst) (w : Word) : State := (s.putRaw c d w).clearErr c d

/-- `Fill` (R11, R95): the value and the full bit together; a register of a spilled window is filled in its record (R51).
An agent parked on the register finds it full when its head is tried next (`tryHead`). -/
def State.fill (s : State) (c : CtxId) (d : Dst) (w : Word) : State := s.putDst c d w

/-- The fill of a reply that was marked when it was read (R77). -/
def State.fillReply (s : State) (c : CtxId) (d : Dst) (w : Word) : State := s.putRaw c d w

/-- `MarkEmpty` (R11). -/
def State.markEmpty (s : State) (c : CtxId) (d : Dst) : State :=
  match d with
  | .none => s
  | .gone => s
  | .queue _ => s
  | .x l r => s.updThread c fun t => t.updAt l r fun x => { x with full := false }
  | .v r l => s.updGang c fun g => g.clrV r l
  | .pair r l => s.updGang c fun g => g.clrBoth r l
  | .s _ => s

/-- The destinations that an operation in flight still fills. -/
def OpKind.dsts : OpKind → List Dst
  | .load es => es.map (·.dst)
  | .fills fs => fs.map (·.1)
  | .atomic es => es.map (·.dst)
  | .red _ => []
  | .vrdm _ ls => ls.map (·.1)
  | .store _ => []
  | .push _ _ => []
  | .tlbinv _ d => [d]
  | .restore _ d => [d]
  | .graph d => [d]
  | .flagDue => []

/-- The registers that one `mrot` arrival is still to fill: those that the block in the buffer carries, or, while none is there,
those that the operation took (R371, log 84). -/
def awaited (buf : Option Arrival) : List (Nat × List Nat) → List Nat
  | [] => []
  | x :: xs => (match buf with
    | some a => a.regs.map (·.1)
    | none => x.2) ++ xs.flatMap (·.2)

/-- Whether a destination has a fill pending: from an operation in flight, an armed monitor (R95, R296), a copy into vector
registers (R96), or an `mrot` arrival (R371). -/
def State.busy (s : State) (c : CtxId) (ds : List Dst) : Bool :=
  (s.ops.any fun o => o.owner == c && o.kind.dsts.any fun d => ds.any d.meets) ||
  (match s.thread? c with
    | some t => t.monitors.any fun m => ds.any m.dst.meets
    | none =>
      match s.gang? c with
      | none => false
      | some g =>
        (s.teams.any fun t => t.chans.toList.any fun ch =>
          ch.state == .active && ch.vdst && ch.owner == some c &&
            (ds.any fun d => d.cells.any fun k =>
              k.1 == 1 && ch.base.toNat ≤ k.2.1 && k.2.1 < ch.base.toNat + ch.len / (4 * g.width) &&
                !g.fullV k.2.1 k.2.2)) ||
        (ds.any fun d => d.cells.any fun k =>
          k.1 == 1 && (awaited g.arrivalW g.awaitW ++ awaited g.arrivalN g.awaitN).contains k.2.1))

end Sys2Proof.Machine
end

