-- ==== Sys2Proof/Machine/Count.lean ====
section
/-! DEFINITION. Folios (R123 to R126), path summaries and the closure walk (R130 to R135), count points, frontiers and
announced closures (R139 to R148). -/

namespace Sys2Proof.Machine

/-! ## Folios -/

/-- DEPTH of a folio (R123). -/
def folioDepth (f : Word) : Nat := bits f.toNat 61 60

/-- Counter i of a folio (R123). -/
def folioCtr (f : Word) : Nat → Nat
  | 0 => bits f.toNat 15 0
  | 1 => bits f.toNat 31 16
  | 2 => bits f.toNat 47 32
  | _ => bits f.toNat 59 48

/-- The largest value of counter i (R126). -/
def maxCtr (i : Nat) : Nat := if i < 3 then 0xFFFF else 0xFFF

/-- Whether a folio is well formed (R124). -/
def folioOk (f : Word) : Bool :=
  bits f.toNat 63 62 == 0 && (List.range 4).all fun i => i ≤ folioDepth f || folioCtr f i == 0

/-- The folio with these active counters, outermost first (R123). -/
def mkFolio (cs : List Nat) : Word :=
  w64 ((cs.length - 1) * 2 ^ 60 + cs.getD 0 0 + cs.getD 1 0 * 2 ^ 16 + cs.getD 2 0 * 2 ^ 32 + cs.getD 3 0 * 2 ^ 48)

/-- The active counters of a folio, outermost first. -/
def folioCtrs (f : Word) : List Nat := (List.range (folioDepth f + 1)).map (folioCtr f)

/-- The lexicographic order on counters (R125). -/
def ctrsLt : List Nat → List Nat → Bool
  | [], [] => false
  | [], _ => true
  | _, [] => false
  | a :: as, b :: bs => a < b || (a == b && ctrsLt as bs)

/-- The order of folios of one depth (R125). -/
def folioLt (f g : Word) : Bool := ctrsLt (folioCtrs f) (folioCtrs g)

/-- The smaller of two frontiers; none is +∞. -/
def minFolio : Option Word → Option Word → Option Word
  | none, b => b
  | a, none => a
  | some a, some b => some (if folioLt b a then b else a)

/-- Whether a folio lies below a frontier (R142). -/
def belowFrontier (f : Word) : Option Word → Bool
  | none => true
  | some g => folioLt f g

/-! ## Summaries -/

/-- `Apply` (R132): +∞ when a counter passes its maximum. -/
def Summary.apply (s : Summary) (f : Word) : Option Word :=
  let cs := (List.range s.adds.length).map fun i => folioCtr f i + s.adds.getD i 0
  let all := cs ++ s.consts
  if (List.range all.length).all fun i => all.getD i 0 ≤ maxCtr i then some (mkFolio all) else none

/-- The first counter, if any, that `Apply` takes beyond its maximum (R126). -/
def Summary.overflow (s : Summary) (f : Word) : Option Nat :=
  let all := ((List.range s.adds.length).map fun i => folioCtr f i + s.adds.getD i 0) ++ s.consts
  (List.range all.length).find? fun i => !(all.getD i 0 ≤ maxCtr i)

/-- The summary of one edge from a location of depth ds (R132). -/
def Edge.summary (e : Edge) (ds : Nat) : Summary :=
  match e.action with
  | 0 => ⟨List.replicate (ds + 1) 0, []⟩
  | 1 => ⟨(List.range (ds + 1)).map fun i => if i = e.lvl then 1 else 0, []⟩
  | 2 => ⟨List.replicate (ds + 1) 0, [0]⟩
  | _ => ⟨List.replicate ds 0, []⟩

/-- `Compose` (R132): the first summary, then the second. -/
def Summary.compose (s1 s2 : Summary) : Summary :=
  let m1 := s1.adds.length
  let m2 := s2.adds.length
  let m := min m1 m2
  { adds := (List.range m).map fun i => s1.adds.getD i 0 + s2.adds.getD i 0
    consts := ((List.range (m2 - m)).map fun j => s1.consts.getD (m + j - m1) 0 + s2.adds.getD (m + j) 0) ++ s2.consts }

/-- A summary position by position: an offset on a kept counter, or a constant (R133). -/
def Summary.forms (s : Summary) : List (Bool × Nat) := s.adds.map (fun d => (true, d)) ++ s.consts.map fun v => (false, v)

/-- The scan of R133. -/
def domForms : List (Bool × Nat) → List (Bool × Nat) → Bool
  | (k1, x) :: as, (k2, y) :: bs => if k1 && !k2 then false else x < y || (x == y && domForms as bs)
  | _, _ => true

/-- Whether the first summary dominates the second (R133). -/
def Summary.dominates (a b : Summary) : Bool := domForms a.forms b.forms

/-- Whether a self-summary strictly increases folios (R134). -/
def Summary.increases (s : Summary) : Bool := s.adds.any fun d => d != 0

/-- `Add` of the walker (R135): the table, or status 4 CYCLE or 5 TABLE_FULL. -/
def walkAdd (t : List TabEntry) (a b : Nat) (s : Summary) : Except Nat (List TabEntry) :=
  if a = b then (if s.increases then .ok t else .error 4)
  else if t.any fun e => e.a == a && e.b == b && e.s.dominates s then .ok t
  else
    let t1 := (t.filter fun e => !(e.a == a && e.b == b && s.dominates e.s)) ++ [⟨a, b, s⟩]
    if 4 < (t1.filter fun e => e.a == a && e.b == b).length || 16384 < t1.length then .error 5 else .ok t1

/-- Several `Add`s in order. A graph with both a cycle that does not increase and more entries than the table holds gives the
status that the walk meets first: DEDUCED from R135, since R136's list gives no order between the two (log 93). -/
def walkAdds : List TabEntry → List TabEntry → Except Nat (List TabEntry)
  | t, [] => .ok t
  | t, e :: es =>
    match walkAdd t e.a e.b e.s with
    | .error n => .error n
    | .ok t1 => walkAdds t1 es

/-- The depth declared for a location. -/
def Graph.depth (g : Graph) (l : Nat) : Nat := (g.locs[l]?.map (·.depth)).getD 0

/-- The compositions that one pass of the walker tries (R135). -/
def Graph.pass (g : Graph) (t : List TabEntry) : List TabEntry :=
  t.flatMap fun e =>
    (g.edges.filter fun d => !d.dead && d.src == e.b).map fun d => ⟨e.a, d.dst, e.s.compose (d.summary (g.depth d.src))⟩

/-- Passes until one adds nothing (R135). -/
def Graph.passes (g : Graph) : Nat → List TabEntry → Except Nat (List TabEntry)
  | 0, t => .ok t
  | n + 1, t =>
    match walkAdds t (g.pass t) with
    | .error e => .error e
    | .ok t1 => if t1 = t then .ok t else g.passes n t1

/-- The closure table of a graph (R135). A non-dominated path passes no location twice, so as many passes as locations
end the walk. -/
def Graph.close (g : Graph) : Except Nat (List TabEntry) :=
  match walkAdds [] ((g.edges.filter fun e => !e.dead).map fun e => ⟨e.src, e.dst, e.summary (g.depth e.src)⟩) with
  | .error n => .error n
  | .ok t => g.passes (g.locs.length + 2) t

/-! ## Counts and frontiers -/

/-- The count at a count point. -/
def Partition.count (p : Partition) (pt : CountPt) : Int :=
  match p.counts.find? fun c => c.pt == pt with
  | some c => c.n
  | none => 0

/-- The frontier of a location in an instance (R142). -/
def Partition.frontier (p : Partition) (i : Inst) (loc : Nat) : Option Word :=
  (p.counts.filter fun c => c.pt.inst == i && decide (0 < c.n)).foldl (fun best c =>
    let b1 := if c.pt.loc = loc then minFolio best (some c.pt.folio) else best
    (p.graph.table.filter fun e => e.a == c.pt.loc && e.b == loc).foldl
      (fun b e => minFolio b (e.s.apply c.pt.folio)) b1) none

/-- What has been announced for a location of an instance (R143, R147). -/
def Partition.told? (p : Partition) (i : Inst) (loc : Nat) : Option Announced :=
  p.announced.find? fun a => a.inst == i && a.loc == loc

/-- The frontier that a tile sees of an opened instance (R309): the one announced; a location that no change has reached yet
shows the frontier that it has. -/
def Partition.shown (p : Partition) (i : Inst) (loc : Nat) : Option Word :=
  match p.told? i loc with
  | some a => a.folio
  | none => p.frontier i loc

/-- What a tile of a device sees of a location (R147): on a device that does not aggregate the job, a SYSTEM location of which
nothing has been announced shows the lowest folio. -/
def State.shown (s : State) (p : Partition) (i : Inst) (loc : Nat) : Option Word :=
  if i = .system p.cfg.num ∧ s.aggregator ≠ s.jobDevice ∧ (p.told? i loc).isNone then
    some (mkFolio (List.replicate (p.graph.depth loc + 1) 0))
  else p.shown i loc

/-- Whether Closure(loc, f) has been announced in an opened instance (R143). -/
def Partition.toldClosed (p : Partition) (i : Inst) (loc : Nat) (f : Word) : Bool :=
  p.opened.contains i && (p.told? i loc).any fun a => belowFrontier f a.folio

/-- Whether the count point (loc, f) reaches an announced closure (R143): its own, or that of a location that it reaches, at a
folio no later; never in an instance that is not opened. -/
def Partition.closed (p : Partition) (i : Inst) (loc : Nat) (f : Word) : Bool :=
  p.toldClosed i loc f || p.graph.table.any fun e => e.a == loc && (e.s.apply f).any fun g => p.toldClosed i e.b g

/-- Whether a frontier is larger than another; none is +∞. -/
def frontierGrew (old new : Option Word) : Bool :=
  match old, new with
  | none, _ => false
  | some _, none => true
  | some a, some b => folioLt a b

/-- Whether frontiers of an instance can be announced now: no walk is in progress (R137), its team is not saved (R149), and,
at SYSTEM level, this device aggregates a job without a faulted device (R150). -/
def State.canAnnounce (s : State) (p : Partition) (i : Inst) : Bool :=
  p.walk.isNone && p.opened.contains i && (match i with
    | .team t => (s.team? t).elim false fun x => x.state != .saved
    | .cluster _ _ => true
    | .device _ => true
    | .system _ => s.aggregator == s.jobDevice && !s.jobFaulted)

/-- A change applied to a list of counts; a count of zero is not in use (R141). -/
def addCount (pt : CountPt) (d : Int) (cs : List Count) : List Count :=
  match cs.find? fun c => c.pt == pt with
  | none => if d = 0 then cs else cs ++ [⟨pt, d⟩]
  | some c =>
    if c.n + d = 0 then cs.filter fun x => x.pt != pt
    else cs.map fun x => if x.pt == pt then ⟨pt, x.n + d⟩ else x

/-- Opens the instance of a change (R143). -/
def openInst (i : Inst) (l : List Inst) : List Inst := if l.contains i then l else l ++ [i]

/-- The locations whose frontiers a change affects, in its instance (R142, R147). -/
def Graph.reached (g : Graph) (pt : CountPt) : List (Inst × Nat) :=
  (pt.inst, pt.loc) :: (g.table.filter fun e => e.a == pt.loc).map fun e => (pt.inst, e.b)

/-- The locations that changes at count points are the first to affect have their frontiers announced, or, where none can be
announced, the lowest. -/
def State.tellNew (s : State) (p : Partition) (pts : List CountPt) : Partition :=
  let new : List (Inst × Nat) := (pts.flatMap p.graph.reached).eraseDups.filter fun (x : Inst × Nat) => (p.told? x.1 x.2).isNone
  { p with announced := p.announced ++ new.map fun (x : Inst × Nat) =>
      ({ inst := x.1, loc := x.2, folio := if s.canAnnounce p x.1 then p.frontier x.1 x.2 else some 0 } : Announced) }

/-- A batch applied in a partition: its increments first, then its decrements (R145). It opens its instances (R143). -/
def State.applyBatch (s : State) (p : Partition) (b : Batch) : Partition :=
  let cs : List Change := (b.filter fun (c : Change) => decide (0 ≤ c.delta)) ++ b.filter fun (c : Change) => decide (c.delta < 0)
  let p1 := { p with
    counts := cs.foldl (fun (l : List Count) (c : Change) => addCount c.pt c.delta l) p.counts
    opened := cs.foldl (fun (l : List Inst) (c : Change) => openInst c.pt.inst l) p.opened }
  s.tellNew p1 (cs.map (·.pt))

/-- The partition that an instance belongs to. -/
def State.instPart (s : State) : Inst → Nat
  | .team t => (s.launch? t.launch).elim 0 (·.part)
  | .cluster p _ => p
  | .device p => p
  | .system p => p

/-- One fewer increment of a context waits for its acknowledgement (INCREMENT_ACK, R146). -/
def State.ack (s : State) (c : CtxId) : State :=
  ((s.updThread c fun t => { t with unacked := t.unacked - 1 }).updGang c
    fun g => { g with unacked := g.unacked - 1 })

/-- The frontiers of the SYSTEM locations that a partition's changes make known to the other devices (R147): all of them as the
instance opens, then those announced for the first time. -/
def newSystem (s : State) (p q : Partition) : List Output :=
  let i := Inst.system p.cfg.num
  if !s.canAnnounce q i then []
  else
    ((List.range q.graph.locs.length).filter fun n =>
      (q.graph.locs[n]?).any (fun l => l.eff == 3) && (!p.opened.contains i || ((p.told? i n).isNone && (q.told? i n).isSome))).map
      fun n => .frontier p.cfg.num n (q.shown i n)

/-- A counting unit applies the changes of its own instances (R145) and acknowledges the increments (R146). -/
def State.applyChanges (s : State) (b : Batch) : State :=
  let upd := fun (p : Partition) =>
    let mine := b.filter fun (c : Change) => s.instPart c.pt.inst == p.cfg.num
    if mine.isEmpty then p else s.applyBatch p mine
  let s1 := { s with parts := s.parts.map upd }
  if b.isEmpty then s
  else ((b.flatMap (·.producers)).foldl State.ack { s1 with out := s1.out ++ s.parts.flatMap fun p => newSystem s p (upd p) })

/-- The instance at a counting level for work of a team, or in a cluster (R131). -/
def instAt (level part cl : Nat) (team : Option TeamId) : Inst :=
  match level with
  | 0 => .team (team.getD ⟨0, 0⟩)
  | 1 => .cluster part cl
  | 2 => .device part
  | _ => .system part

/-- The effective level of a location. -/
def Graph.level (g : Graph) (l : Nat) : Nat := (g.locs[l]?.map (·.eff)).getD 0

/-- A count change recorded in the tile frontier slice where it arises (R144), with the context that waits for its
acknowledgement. -/
def State.addChange (s : State) (cl tile : Nat) (pt : CountPt) (d : Int) (who : List CtxId) : State :=
  let s1 := { s with tileOut := s.tileOut ++ [(cl, tile, ⟨pt, d, who⟩)] }
  who.foldl (fun s c => (s.updThread c fun t => { t with unacked := t.unacked + 1 }).updGang c
    fun g => { g with unacked := g.unacked + 1 }) s1

/-- Nets the changes of a batch per count point (R144). -/
def netBatch : List Change → Batch
  | [] => []
  | c :: cs =>
    let rest := netBatch cs
    match rest.find? fun d => d.pt == c.pt with
    | none => c :: rest
    | some d => ⟨c.pt, c.delta + d.delta, c.producers ++ d.producers⟩ :: rest.filter fun e => e.pt != c.pt

/-- Every count change that the unit of its instance has not yet applied, or not yet acknowledged (R144, R146). -/
def State.underWay (s : State) : List Change :=
  s.tileOut.map (·.2.2) ++ s.clusterIn.flatMap (·.2) ++ s.clusterOut.map (·.2) ++ s.devIn.flatten ++ s.devOut ++
    s.aggIn.flatten ++ s.sentBatches.flatMap (·.2)

/-- Whether an increment at a count point has not yet been acknowledged (R146). -/
def State.incPending (s : State) (p : CountPt) : Bool := s.underWay.any fun c => c.pt == p && !c.producers.isEmpty

/-- Whether one more increment after n others of the same instruction would take a count point beyond its limit (R141); the
increments on their way count. -/
def State.countFull (s : State) (p : Partition) (pt : CountPt) (n : Nat) : Bool :=
  let way := (s.underWay.filter fun c => c.pt == pt && decide (0 < c.delta)).foldl (fun (a : Int) c => a + c.delta) 0
  decide (2 ^ 31 - 1 ≤ p.count pt + way + (n : Int))

/-- The tile of a TEAM count point. -/
def State.slice? (s : State) (pt : CountPt) : Option (Nat × Nat) :=
  match pt.inst with
  | .team t => (s.team? t).map fun x => (x.cluster, x.tile)
  | _ => none

/-- How many of some count points lie beyond what a tile's slice holds of a partition (R148): 256 for each of its quarters. -/
def State.sliceOver (s : State) (part : Nat) (pts : List CountPt) (cl tile : Nat) : Nat :=
  (pts.filter fun x => s.slice? x == some (cl, tile)).length - 256 * (s.quarters part cl).length

/-- How many count points a cluster unit holds for a partition (R148): its own, and those beyond what the tiles' slices hold. -/
def State.clusterHeld (s : State) (part : Nat) (pts : List CountPt) (cl : Nat) : Nat :=
  (pts.filter fun x => x.inst == .cluster part cl).length +
    (((pts.filterMap s.slice?).eraseDups.filter fun x => x.1 == cl).map fun x => s.sliceOver part pts x.1 x.2).sum

/-- Whether a cluster unit and its spill table hold that many (R148). -/
def State.clusterFits (s : State) (part : Nat) (pts : List CountPt) (cl : Nat) : Bool :=
  s.clusterHeld part pts cl ≤ 66_560 * (s.quarters part cl).length

/-- Whether the units hold a new count point among those in use (R148); the aggregating role is one for all partitions. -/
def State.pointFits (s : State) (p : Partition) (pts : List CountPt) (pt : CountPt) : Bool :=
  match pt.inst with
  | .team _ => (s.slice? pt).elim true fun x => s.sliceOver p.cfg.num pts x.1 x.2 == 0 || s.clusterFits p.cfg.num pts x.1
  | .cluster _ c => s.clusterFits p.cfg.num pts c
  | .device _ => (pts.filter fun x => x.inst == pt.inst).length ≤ 320 * p.cfg.pairs.length + 65_536
  | .system _ =>
    (pts.filter fun x => x.inst == pt.inst).length +
      (s.parts.flatMap fun q => if q.cfg.num = p.cfg.num then [] else q.counts.filter fun c => c.pt.inst == .system q.cfg.num).length
      ≤ 66_560

/-- The count points of a partition that are in use, or that changes under way will use. -/
def State.pointsOf (s : State) (p : Partition) : List CountPt :=
  (p.counts.map (·.pt) ++ (s.underWay.filter fun c => s.instPart c.pt.inst == p.cfg.num).map (·.pt)).eraseDups

/-- Whether count points can be made now by one instruction, or must wait for entries (R148). -/
def State.countRoom (s : State) (p : Partition) (new : List CountPt) : Bool :=
  let old := s.pointsOf p
  let all := (old ++ new).eraseDups
  new.all fun pt => old.contains pt || s.pointFits p all pt

/-- Whether count points can be made now in a partition (R148). -/
def State.room (s : State) (part : Nat) (new : List CountPt) : Bool := (s.part? part).elim true fun p => s.countRoom p new

/-- The lanes whose increments would pass the limit of R141, each after those of the lanes before it. -/
def State.overLimit (s : State) (part : Nat) : List CountPt → List (Nat × CountPt) → List Nat
  | _, [] => []
  | seen, (l, pt) :: r =>
    if (s.part? part).elim false fun p => s.countFull p pt (seen.count pt) then l :: s.overLimit part seen r
    else s.overLimit part (pt :: seen) r

/-- The scope of a counting level (R94). -/
def levelScope : Nat → Scope
  | 0 => .tm | 1 => .cl | 2 => .dv | _ => .sy

/-- TINFO of FOLIO_RANGE and DEAD_CHANNEL (R151), without a lane. -/
def folioInfo (index clevel reason : Nat) : Word := w64 (index * 2 ^ 32 + clevel * 2 ^ 8 + reason)

end Sys2Proof.Machine
end

