-- ==== Sys2Proof/Machine/Fp.lean ====
section
/-! DEFINITION. Number formats, exact values and rounding (R184 to R204), and the arithmetic built on them (R261 to R268,
R322 to R326, R336). A value is exact until `roundTo` turns it into a code. -/

namespace Sys2Proof.Machine

/-- The floating-point formats of R185. -/
inductive FF where
  | f64 | f32 | f16 | bf16 | e5m2 | e4m3 | e4m3z | e2m1
deriving DecidableEq, Repr

/-- Mantissa bits (R185). -/
def FF.mant : FF → Nat
  | .f64 => 52 | .f32 => 23 | .f16 => 10 | .bf16 => 7 | .e5m2 => 2 | .e4m3 => 3 | .e4m3z => 3 | .e2m1 => 1

/-- Exponent bits (R185). -/
def FF.expBits : FF → Nat
  | .f64 => 11 | .f32 => 8 | .f16 => 5 | .bf16 => 8 | .e5m2 => 5 | .e4m3 => 4 | .e4m3z => 4 | .e2m1 => 2

/-- Exponent bias (R185). -/
def FF.bias : FF → Nat
  | .f64 => 1023 | .f32 => 127 | .f16 => 15 | .bf16 => 127 | .e5m2 => 15 | .e4m3 => 7 | .e4m3z => 8 | .e2m1 => 1

/-- Width of a code in bits. -/
def FF.width (f : FF) : Nat := 1 + f.expBits + f.mant

/-- The format has infinities (R185). -/
def FF.hasInf : FF → Bool
  | .f64 | .f32 | .f16 | .bf16 | .e5m2 => true
  | _ => false

/-- The format has a NaN code (R187). -/
def FF.hasNan : FF → Bool
  | .e2m1 => false
  | _ => true

/-- The canonical NaN (R187); +0 for E2M1, which has none (R197). -/
def FF.nan : FF → Nat
  | .f64 => 0x7FF8000000000000 | .f32 => 0x7FC00000 | .f16 => 0x7E00 | .bf16 => 0x7FC0 | .e5m2 => 0x7E | .e4m3 => 0x7F
  | .e4m3z => 0x80 | .e2m1 => 0

/-- The code of the largest finite value (R185, R186). -/
def FF.maxCode : FF → Nat
  | .f64 => 0x7FEFFFFFFFFFFFFF | .f32 => 0x7F7FFFFF | .f16 => 0x7BFF | .bf16 => 0x7F7F | .e5m2 => 0x7B | .e4m3 => 0x7E
  | .e4m3z => 0x7F | .e2m1 => 0x7

/-- The code of +∞ where there is one. -/
def FF.infCode (f : FF) : Nat := (2 ^ f.expBits - 1) * 2 ^ f.mant

/-- The sign bit. -/
def FF.signBit (f : FF) : Nat := 2 ^ (f.width - 1)

/-- The exponent of the spacing below the smallest normal (R185). -/
def FF.qmin (f : FF) : Int := 1 - (f.bias : Int) - f.mant

/-- The value of a code: a NaN, an infinity, or (−1)^neg × m × 2^e. -/
inductive FVal where
  | nan
  | inf (neg : Bool)
  | fin (neg : Bool) (m : Nat) (e : Int)
deriving DecidableEq, Repr

/-- Decode a code of a format (R185, R186). Bits above the format's width are ignored. -/
def FF.decode (f : FF) (c0 : Nat) : FVal :=
  let c := c0 % 2 ^ f.width
  let neg := c / f.signBit == 1
  let ab := c % f.signBit
  let ex := ab / 2 ^ f.mant
  let m := ab % 2 ^ f.mant
  match f with
  | .e4m3z => if c == 0x80 then .nan else
      if ex == 0 then .fin neg m f.qmin else .fin neg (2 ^ f.mant + m) (f.qmin + ex - 1)
  | .e4m3 => if ab == 0x7F then .nan else
      if ex == 0 then .fin neg m f.qmin else .fin neg (2 ^ f.mant + m) (f.qmin + ex - 1)
  | .e2m1 => if ex == 0 then .fin neg m f.qmin else .fin neg (2 ^ f.mant + m) (f.qmin + ex - 1)
  | _ =>
    if ex == 2 ^ f.expBits - 1 then (if m == 0 then .inf neg else .nan)
    else if ex == 0 then .fin neg m f.qmin else .fin neg (2 ^ f.mant + m) (f.qmin + ex - 1)

/-! Exact magnitudes. -/

/-- An exact non-negative real: a dyadic, a quotient, a square root, its reciprocal, or an irrational given to p bits
below the point (R324). -/
inductive Mag where
  | dy (m : Nat) (e : Int)
  | quot (n d : Nat) (e : Int)
  | sqrt (m : Nat) (e : Int)
  | rsqrt (m : Nat) (e : Int)
  | approx (f p : Nat)
deriving DecidableEq, Repr

/-- m × 2^e, rounded down, and whether that was exact. -/
def shiftFloor (m : Nat) (e : Int) : Nat × Bool :=
  match e with
  | .ofNat k => (m * 2 ^ k, true)
  | .negSucc k => (m / 2 ^ (k + 1), m % 2 ^ (k + 1) == 0)

/-- Digit i of the square root of n, from the top. -/
def isqrtGo (n : Nat) : Nat → Nat → Nat
  | 0, r => r
  | i + 1, r =>
    let r' := r + 2 ^ i
    isqrtGo n i (if r' * r' ≤ n then r' else r)

/-- The integer square root. -/
def isqrt (n : Nat) : Nat := isqrtGo n (Nat.log2 n / 2 + 1) 0

/-- ⌊x × 2^k⌋ and whether it is exact. -/
def Mag.scaled (x : Mag) (k : Int) : Nat × Bool :=
  match x with
  | .dy m e => shiftFloor m (e + k)
  | .quot n d e =>
    match e + k with
    | .ofNat j => (n * 2 ^ j / d, n * 2 ^ j % d == 0)
    | .negSucc j => (n / (d * 2 ^ (j + 1)), n % (d * 2 ^ (j + 1)) == 0)
  | .sqrt m e =>
    let a := shiftFloor m (e + 2 * k)
    let r := isqrt a.1
    (r, a.2 && r * r == a.1)
  | .rsqrt m e =>
    let a := shiftFloor 1 (2 * k - e)
    let b := a.1 / m
    let r := isqrt b
    (r, a.2 && a.1 % m == 0 && r * r == b)
  | .approx f p => ((shiftFloor f (k - p)).1, false)

/-- A first guess of ⌊log2 x⌋, at most one away. -/
def Mag.guess : Mag → Int
  | .dy m e => Nat.log2 m + e
  | .quot n d e => (Nat.log2 n : Int) - Nat.log2 d + e
  | .sqrt m e => (Nat.log2 m + e) / 2
  | .rsqrt m e => -((Nat.log2 m + e) / 2)
  | .approx f p => (Nat.log2 f : Int) - p

/-- ⌊log2 x⌋ for x > 0: x ≥ 2^j exactly when ⌊x × 2^−j⌋ ≥ 1. -/
def Mag.log2 (x : Mag) : Int :=
  let g := x.guess
  if (x.scaled (-(g + 1))).1 ≥ 1 then g + 1
  else if (x.scaled (-g)).1 ≥ 1 then g
  else g - 1

/-- An exact result: NaN, an infinity, a zero with its sign, or a nonzero real. -/
inductive Exact where
  | nan
  | inf (neg : Bool)
  | zero (neg : Bool)
  | num (neg : Bool) (x : Mag)
deriving DecidableEq, Repr

/-- The code of a decoded value as an exact result. -/
def FVal.exact : FVal → Exact
  | .nan => .nan
  | .inf n => .inf n
  | .fin n 0 _ => .zero n
  | .fin n m e => .num n (.dy m e)

/-- The number of grid steps y for ⌊|x| ÷ 2^q⌋ = a with the next 32 fraction bits t (R196, R201). -/
def roundUnits (mode : Rnd) (neg : Bool) (a t : Nat) (exact : Bool) (r : BitVec 32) : Nat :=
  let inexact := t != 0 || !exact
  match mode with
  | .rn => if t > 2 ^ 31 || (t == 2 ^ 31 && (!exact || a % 2 == 1)) then a + 1 else a
  | .rz => a
  | .ru => if inexact && !neg then a + 1 else a
  | .rd => if inexact && neg then a + 1 else a
  | .rs => if r.toNat ≥ t then a else a + 1

/-- `Round` of R197 on a nonzero real, under a mode other than .rs, or with the outcome of .rs given by r. -/
def roundMag (f : FF) (mode : Rnd) (sat neg : Bool) (x : Mag) (r : BitVec 32) : Nat :=
  let sgn := if neg then f.signBit else 0
  let qmax := f.qmin + (f.maxCode / 2 ^ f.mant : Nat) - 1
  let q := min (max (x.log2 - f.mant) f.qmin) qmax
  let s := x.scaled (32 - q)
  let a := s.1 / 2 ^ 32
  let t := s.1 % 2 ^ 32
  let maxUnits := (2 ^ f.mant + f.maxCode % 2 ^ f.mant) * 2 ^ (qmax - q).toNat
  let y0 := roundUnits mode neg a t s.2 r
  let mode' := if mode == .rs && y0 > maxUnits then .rn else mode
  let y := roundUnits mode' neg a t s.2 r
  if y > maxUnits then
    if mode' == .rz || (mode' == .rd && !neg) || (mode' == .ru && neg) || sat || f == .e2m1 then sgn + f.maxCode
    else if f.hasInf then sgn + f.infCode
    else f.nan
  else if y == 0 then (if f == .e4m3z then 0 else sgn)
  else sgn + (q - f.qmin).toNat * 2 ^ f.mant + y

/-- `Round(x, fmt, mode)` (R197). r is the random word of R200, used under .rs alone. -/
def roundTo (f : FF) (mode : Rnd) (sat : Bool) (x : Exact) (r : BitVec 32) : Nat :=
  match x with
  | .nan => f.nan
  | .inf neg =>
    let sgn := if neg then f.signBit else 0
    if f.hasInf && !sat then sgn + f.infCode
    else if f.hasNan && !sat then f.nan
    else sgn + f.maxCode
  | .zero neg => if neg && f != .e4m3z then f.signBit else 0
  | .num neg m => roundMag f mode sat neg m r

/-- One step of the stochastic generator (R200). -/
def srStep (x : BitVec 32) : BitVec 32 :=
  let x := x ^^^ (x <<< 13)
  let x := x ^^^ (x >>> 17)
  x ^^^ (x <<< 5)

/-- The generator steps once for an element rounded under .rs, and its new state is the random word (R200, R269). -/
def srNext (mode : Rnd) (seed : BitVec 32) : BitVec 32 := if mode == .rs then srStep seed else seed

/-! Exact arithmetic on decoded values. -/

/-- A signed dyadic as an exact result; zero takes the given sign. -/
def dyadic (n : Int) (e : Int) (zeroNeg : Bool) : Exact :=
  if n == 0 then .zero zeroNeg else .num (n < 0) (.dy n.natAbs e)

/-- The signed integer of a sign and a magnitude. -/
def sgnInt (neg : Bool) (m : Nat) : Int := if neg then -(m : Int) else m

/-- (−1)^n1 m1 2^e1 + (−1)^n2 m2 2^e2 as an integer times the lower power of two. -/
def addDyadic (a : Int) (ea : Int) (b : Int) (eb : Int) : Int × Int :=
  let e := min ea eb
  (a * 2 ^ (ea - e).toNat + b * 2 ^ (eb - e).toNat, e)

/-- Sign of an exact zero sum: the common sign of zero operands, else +0, or −0 under .rd (R197). -/
def zeroSumNeg (mode : Rnd) (n1 n2 : Bool) (bothZero : Bool) : Bool :=
  if bothZero && n1 == n2 then n1 else mode == .rd

/-- a + b (R262). -/
def exactAdd (mode : Rnd) : FVal → FVal → Exact
  | .nan, _ | _, .nan => .nan
  | .inf n, .inf n' => if n == n' then .inf n else .nan
  | .inf n, _ | _, .inf n => .inf n
  | .fin n m e, .fin n' m' e' =>
    let s := addDyadic (sgnInt n m) e (sgnInt n' m') e'
    dyadic s.1 s.2 (zeroSumNeg mode n n' (m == 0 && m' == 0))

/-- −a. -/
def FVal.neg : FVal → FVal
  | .nan => .nan
  | .inf n => .inf !n
  | .fin n m e => .fin (!n) m e

/-- a × b as a value whose magnitude is exact: NaN for 0 × ∞ (R262). -/
def mulVal : FVal → FVal → FVal
  | .nan, _ | _, .nan => .nan
  | .inf n, .inf n' => .inf (n != n')
  | .inf n, .fin n' m _ | .fin n' m _, .inf n => if m == 0 then .nan else .inf (n != n')
  | .fin n m e, .fin n' m' e' => .fin (n != n') (m * m') (e + e')

/-- a × b (R262). -/
def exactMul (a b : FVal) : Exact := (mulVal a b).exact

/-- ±(a × b) + c with one rounding to come (R263). -/
def exactFma (mode : Rnd) (neg : Bool) (a b c : FVal) : Exact :=
  let p := mulVal a b
  exactAdd mode (if neg then p.neg else p) c

/-- a ÷ b (R326). -/
def exactDiv : FVal → FVal → Exact
  | .nan, _ | _, .nan => .nan
  | .inf _, .inf _ => .nan
  | .inf n, .fin n' _ _ => .inf (n != n')
  | .fin n _ _, .inf n' => .zero (n != n')
  | .fin n m e, .fin n' m' e' =>
    if m' == 0 then (if m == 0 then .nan else .inf (n != n'))
    else if m == 0 then .zero (n != n')
    else .num (n != n') (.quot m m' (e - e'))

/-- √a (R326). -/
def exactSqrt : FVal → Exact
  | .nan => .nan
  | .inf n => if n then .nan else .inf false
  | .fin n m e => if m == 0 then .zero n else if n then .nan else .num false (.sqrt m e)

/-- 1 ÷ a (R267). -/
def exactRcp : FVal → Exact
  | .nan => .nan
  | .inf n => .zero n
  | .fin n m e => if m == 0 then .inf n else .num n (.quot 1 m (-e))

/-- 1 ÷ √a, with the special cases of R267. -/
def exactRsq : FVal → Exact
  | .nan => .nan
  | .inf n => if n then .nan else .zero false
  | .fin n m e => if m == 0 then .inf n else if n then .nan else .num false (.rsqrt m e)

/-! 2^a and log2 a (R324). The exact values are irrational but for integers and powers of two; `approx` gives them to 400
bits below the point, far closer than any of their arguments comes to a grid value (log 11). -/

/-- Bits below the point of the irrational results. -/
def apxBits : Nat := 400

/-- The product of the roots 2^(2^−i) over the set bits of the fraction, from bit k down; root is 2^(2^−i) now. -/
def exp2Go (frac : Nat) : Nat → Nat → Nat → Nat
  | 0, _, acc => acc
  | k + 1, root, acc =>
    let root' := isqrt (root * 2 ^ apxBits)
    exp2Go frac k root' (if bitAt frac k then acc * root' / 2 ^ apxBits else acc)

/-- 2^(n + frac ÷ 2^k) for an integer n. -/
def exp2Mag (n : Int) (frac k : Nat) : Mag :=
  if frac == 0 then .dy 1 n
  else
    let v := exp2Go frac k (2 ^ (apxBits + 1)) (2 ^ apxBits)
    match n with
    | .ofNat j => .approx (v * 2 ^ j) apxBits
    | .negSucc j => .approx v (apxBits + j + 1)

/-- 2^a. An exponent beyond every format is held at ±2^12, whose power lies beyond every format too. -/
def exactExp2 : FVal → Exact
  | .nan => .nan
  | .inf n => if n then .zero false else .inf false
  | .fin neg m e =>
    let i := sgnInt neg m
    match e with
    | .ofNat k => .num false (.dy 1 (max (-4096) (min 4096 (i * 2 ^ k))))
    | .negSucc k =>
      let n := max (-4096) (min 4096 (i / 2 ^ (k + 1)))
      .num false (exp2Mag n (i % 2 ^ (k + 1)).toNat (k + 1))

/-- Fraction bits of log2 y for y in [1, 2) held with apxBits bits below the point: square, compare with 2, halve. -/
def log2Go : Nat → Nat → Nat → Nat
  | 0, _, acc => acc
  | k + 1, y, acc =>
    let y2 := y * y / 2 ^ apxBits
    if y2 ≥ 2 ^ (apxBits + 1) then log2Go k (y2 / 2) (2 * acc + 1) else log2Go k y2 (2 * acc)

/-- Fraction bits computed of a logarithm. -/
def logBits : Nat := 200

/-- log2 a: exact for a power of two; otherwise n + f with 0 < f < 1, a sum whose sign is that of n (R324). -/
def exactLog2 : FVal → Exact
  | .nan => .nan
  | .inf n => if n then .nan else .inf false
  | .fin neg m e =>
    if m == 0 then .inf true
    else if neg then .nan
    else
      let k := Nat.log2 m
      let n := e + k
      if m == 2 ^ k then dyadic n 0 false
      else
        let y := (shiftFloor m ((apxBits : Int) - k)).1
        let f := log2Go logBits y 0
        let v : Int := n * 2 ^ logBits + f
        if v < 0 then .num true (.approx (v.natAbs - 1) logBits) else .num false (.approx v.natAbs logBits)

/-- The result of an FP32 estimate: truncated onto the FP32 grid with 10 fraction bits (R324). -/
def roundEst (x : Exact) : Nat :=
  match x with
  | .num neg m =>
    let q := max (m.log2 - 10) FF.f32.qmin
    let y := (m.scaled (-q)).1
    let top := (y * 2 ^ (q - FF.f32.qmin).toNat : Nat)
    if m.log2 ≥ 128 then (if neg then 0xFF800000 else 0x7F800000)
    else roundTo .f32 .rz false (if top == 0 then .zero neg else .num neg (.dy top FF.f32.qmin)) 0
  | x => roundTo .f32 .rz false x 0

/-! Comparison, minimum, maximum (R264, R265). -/

/-- a < b, a = b or a > b as −1, 0 or 1; none when either is NaN. −0 equals +0. -/
def fcmpVal : FVal → FVal → Option Int
  | .nan, _ | _, .nan => none
  | .inf n, .inf n' => some (if n == n' then 0 else if n then -1 else 1)
  | .inf n, _ => some (if n then -1 else 1)
  | _, .inf n => some (if n then 1 else -1)
  | .fin n m e, .fin n' m' e' =>
    let s := addDyadic (sgnInt n m) e (-(sgnInt n' m')) e'
    some (if s.1 < 0 then -1 else if s.1 == 0 then 0 else 1)

/-- The value of a condition on a comparison (R265). -/
def condHolds (c : FCond) (o : Option Int) : Bool :=
  match c, o with
  | .un, none | .ne, none => true
  | _, none => false
  | .un, some _ => false
  | .ord, some _ => true
  | .eq, some i => i == 0
  | .ne, some i => i != 0
  | .lt, some i => i < 0
  | .le, some i => i ≤ 0
  | .gt, some i => i > 0
  | .ge, some i => i ≥ 0

/-- The smaller (or larger) operand's code; −0 counts below +0; one NaN gives the other operand, two the canonical NaN
(R264). -/
def fminmax (f : FF) (isMax : Bool) (a b : Nat) : Nat :=
  let a := a % 2 ^ f.width
  let b := b % 2 ^ f.width
  match f.decode a, f.decode b with
  | .nan, .nan => f.nan
  | .nan, _ => b
  | _, .nan => a
  | va, vb =>
    match fcmpVal va vb with
    | some 0 => if (a / f.signBit == 1) != isMax then a else b
    | some i => if (i < 0) != isMax then a else b
    | none => f.nan

/-- The class mask of `fclass` (R268). -/
def fclassMask (f : FF) (c : Nat) : Nat :=
  let ab := c % f.signBit
  let sub := ab / 2 ^ f.mant == 0
  match f.decode c with
  | .nan => 2 ^ 8
  | .inf n => if n then 2 ^ 0 else 2 ^ 7
  | .fin n m _ =>
    if m == 0 then (if n then 2 ^ 3 else 2 ^ 4)
    else if sub then (if n then 2 ^ 2 else 2 ^ 5)
    else if n then 2 ^ 1 else 2 ^ 6

/-- The sign operations of `fsgn` and `vsgn`: the code of a with a new sign bit (R268, R325). -/
def setSign (f : FF) (a : Nat) (neg : Bool) : Nat := a % f.signBit + (if neg then f.signBit else 0)

/-- The sign bit of a code. -/
def FF.neg (f : FF) (c : Nat) : Bool := c / f.signBit % 2 == 1

/-! Conversions (R198). -/

/-- Width and signedness of an integer format. -/
def xfmtInt : XFmt → Option (Nat × Bool)
  | .i8 => some (8, true) | .n8 => some (8, false) | .i16 => some (16, true) | .n16 => some (16, false)
  | .i32 => some (32, true) | .n32 => some (32, false) | .i64 => some (64, true) | .n64 => some (64, false)
  | _ => none

/-- The floating-point format of a conversion code. -/
def xfmtFF : XFmt → FF
  | .f32 => .f32 | .f64 => .f64 | .f16 => .f16 | .bf16 => .bf16 | .e4m3 => .e4m3 | .e5m2 => .e5m2 | .e4m3z => .e4m3z
  | .e2m1 => .e2m1 | _ => .f32

/-- The value of the low w bits, signed or not. -/
def intVal (w : Nat) (sgn : Bool) (n : Nat) : Int :=
  let m := n % 2 ^ w
  if sgn && m ≥ 2 ^ (w - 1) then (m : Int) - 2 ^ w else m

/-- The smallest and largest value of an integer format (R189). -/
def intMin (w : Nat) (sgn : Bool) : Int := if sgn then -(2 ^ (w - 1)) else 0
def intMax (w : Nat) (sgn : Bool) : Int := if sgn then 2 ^ (w - 1) - 1 else 2 ^ w - 1

/-- Saturate to an integer format. -/
def satInt (w : Nat) (sgn : Bool) (i : Int) : Int := max (intMin w sgn) (min (intMax w sgn) i)

/-- The low w bits of an integer. -/
def wrapInt (w : Nat) (i : Int) : Nat := (i % 2 ^ w).toNat

/-- An exact result rounded to an integer under the mode, then saturated; NaN gives 0 (R198). -/
def roundInt (mode : Rnd) (w : Nat) (sgn : Bool) (x : Exact) (r : BitVec 32) : Int :=
  match x with
  | .nan => 0
  | .inf neg => if neg then intMin w sgn else intMax w sgn
  | .zero _ => 0
  | .num neg m =>
    let s := m.scaled 32
    satInt w sgn (sgnInt neg (roundUnits mode neg (s.1 / 2 ^ 32) (s.1 % 2 ^ 32) s.2 r))

/-- x × 2^k, exactly. -/
def Exact.scale (x : Exact) (k : Int) : Exact :=
  match x with
  | .num n (.dy m e) => .num n (.dy m (e + k))
  | x => x

/-- The exact value of a source of a conversion: integer or floating (R198). -/
def xfmtExact (s : XFmt) (c : Nat) : Exact :=
  match xfmtInt s with
  | some (w, sgn) => dyadic (intVal w sgn c) 0 false
  | none => ((xfmtFF s).decode c).exact

/-- Whether every value of one floating-point format is a value of another, so that the conversion is exact and no rounding
takes place (R198). -/
def exactCvt (src dst : FF) : Bool :=
  src == dst || (match dst with
    | .f64 => true
    | .f32 => src != .f64
    | .f16 => decide (src.width ≤ 8)
    | .bf16 => decide (src.width ≤ 8)
    | _ => false)

/-- Conversion of an integer: it is extended, or narrowed to the low bits or, saturating, to the target range (R198).
DESIGN CHOICE: between formats of one width and different signedness, `.sat` changes nothing and the bits are kept, since R198
speaks of `.sat` only where the target is narrower (log 100). -/
def convertInt (wd : Nat) (sd : Bool) (ws : Nat) (sat : Bool) (i : Int) : Nat :=
  wrapInt wd (if sat && decide (wd < ws) then satInt wd sd i else i)

/-- Conversion of one element (R198): the destination's code in its own width. -/
def convert (d s : XFmt) (mode : Rnd) (sat : Bool) (c : Nat) (r : BitVec 32) : Nat :=
  match xfmtInt d, xfmtInt s with
  | some (wd, sd), some (ws, ss) => convertInt wd sd ws sat (intVal ws ss c)
  | some (wd, sd), none => wrapInt wd (roundInt mode wd sd (xfmtExact s c) r)
  | none, some _ => roundTo (xfmtFF d) mode sat (xfmtExact s c) r
  | none, none => roundTo (xfmtFF d) mode (sat && !exactCvt (xfmtFF s) (xfmtFF d)) (xfmtExact s c) r

/-! The matrix engine and dot products (R202, R203, R336). -/

/-- A running exact sum of products: NaN seen, +∞ seen, −∞ seen, the finite part, and whether every term so far is −0, or
+0, for the sign of an exact zero. -/
structure Sum where
  nan : Bool
  pinf : Bool
  ninf : Bool
  n : Int
  e : Int
  allNegZero : Bool
  allPosZero : Bool
deriving DecidableEq, Repr

/-- The empty sum. -/
def Sum.empty : Sum := ⟨false, false, false, 0, 0, true, true⟩

/-- Add one term. -/
def Sum.add (s : Sum) : FVal → Sum
  | .nan => { s with nan := true }
  | .inf neg => if neg then { s with ninf := true } else { s with pinf := true }
  | .fin neg m e =>
    let a := addDyadic s.n s.e (sgnInt neg m) e
    { s with n := a.1, e := a.2, allNegZero := s.allNegZero && neg && m == 0,
             allPosZero := s.allPosZero && !neg && m == 0 }

/-- The exact result of a sum (R203): NaN, ∞ of one sign, or the finite sum. An exact zero is −0 when every term is −0, and
under .rd when the terms are opposite (R197). -/
def Sum.exact (s : Sum) (mode : Rnd) : Exact :=
  if s.nan || (s.pinf && s.ninf) then .nan
  else if s.pinf then .inf false
  else if s.ninf then .inf true
  else dyadic s.n s.e (s.allNegZero || (mode == .rd && !s.allPosZero))

/-- acc + S, rounded once to FP32 (R202, R203). -/
def accumulate (acc : Nat) (terms : List FVal) : Nat :=
  let s := (terms.foldl Sum.add Sum.empty).add (FF.f32.decode acc)
  roundTo .f32 .rn false (s.exact .rn) 0

end Sys2Proof.Machine
end

