-- ==== Sys2Proof/Machine/Mem.lean ====
section
/-! DEFINITION. The address spaces: windows (R14 to R21), page tables and TLBs (R24 to R38), the checks of an access (R279),
watermark stalls (R117), store buffers and wide-core L1s (R53 to R56), write-backs with their recheck (R42 to R47), atomics
(R289 to R293), releases and acquires (R91). -/

namespace Sys2Proof.Machine

/-- An agent as its accesses need it (R79). relHandler: inside a handler that RELEASE_PERM entered (R45). -/
structure Agent where
  id : CtxId
  part : Nat
  team : Option TeamId
  ptbase : Word
  relHandler : Bool
deriving DecidableEq, Repr

def Thread.agent (t : Thread) : Agent :=
  ⟨t.id, t.part, some t.team, t.ptbase, t.inTrap && t.tr.tcause == 0x0A⟩

def Gang.agent (g : Gang) : Agent := ⟨g.id, g.part, g.team, g.ptbase, false⟩

/-! ## Information words -/

/-- TINFO of a memory fault without its lane (R48). -/
def memInfo (level : Nat) (k : AccKind) (reason : Nat) : Word := w64 (level * 2 ^ 11 + k.code * 2 ^ 8 + reason)

/-- MACHINE (R78), without a lane. -/
def machineTrap (st : ErrStruct) (va : Word) : TrapInfo := ⟨0x13, va, w64 st.code⟩

/-- Reason codes of R49. -/
def rBadWindow : Nat := 1
def rInvalid : Nat := 2
def rMalformed : Nat := 3
def rTag : Nat := 4
def rNotGranted : Nat := 5
def rAttribute : Nat := 6
def rDenied : Nat := 7
def rRemapped : Nat := 8
def rHostOp : Nat := 9
def rWindowBits : Nat := 0x0A
def rNoTeam : Nat := 0x0B
def rOutsideAlloc : Nat := 0x0C
def rOutsidePinned : Nat := 0x0D

/-! ## Writes and what they set off -/

/-- Whether an error mark lies in one of the structures behind a space and covers the unit with this key. -/
def ErrMark.covers (e : ErrMark) (sp : Space) (a : Nat) : Bool :=
  e.reg.isNone && (match sp with
    | .mem => (e.st != .scratchpad && e.st != .regFile && e.st != .accTile) && e.key == a / 32
    | .scratch => e.st == .scratchpad && e.key == a / 8
    | .pinned => e.st == .clusterCache && e.key == 2 ^ 60 + a / 32)

/-- The error that an access to n bytes meets (R77). -/
def State.errAt (s : State) (sp : Space) (a n : Nat) : Option ErrMark :=
  s.errs.find? fun e => (List.range n).any fun i => e.covers sp (a + i)

/-- A monitor on a written sector fires: its register is filled with 1 and it is disarmed (R295). -/
def fireMonitors (sp : Space) (a n : Nat) (s : State) : State :=
  s.threads.foldl (fun s t =>
    t.monitors.foldl (fun s m =>
      if m.space = sp ∧ a / 32 ≤ m.sector ∧ m.sector ≤ (a + n - 1) / 32 then
        (s.updThread t.id fun u => { u with monitors := u.monitors.erase m }).fill t.id m.dst 1
      else s) s) s

/-- One page of one partition noted in its dirty log (R408). -/
def Partition.noteDirty (p : Partition) (pa : Nat) : Partition :=
  match p.exporting with
  | none => p
  | some x =>
    if !inRanges p.cfg.devRanges pa || x.pages.contains (pa / 65536) then p
    else if x.pages.length < x.cap then { p with exporting := some { x with pages := x.pages ++ [pa / 65536] } }
    else { p with exporting := some { x with overflow := true } }

/-- DIRTY_PAGE_RECORD (R408): the pages of a write are recorded once per round. -/
def noteDirty (pa n : Nat) (s : State) : State :=
  { s with parts := s.parts.map fun p =>
      (List.range ((pa + n - 1) / 65536 + 1 - pa / 65536)).foldl (fun p i => p.noteDirty (pa + 65536 * i)) p }

/-- Where a byte of a partition's scratchpad bytes on a tile lies: lower quarters first (R58). -/
def scratchKey (s : State) (part cl tile off : Nat) : Nat :=
  cl * 2 ^ 26 + tile * 2 ^ 20 + ((s.quarters part cl)[off / 2 ^ 18]?.getD (off / 2 ^ 18)) * 2 ^ 18 + off % 2 ^ 18

/-- The runs of physical scratchpad keys behind n bytes from an offset of a partition's bytes on a tile (R58): for each
quarter, the key, the first offset and the length. -/
def scratchRuns (s : State) (part cl tile base n : Nat) : List (Nat × Nat × Nat) :=
  (List.range 4).filterMap fun i =>
    let lo := max base (i * 2 ^ 18)
    let hi := min (base + n) ((i + 1) * 2 ^ 18)
    if lo < hi then some (scratchKey s part cl tile lo, lo - base, hi - lo) else none

/-- The window byte of an address (R14). -/
def window (va : Word) : Nat := bits va.toNat 63 56

/-- Whether a team occupies its tile; a SAVED one occupies a place outside the device (R384). -/
def Team.placed (t : Team) : Bool :=
  match t.state with
  | .ended => false
  | _ => true

/-- The team of a launch on a tile (R17). -/
def State.teamOn (s : State) (launch cl tile : Nat) : Option Team :=
  s.teams.find? fun t => t.id.launch == launch && t.cluster == cl && t.tile == tile && t.placed

/-- The tile that a scratchpad address names (R16). -/
def scratchTile (own : Nat) (va : Word) : Nat := if bitAt va.toNat 26 then own else bits va.toNat 25 20

/-- The team into whose allocation a scratchpad operand of a team's copy leads: on whatever tile, or outside the device, the team
and its peers stand (R17, R103); a peer that runs goes before one that is saved. -/
def State.copyTeam (s : State) (t : Team) (va : Word) : Option Team :=
  let r := scratchTile t.tile va
  if r = t.tile then some t
  else
    (s.teamOn t.id.launch t.home r).or
      (s.teams.find? fun x => x.id.launch == t.id.launch && x.state == .saved && x.home == t.home && x.tile == r)

/-- Where the destination bytes of a channel from offset lo on lie (R106): space, key, offset and length. -/
def Channel.span (s : State) (t : Team) (c : Channel) (lo : Nat) : List (Space × Nat × Nat × Nat) :=
  if c.vdst then []
  else if window c.base = 0xFE then
    match s.copyTeam t c.base with
    | none => []
    | some x =>
      (scratchRuns s x.part x.cluster x.tile (x.scrBase + bits c.base.toNat 19 0 + lo) (c.len - lo)).map fun r =>
        (.scratch, r.1, lo + r.2.1, r.2.2)
  else
    c.tdst.filterMap fun a =>
      let o := a.va.toNat - c.base.toNat
      let first := max lo o
      let last := min c.len (o + (65536 - a.va.toNat % 65536))
      if first < last then some (a.space, a.addr + (first - o), first, last - first) else none

/-- The parts of a span that lie in n bytes from a on, as offsets and lengths. -/
def spanHits (sp : Space) (a n : Nat) (span : List (Space × Nat × Nat × Nat)) : List (Nat × Nat) :=
  span.filterMap fun r =>
    if r.1 = sp ∧ a < r.2.1 + r.2.2.2 ∧ r.2.1 < a + n then
      some (r.2.2.1 + (max a r.2.1 - r.2.1), min (a + n) (r.2.1 + r.2.2.2) - max a r.2.1)
    else none

/-- A write that meets the destination of a copy in flight (R98). -/
def noteRaces (sp : Space) (a n : Nat) (s : State) : State :=
  let hits := s.teams.flatMap fun t => (List.range 16).flatMap fun i =>
    match t.chans[i]? with
    | none => []
    | some c =>
      if c.state = .active ∨ c.state = .saved then
        (spanHits sp a n (c.span s t 0)).map fun r => (⟨t.id, i, r.1, r.2⟩ : Race)
      else []
  { s with races := s.races ++ hits }

/-- Bytes left undefined: each takes a free value. -/
def freeBytes (sp : Space) (a n : Nat) (s : State) : State :=
  let bs := (List.range n).map fun i => Config.freeByte (s.fresh + i)
  match sp with
  | .mem => { s.bump n with mem := wrBytes s.mem a bs }
  | .scratch => { s.bump n with scratch := wrBytes s.scratch a bs }
  | .pinned => { s.bump n with pinned := wrBytes s.pinned a bs }

/-- The bytes of a channel's destination from offset lo to offset hi left undefined. -/
def freeSpan (t : Team) (c : Channel) (lo hi : Nat) (s : State) : State :=
  (c.span s t lo).foldl (fun s r => freeBytes r.1 r.2.1 (min r.2.2.2 (hi - r.2.2.1)) s) s

/-- A copy that is no longer in flight: the bytes that others wrote meanwhile are undefined (R98). -/
def endRaces (t : TeamId) (ch : Nat) (s : State) : State :=
  let mine := fun (r : Race) => r.team == t && r.ch == ch
  let s1 := match s.team? t, (s.team? t).bind fun x => x.chans[ch]? with
    | some tm, some c => (s.races.filter mine).foldl (fun s (r : Race) => freeSpan tm c r.lo (r.lo + r.len) s) s
    | _, _ => s
  { s1 with races := s1.races.filter fun r => !mine r }

/-- A write that reaches a signal for which a queue waits (R404). -/
def noteSignals (a n : Nat) (s : State) : State :=
  { s with sigs := s.sigs.map fun w =>
      if a < w.pa + 8 ∧ w.pa < a + n then { w with neg := w.neg || (tget 0 s.mem (w.pa + 7)).msb } else w }

/-- A whole sector, or a whole scratchpad word, that is written ends its error (R77). -/
def endErrs (sp : Space) (a n : Nat) (s : State) : State :=
  let u := match sp with | .scratch => 8 | _ => 32
  { s with errs := s.errs.filter fun e =>
      !((List.range n).any fun i => (a + i) % u == 0 && i + u ≤ n && e.covers sp (a + i)) }

/-- The bytes under a store as instruction fetch still sees them until the partition's next launch (R57). -/
def State.keepCode (s : State) (a n : Nat) : List (Nat × Byte) :=
  s.codeOld ++ ((List.range n).map fun i => (a + i, tget 0 s.mem (a + i))).filter fun x => !s.codeOld.any fun y => y.1 == x.1

/-- What instruction fetch reads at a physical address (R57). -/
def State.codeBytes (s : State) (a n : Nat) : List Byte :=
  if s.codeOld.isEmpty then rdBytes s.mem a n
  else (rdBytes s.mem a n).mapIdx fun i b => (s.codeOld.find? fun x => x.1 == a + i).elim b (·.2)

/-- A write from outside the device's contexts, which a fetch that misses the instruction caches sees. -/
def State.freshCode (s : State) (a n : Nat) : State := { s with codeOld := s.codeOld.filter fun x => !(a ≤ x.1 && x.1 < a + n) }

/-- A write that is performed (R84): the bytes, the monitors on them (R295), the copies (R98), signals (R404) and dirty log
(R408) that they meet, the errors that they end (R77). -/
def writeSpace (sp : Space) (a : Nat) (bs : List Byte) (s : State) : State :=
  if bs.isEmpty then s else
  fireMonitors sp a bs.length (endErrs sp a bs.length (noteRaces sp a bs.length
    (match sp with
      | .mem => noteDirty a bs.length (noteSignals a bs.length { s with mem := wrBytes s.mem a bs, codeOld := s.keepCode a bs.length })
      | .scratch => { s with scratch := wrBytes s.scratch a bs }
      | .pinned => { s with pinned := wrBytes s.pinned a bs })))

/-- A write to memory by another agent than the device's contexts. -/
def writeOutside (a : Nat) (bs : List Byte) (s : State) : State := (writeSpace .mem a bs s).freshCode a bs.length

/-- The bytes that a space holds (R84). -/
def readSpace (s : State) (sp : Space) (a n : Nat) : List Byte :=
  match sp with
  | .mem => rdBytes s.mem a n
  | .scratch => rdBytes s.scratch a n
  | .pinned => rdBytes s.pinned a n

/-! ## Page tables -/

/-- A refused translation: cause, reason, level (R27, R48). A cause of 0x13 is a page-table entry with an uncorrectable
error (R77). -/
structure WalkErr where
  cause : Nat
  reason : Nat
  level : Nat
deriving DecidableEq, Repr

/-- The first physical address of host memory (R22). -/
def hostBase : Nat := 0x8_0000_0000_0000

/-- What one level of a walk gives: the next table or a leaf. -/
inductive PteStep where
  | table (t : Nat)
  | leaf (l : Leaf)
deriving DecidableEq, Repr

/-- The index bits of a level (R25). -/
def pteIndex (va : Nat) : Nat → Nat
  | 1 => bits va 55 42
  | 2 => bits va 41 29
  | _ => bits va 28 16

/-- Whether a leaf gives the permission for an access kind (R28). -/
def permOk (r w x : Bool) : AccKind → Bool
  | .load => r
  | .store => w
  | .fetch => x
  | .atomic => r && w
  | .writeBack => w

/-- Whether H and C of a leaf fit its frame (R31). -/
def attrOk (p : Partition) (pa : Nat) (h c : Bool) : Bool :=
  if hostBase ≤ pa then h && !c else h == inRanges p.cfg.hostVisible pa

/-- One level of the walk (R27), with LeafCheck. -/
def pteStep (s : State) (p : Partition) (va : Nat) (k : AccKind) (t level : Nat) : Except WalkErr PteStep :=
  let a := t + 8 * pteIndex va level
  if !inRanges p.cfg.devRanges a then .error ⟨0x06, rNotGranted, level⟩
  else if (s.errAt .mem a 8).isSome then .error ⟨0x13, 0, level⟩
  else
    let e := leNat (rdBytes s.mem a 8)
    if !bitAt e 0 then .error ⟨0x06, rInvalid, level⟩
    else if bits e 57 52 ≠ 0 || bits e 11 10 ≠ 0 || bitAt e 1 then .error ⟨0x06, rMalformed, level⟩
    else if bits e 63 58 ≠ p.cfg.num then .error ⟨0x06, rTag, level⟩
    else if bitAt e 2 then
      if level = 1 || (level = 2 && bits e 28 16 ≠ 0) || (bitAt e 4 && !bitAt e 3) then
        .error ⟨0x06, rMalformed, level⟩
      else
        let pa := if level = 2 then bits e 51 29 * 2 ^ 29 + va % 2 ^ 29 else bits e 51 16 * 2 ^ 16 + va % 2 ^ 16
        if !(inRanges p.cfg.devRanges pa || inRanges p.cfg.hostRanges pa) then .error ⟨0x06, rNotGranted, level⟩
        else if !attrOk p pa (bitAt e 8) (bitAt e 9) then .error ⟨0x06, rAttribute, level⟩
        else if !permOk (bitAt e 3) (bitAt e 4) (bitAt e 5) k then .error ⟨0x07, rDenied, level⟩
        else .ok (.leaf ⟨e, a, level, pa⟩)
    else if level = 3 || bits e 9 3 ≠ 0 then .error ⟨0x06, rMalformed, level⟩
    else .ok (.table (bits e 51 16 * 2 ^ 16))

/-- The walk of at most n levels from a table on (R27). -/
def walkFrom (s : State) (p : Partition) (va : Nat) (k : AccKind) (t level : Nat) : Nat → Except WalkErr Leaf
  | 0 => .error ⟨0x06, rMalformed, level⟩
  | n + 1 =>
    match pteStep s p va k t level with
    | .error e => .error e
    | .ok (.leaf l) => .ok l
    | .ok (.table t') => walkFrom s p va k t' (level + 1) n

/-- The three-level walk (R25, R27) under a PTBASE (R24). -/
def walk (s : State) (p : Partition) (ptbase va : Word) (k : AccKind) : Except WalkErr Leaf :=
  walkFrom s p va.toNat k (bits ptbase.toNat 51 17 * 2 ^ 17) 1 3

/-- SET_ACCESSED_DIRTY (R29): the entry with A, and D for a write, stored when it changes. -/
def setAccessed (l : Leaf) (k : AccKind) (s : State) : State × Nat :=
  let e1 := if bitAt l.pte 6 then l.pte else l.pte + 2 ^ 6
  let e2 := if bitAt e1 7 || !k.writes then e1 else e1 + 2 ^ 7
  if e2 = l.pte then (s, e2) else (writeSpace .mem l.at_ (toBytes 8 e2) s, e2)

/-- The virtual page of an address. -/
def vpageOf (big : Bool) (va : Nat) : Nat := if big then bits va 55 29 else bits va 55 16

/-- The physical address that a TLB entry gives. -/
def TlbEntry.pa (e : TlbEntry) (va : Nat) : Nat := e.frame + (if e.big then va % 2 ^ 29 else va % 2 ^ 16)

/-- The level of the leaf behind an entry (R48). -/
def TlbEntry.level (e : TlbEntry) : Nat := if e.big then 2 else 3

/-- Entries leave the cluster TLBs, and with them the micro-TLBs of their clusters (R33). -/
def State.dropTlb (s : State) (f : TlbEntry → Bool) : State :=
  { s with tlb := s.tlb.filter fun e => !f e, utlb := s.utlb.filter fun m => !f m.entry }

/-- Installs a translation in the cluster TLB, of 2,048 entries per quarter; the entry replaced is not visible to programs
(R34, log 9). -/
def installTlb (e : TlbEntry) (s : State) : State :=
  let mine := s.tlb.filter fun x => x.part == e.part && x.cluster == e.cluster
  let s1 :=
    if mine.length < 2048 * (s.quarters e.part e.cluster).length then s
    else match mine[Config.freePick s.fresh % mine.length]? with
      | none => s
      | some v => (s.bump 1).dropTlb fun x => x == v
  let s2 := s1.dropTlb fun x =>
    x.part == e.part && x.cluster == e.cluster && x.asid == e.asid && x.big == e.big && x.vpage == e.vpage
  { s2 with tlb := e :: s2.tlb }

/-- An entry of the cluster TLB put into the micro-TLB of a context's tile, among the 16 entries of its quarter; the entry replaced
is not visible to programs (R33, log 9). -/
def State.putMicro (s : State) (c : CtxId) (e : TlbEntry) : State :=
  let mine := fun (m : MicroEntry) => m.entry.cluster == c.cluster && m.tile == c.tile && m.quarter == c.quarter
  { s with utlb := ⟨c.tile, c.quarter, e⟩ :: (s.utlb.filter mine).take 15 ++ s.utlb.filter fun m => !mine m }

/-- Whether a TLB entry serves an access: its page, its permission, and D for a write (R29, R37). -/
def TlbEntry.serves (e : TlbEntry) (part cl asid va : Nat) (k : AccKind) : Bool :=
  e.part == part && e.cluster == cl && e.asid == asid && e.vpage == vpageOf e.big va && permOk e.r e.w e.x k &&
    (e.d || !k.writes)

/-- The entry that a leaf gives. -/
def Leaf.entry (l : Leaf) (pte part cl asid va : Nat) : TlbEntry :=
  { part := part, cluster := cl, asid := asid, vpage := vpageOf (l.level == 2) va, big := l.level == 2,
    frame := if l.level = 2 then l.pa - va % 2 ^ 29 else l.pa - va % 2 ^ 16,
    r := bitAt pte 3, w := bitAt pte 4, x := bitAt pte 5, h := bitAt pte 8, c := bitAt pte 9, d := bitAt pte 7 }

/-- Translates a global address in one step: a TLB entry that serves the access, or a walk whose leaf is installed (R27, R37). A
write-back's recheck, and the hardware of copies and queues, which no context waits for, translate so (log 88). -/
def translate (part cl : Nat) (ptbase va : Word) (k : AccKind) (s : State) : State × Except WalkErr TlbEntry :=
  let asid := bits ptbase.toNat 63 56
  match s.tlb.find? fun e => e.serves part cl asid va.toNat k with
  | some e => (s, .ok e)
  | none =>
    match s.part? part with
    | none => (s, .error ⟨0x06, rNotGranted, 1⟩)
    | some p =>
      match walk s p ptbase va k with
      | .error e => (s, .error e)
      | .ok l =>
        let (s1, pte) := setAccessed l k s
        let e := l.entry pte part cl asid va.toNat
        (installTlb e s1, .ok e)

/-- Whether an entry of a miss queue is that of a page, for a context's quarter under a translation context (R35). -/
def Miss.isFor (m : Miss) (c : CtxId) (part : Nat) (ptbase va : Word) : Bool :=
  m.part == part && m.cluster == c.cluster && m.quarter == c.quarter && m.ptbase == ptbase && m.vpage == vpageOf false va.toNat

/-- A miss joins the entry of its page that is queued or being walked, or makes one (R35). -/
def joinMiss (c : CtxId) (part : Nat) (ptbase va : Word) (k : AccKind) (s : State) : State :=
  let here := fun (m : Miss) => m.state != .failed && m.isFor c part ptbase va
  if s.missq.any here then
    { s with missq := s.missq.map fun m =>
        if here m && !m.waiters.contains c then { m with waiters := m.waiters ++ [c] } else m }
  else
    let m : Miss :=
      { part := part, cluster := c.cluster, quarter := c.quarter, ptbase := ptbase, vpage := vpageOf false va.toNat, ctx := c
        va := va, kind := k, waiters := [c], state := .queued }
    { s with missq := s.missq ++ [m] }

/-- A context no longer waits for the faults of walks that have ended: it has taken one, or found the page valid now. -/
def forgetMiss (c : CtxId) (s : State) : State :=
  let left := s.missq.map fun m => if m.state = .failed then { m with waiters := m.waiters.filter (· != c) } else m
  { s with missq := left.filter fun m => m.state != .failed || !m.waiters.isEmpty }

/-- What the translation of a context's access comes to (R35). -/
inductive TransRes where
  | ok (s : State) (e : TlbEntry)
  | fault (s : State) (e : WalkErr)
  | wait (s : State)

/-- Translates a context's global address (R27, R33 to R37): an entry of its tile's micro-TLB or of its cluster TLB that serves the
access, else the access waits for a walk. Once a walk for it has ended with a fault, the access finds the fault of its own
address and kind. -/
def translateFor (c : CtxId) (part : Nat) (ptbase va : Word) (k : AccKind) (s : State) : TransRes :=
  let asid := bits ptbase.toNat 63 56
  match s.utlb.find? fun m => m.tile == c.tile && m.quarter == c.quarter && m.entry.serves part c.cluster asid va.toNat k with
  | some m => .ok s m.entry
  | none =>
    match s.tlb.find? fun e => e.serves part c.cluster asid va.toNat k with
    | some e => .ok (s.putMicro c e) e
    | none =>
      if s.missq.any fun m => m.state == .failed && m.isFor c part ptbase va && m.waiters.contains c then
        match translate part c.cluster ptbase va k s with
        | (s1, .error e) => .fault s1 e
        | (s1, .ok e) => .ok (forgetMiss c s1) e
      else .wait (joinMiss c part ptbase va k s)

/-- The walk for a page reads its entries (R27): the leaf, or none when an entry refuses it. -/
def Miss.read (m : Miss) (s : State) : Option Leaf :=
  (s.part? m.part).bind fun p => match walk s p m.ptbase m.va m.kind with
    | .ok l => some l
    | .error _ => none

/-- Whether a walker takes a page now (R34, R35): the first queued page of its quarter, among the 256 that its miss queue holds,
once one of the partition's 16 walkers per quarter in the cluster is free. -/
def State.walkerFor (s : State) (m : Miss) : Bool :=
  let queue := (s.missq.filter fun x => x.state != .failed && x.cluster == m.cluster && x.quarter == m.quarter).take 256
  let walking := s.missq.filter fun x => x.part == m.part && x.cluster == m.cluster &&
    (match x.state with | .walking _ => true | _ => false)
  ((queue.find? fun x => x.state == .queued) == some m) && walking.length < 16 * (s.quarters m.part m.cluster).length

/-- The end of a walk (R27, R29, R35): A and D are set and the leaf is installed, and every requester of the page resumes; an
entry that software has changed since it was read makes the walk begin again; a fault is left to the requesters. -/
def endWalk (m : Miss) (leaf : Option Leaf) (s : State) : State :=
  let set := fun (st : MissState) => { s with missq := s.missq.map fun x => if x = m then { x with state := st } else x }
  match leaf with
  | none => if m.waiters.isEmpty then { s with missq := s.missq.erase m } else set .failed
  | some l =>
    if leNat (rdBytes s.mem l.at_ 8) ≠ l.pte then set (.walking (m.read s))
    else
      let (s1, pte) := setAccessed l m.kind { s with missq := s.missq.erase m }
      installTlb (l.entry pte m.part m.cluster (bits m.ptbase.toNat 63 56) m.va.toNat) s1

/-- A walk begins, when a walker is free, or ends. -/
def stepMiss (m : Miss) (s : State) : State :=
  match m.state with
  | .queued =>
    if s.walkerFor m then
      { s with missq := s.missq.map fun x => if x = m then { x with state := .walking (m.read s) } else x }
    else s
  | .walking l => endWalk m l s
  | .failed => s

/-- The stack that holds a device-memory byte (R70). -/
def stackOf (pa : Nat) : Nat := pa / 4096 % 12

/-- The streamer of that stack that serves it, and its channel (R70). -/
def streamerOf (pa : Nat) : Nat := pa / 4096 / 12 % 8

/-- Its byte offset within the stack (R70). -/
def stackOffset (pa : Nat) : Nat := pa / 4096 / 12 * 4096 + pa % 4096

/-- The trap of a refused translation (R27, R48; R77 for an entry in error). -/
def WalkErr.trap (e : WalkErr) (va : Word) (k : AccKind) : TrapInfo :=
  if e.cause = 0x13 then machineTrap .pte va else ⟨e.cause, va, memInfo e.level k e.reason⟩

/-! ## Windows -/

/-- The pinned ways per quarter of a partition in a cluster (R288). -/
def Partition.pinned (p : Partition) (cl : Nat) : Nat :=
  match p.pins.find? fun x => x.1 == cl with
  | some x => x.2
  | none => 0

/-- The size of the pinned region (R73). -/
def State.pinnedSize (s : State) (part cl : Nat) : Nat :=
  match s.part? part with
  | none => 0
  | some p => p.pinned cl * (p.quarters cl).length * 2 ^ 21

/-- The way that an ordinal of the pinned region names, in ascending way number (R73, R288). -/
def pinnedWay (p : Partition) (cl i : Nat) : Nat :=
  let n := p.pinned cl
  4 * ((p.quarters cl)[i / n]?.getD 0) + 4 - n + i % n

/-- Where a byte of the pinned region lies (R73). -/
def pinnedKey (s : State) (part cl off : Nat) : Nat :=
  match s.part? part with
  | none => 0
  | some p => cl * 2 ^ 25 + pinnedWay p cl (off / 2 ^ 21) * 2 ^ 21 + off % 2 ^ 21

/-- Whether a scratchpad address has non-zero bits that must be zero (R18). -/
def scratchBitsBad (va : Word) : Bool := bits va.toNat 55 27 ≠ 0 || (bitAt va.toNat 26 && bits va.toNat 25 20 ≠ 0)

/-- A scratchpad address of the own tile in the form that does not name it, so that two names of one byte compare equal (R16,
R117), on whatever tile the team stands (R384). -/
def canonVa (own : Nat) (va : Word) : Nat :=
  if window va = 0xFE && scratchTile own va = own then 0xFE * 2 ^ 56 + 2 ^ 26 + bits va.toNat 19 0 else va.toNat

/-- An access after its checks: what it reaches, a trap, its stalls at channels, or a wait for its translation (R35, R279). -/
inductive Chk where
  | ok (s : State) (a : Acc) (level : Nat)
  | trap (s : State) (t : TrapInfo)
  | stall (s : State) (xs : List StallAt)
  | wait (s : State)
deriving DecidableEq, Repr

/-- The channels of the team whose watermarks the access has not passed, each with its stalled bytes (R117). -/
def stallsOf (s : State) (ag : Agent) (va : Word) (size : Nat) : List StallAt :=
  match ag.team.bind s.team? with
  | none => []
  | some t =>
    let a := canonVa ag.id.tile va
    (List.range 16).filterMap fun n =>
      match t.chans[n]? with
      | none => none
      | some ch =>
        let b := canonVa ag.id.tile ch.base
        if ch.state = .active ∧ ¬ ch.vdst ∧ a < b + ch.len ∧ b + ch.wm < a + size then
          some ⟨n, 0, w64 (va.toNat + (max a (b + ch.wm) - a)), min (a + size) (b + ch.len), false, none⟩
        else none

/-- Checks 1 and 2 of R279, that are made before any other (R14, R17 to R19). -/
def windowTrap (s : State) (ag : Agent) (va : Word) (k : AccKind) : Option TrapInfo :=
  if window va = 0 then none
  else if window va = 0xFE then
    match ag.team with
    | none => some ⟨0x08, va, memInfo 0 k rNoTeam⟩
    | some i =>
      if scratchBitsBad va then some ⟨0x08, va, memInfo 0 k rWindowBits⟩
      else if (s.teamOn i.launch ag.id.cluster (scratchTile ag.id.tile va)).isNone then
        some ⟨0x08, va, memInfo 0 k rNoTeam⟩
      else none
  else if window va = 0xFD then
    if bits va.toNat 55 25 ≠ 0 then some ⟨0x08, va, memInfo 0 k rWindowBits⟩ else none
  else some ⟨0x06, va, memInfo 0 k rBadWindow⟩

/-- The team into whose allocation a scratchpad address leads (R16, R17). -/
def scratchTeam (s : State) (ag : Agent) (va : Word) : Option Team :=
  ag.team.bind fun i => s.teamOn i.launch ag.id.cluster (scratchTile ag.id.tile va)

/-- Check 4 of R279: bounds in the scratchpad and pinned windows. -/
def boundsTrap (s : State) (ag : Agent) (va : Word) (size : Nat) (k : AccKind) : Option TrapInfo :=
  if window va = 0xFE then
    match scratchTeam s ag va with
    | none => some ⟨0x08, va, memInfo 0 k rNoTeam⟩
    | some t =>
      if t.scrSize < bits va.toNat 19 0 + size then some ⟨0x08, va, memInfo 0 k rOutsideAlloc⟩ else none
  else if window va = 0xFD && s.pinnedSize ag.part ag.id.cluster < bits va.toNat 24 0 + size then
    some ⟨0x08, va, memInfo 0 k rOutsidePinned⟩
  else none

/-- Checks 4 and 5 of R279, for an address that passed checks 1 and 2: bounds in the scratchpad and pinned windows, or
translation. -/
def place (ag : Agent) (va : Word) (size : Nat) (k : AccKind) (s : State) : Chk :=
  let cl := ag.id.cluster
  match boundsTrap s ag va size k with
  | some t => .trap s t
  | none =>
  if window va = 0xFE then
    match scratchTeam s ag va with
    | none => .trap s ⟨0x08, va, memInfo 0 k rNoTeam⟩
    | some t => .ok s ⟨.scratch, scratchKey s t.part cl t.tile (t.scrBase + bits va.toNat 19 0), va, false, false⟩ 0
  else if window va = 0xFD then
    .ok s ⟨.pinned, pinnedKey s ag.part cl (bits va.toNat 24 0), va, false, false⟩ 0
  else
    match translateFor ag.id ag.part ag.ptbase va k s with
    | .fault s1 e => .trap s1 (e.trap va k)
    | .wait s1 => .wait s1
    | .ok s1 e => .ok s1 ⟨.mem, e.pa va.toNat, va, e.c, decide (hostBase ≤ e.pa va.toNat)⟩ e.level

/-- A global address translated in one step with its walk, where nothing can wait for one (R113, R119; log 88). -/
def walkNow (ag : Agent) (va : Word) (k : AccKind) (s : State) : State × Except TrapInfo Acc :=
  match windowTrap s ag va k with
  | some t => (s, .error t)
  | none =>
    match translate ag.part ag.id.cluster ag.ptbase va k s with
    | (s1, .error e) => (s1, .error (e.trap va k))
    | (s1, .ok e) => (s1, .ok ⟨.mem, e.pa va.toNat, va, e.c, decide (hostBase ≤ e.pa va.toNat)⟩)

/-- Whether an access lies in the agent's own tile's scratchpad (R54, R80). -/
def Acc.own (a : Acc) (c : CtxId) : Bool := a.space == .scratch && a.addr / 2 ^ 20 == c.cluster * 64 + c.tile

/-! ## Requests to the directories -/

/-- The region of a 32-byte line (R67). -/
def regionOf (line : Nat) : Nat := line / 128

/-- The directory entry of a line; U when it is not listed (R62). -/
def State.homeLine (s : State) (cl line : Nat) : HomeLine :=
  (s.home.find? fun h => h.cluster == cl && h.line == line).getD ⟨cl, line, none, [], none, none, []⟩

/-- Whether a cluster cache holds a 32-byte sector (R59). -/
def State.inCc (s : State) (cl line : Nat) : Bool :=
  s.ccache.any fun l => l.cluster == cl && l.block == line / 8 && bitAt l.valid.toNat (line % 8)

/-- Whether a cluster holds a line's region in M (R67); while a recall is under way, until the cluster has acknowledged it. -/
def State.ownsRegion (s : State) (cl line : Nat) : Bool :=
  s.region.any fun e => e.region == regionOf line && e.st == some .m && e.agents == [cl] && (e.trans.isNone || e.awaiting.contains cl)

/-- What an access needs of the directories: a sector in the cluster cache whose current data is there (R55); one that the cluster
may write and of which no L1 has a copy (R56, R71); a region recalled from every holder (R71, R106). -/
inductive Need where
  | read (line : Nat)
  | write (line : Nat)
  | alone (line : Nat)
deriving DecidableEq, Repr

/-- Whether a need is met for a cluster. -/
def State.meets (s : State) (cl : Nat) (n : Need) : Bool :=
  match n with
  | .read l => s.inCc cl l && (s.homeLine cl l).trans.isNone && (s.homeLine cl l).st != some .o
  | .write l => s.inCc cl l && s.ownsRegion cl l && (s.homeLine cl l).trans.isNone && (s.homeLine cl l).st.isNone
  | .alone l => !s.region.any fun e => e.region == regionOf l && (e.st.isSome || e.trans.isSome)

/-- Whether a core already waits for a home's answer about a line. -/
def State.asked (s : State) (c : CoreId) (line : Nat) : Bool :=
  (s.coh.any fun m => m.core == c && m.line == line && (match m.kind with
    | .gets | .getm | .upg | .read | .write | .recall | .dataS | .dataE | .dataM | .dataN | .ackUpg => true
    | _ => false)) ||
  s.home.any fun h => h.cluster == c.cluster && h.line == line &&
    ((h.trans.elim false fun t => t.ask.core == c) || h.queue.any fun q => q.core == c)

/-- A request that a core sends to a home, one at a time per line (R61, R63). -/
def sendReq (k : CohKind) (c : CoreId) (quarter line : Nat) (s : State) : State :=
  if s.asked c line then s else { s with coh := s.coh ++ [⟨k, c, line, quarter, false⟩] }

/-- Whether a recall of a region from every holder is asked for, or under way. -/
def State.taking (s : State) (r : Nat) : Bool :=
  (s.reg.any fun m => m.kind == .take && m.region == r) ||
    s.region.any fun e => e.region == r && ((e.trans.elim false fun q => q.act == .take) || e.queue.any fun q => q.act == .take)

/-- The request that an unmet need sends. -/
def Need.ask (c : CoreId) (quarter : Nat) (n : Need) (s : State) : State :=
  if s.meets c.cluster n then s
  else
    match n with
    | .read l => sendReq .read c quarter l s
    | .write l => sendReq .write c quarter l s
    | .alone l => if s.taking (regionOf l) then s else { s with reg := s.reg ++ [⟨.take, 13, regionOf l, 0, []⟩] }

/-- None when needs are met; else the state with their requests sent, in which the access waits. -/
def State.await (s : State) (c : CoreId) (quarter : Nat) (ns : List Need) : Option State :=
  if ns.all (s.meets c.cluster) then none else some (ns.foldl (fun s n => n.ask c quarter s) s)

/-- The state of a line in a scalar L1; none is I (R61). -/
def State.l1State (s : State) (c : CoreId) (line : Nat) : Option L1State :=
  (s.l1.find? fun l => l.core == c && l.line == line).map (·.st)

/-- A line of an L1 takes a state; none is I. -/
def State.setL1 (s : State) (c : CoreId) (line : Nat) (st : Option L1State) : State :=
  { s with l1 := s.l1.filterMap fun l =>
      if l.core == c && l.line == line then st.map fun x => { l with st := x } else some l }

/-- A region-directory message on its way. -/
def State.postReg (s : State) (k : RegKind) (a r : Nat) : State := { s with reg := s.reg ++ [⟨k, a, r, 0, []⟩] }

/-- Whether a cluster has a request to the region directory about a region under way. -/
def State.regBusy (s : State) (cl r : Nat) : Bool :=
  (s.reg.any fun m => m.agent == cl && m.region == r && (m.kind == .rds || m.kind == .rdm || m.kind == .data)) ||
    s.region.any fun e => e.region == r && ((e.trans.elim false fun q => q.agent == cl) || e.queue.any fun q => q.agent == cl)

/-- A cluster that holds no line left in a region tells the directory (R60, R67). -/
def State.tellEmpty (s : State) (cl r : Nat) : State :=
  if (s.ccache.any fun l => l.cluster == cl && l.block / 16 == r) || s.regBusy cl r then s else s.postReg .evr cl r

/-- A line leaves a cluster cache: its dirty sectors are written to Quire (R60). -/
def State.ccEvict (s : State) (l : CcLine) : State :=
  let s1 := { s with ccache := s.ccache.erase l }
  (if l.dirty = 0 then s1 else s1.postReg .wb l.cluster (l.block / 16)).tellEmpty l.cluster (l.block / 16)

/-- Whether no L1 has a copy of a line of a cluster cache, and none is under way (R62). -/
def State.ccIdle (s : State) (l : CcLine) : Bool :=
  (List.range 8).all fun k => (s.homeLine l.cluster (l.block * 8 + k)).st.isNone &&
    (s.homeLine l.cluster (l.block * 8 + k)).trans.isNone

/-- Lines of a cluster cache written back and removed, once their L1 copies have been recalled (R60, R73, R287); whether all are
gone. -/
def State.ccClear (s : State) (cl : Nat) (pick : CcLine → Bool) : State × Bool :=
  let ls := s.ccache.filter fun l => l.cluster == cl && pick l
  (ls.foldl (fun s l =>
    if s.ccIdle l then s.ccEvict l
    else (List.range 8).foldl (fun s k =>
      if (s.homeLine cl (l.block * 8 + k)).st.isNone then s else sendReq .recall ⟨cl, 0, 5⟩ 0 (l.block * 8 + k) s) s) s,
    ls.all s.ccIdle)

/-- Sectors of a cluster cache written in it (R59); the line was used (R60). -/
def State.ccDirty (s : State) (cl line : Nat) : State :=
  { s with ccache := s.ccache.map fun l =>
      if l.cluster = cl ∧ l.block = line / 8 then { l with dirty := l.dirty ||| BitVec.ofNat 8 (2 ^ (line % 8)), used := s.cc } else l }

/-! ## The wide-core L1 -/

/-- Whether a line is in the L1 of a gang context's core, for a partition: the gangs of all its quarters find it (R56, R82). -/
def WLine.onCore (l : WLine) (c : CtxId) (part : Nat) : Bool := l.cluster == c.cluster && l.tile == c.tile && l.part == part

/-- Whether a line lies in a way of a gang context's quarter (R55). -/
def WLine.ofCtx (l : WLine) (c : CtxId) (part : Nat) : Bool := l.onCore c part && l.quarter == c.quarter

/-- Whether two stand for one line of one core. -/
def WLine.same (l x : WLine) : Bool := l.cluster == x.cluster && l.tile == x.tile && l.part == x.part && l.pa == x.pa

def State.wline? (s : State) (c : CtxId) (part pa : Nat) : Option WLine :=
  s.wl1.find? fun l => l.onCore c part && l.pa == pa / 256 * 256

/-- One line changed; a line left with no valid byte is freed (R56). -/
def State.modWline (s : State) (l : WLine) (f : WLine → WLine) : State :=
  { s with wl1 := (s.wl1.map fun x => if x.same l then f x else x).filter fun x => x.valid != 0 }

/-- The dirty bytes of a line. -/
def WLine.dirty (l : WLine) : BitVec 256 := l.groups.foldl (fun m g => m ||| g.mask) 0

/-- The dirty bytes that a gang wrote. -/
def WLine.mine (l : WLine) (c : CtxId) : BitVec 256 :=
  (l.writer.filter fun w => w.2 == c).foldl (fun m w => m ||| BitVec.ofNat 256 (2 ^ w.1)) (0 : BitVec 256) &&& l.dirty

/-- Bytes of groups taken out of them; a group without bytes goes. -/
def dropBytes (m : BitVec 256) (gs : List WGroup) : List WGroup :=
  (gs.map fun g => { g with mask := g.mask &&& ~~~ m }).filter fun g => g.mask != 0

/-- Bytes that are no longer dirty. -/
def WLine.undirty (m : BitVec 256) (l : WLine) : WLine :=
  { l with groups := dropBytes m l.groups, writer := l.writer.filter fun w => !bitAt m.toNat w.1 }

/-- Dirty bytes that are lost. -/
def WLine.discard (m : BitVec 256) (l : WLine) : WLine := { l.undirty m with valid := l.valid &&& ~~~ m }

/-- The bytes of a group in that group, and in no other. -/
def WLine.regroup (g : WGroup) (l : WLine) : WLine := { l with groups := dropBytes g.mask l.groups ++ [g] }

/-- Whether a line holds refused data (R46, R47). -/
def WLine.kept (l : WLine) : Bool := l.groups.any fun g => g.held.isSome || !g.heldFor.isEmpty

/-- Bytes of a line written to memory (R56). -/
def wlWrite (l : WLine) (m : BitVec 256) (s : State) : State :=
  (List.range 256).foldl (fun s i => if bitAt m.toNat i then writeSpace .mem (l.pa + i) [tget 0 l.data i] s else s) s

/-- The bytes of one sector of a line. -/
def sectorMask (k : Nat) : BitVec 256 := BitVec.ofNat 256 ((2 ^ 32 - 1) * 2 ^ (32 * k))

/-- The error that the write-back of a sector meets (R77): any, unless it replaces the whole sector; in the cached data itself, in
either case. -/
def wlErr (l : WLine) (m : BitVec 256) (k : Nat) (s : State) : Option ErrMark :=
  if m &&& sectorMask k = 0 then none
  else s.errs.find? fun e => e.covers .mem (l.pa + 32 * k) && (m &&& sectorMask k != sectorMask k || e.st == .wideL1)

/-- The whole sectors that a write-back replaces end their errors (R77). -/
def wlEnds (l : WLine) (m : BitVec 256) (s : State) : State :=
  (List.range 8).foldl (fun s k => if m &&& sectorMask k = sectorMask k then endErrs .mem (l.pa + 32 * k) 32 s else s) s

/-- WRITEBACK_RECHECK (R42): the page of a write-back is translated again; the information word of a refusal, or none. -/
def recheck (part cl : Nat) (ptbase va : Word) (pa : Nat) (s : State) : State × Option TrapInfo :=
  match translate part cl ptbase va .writeBack s with
  | (s1, .error e) =>
    (s1, some (if e.cause = 0x13 then machineTrap .pte va else ⟨0x0A, va, memInfo e.level .writeBack e.reason⟩))
  | (s1, .ok e) =>
    if e.pa va.toNat = pa then (s1, none) else (s1, some ⟨0x0A, va, memInfo e.level .writeBack rRemapped⟩)

/-- What the write-back of bytes of a line needs: each sector writable in the cluster cache, without a copy in a scalar L1 (R56,
R67). -/
def WLine.needs (l : WLine) (m : BitVec 256) : List Need :=
  ((List.range 8).filter fun k => m &&& sectorMask k != 0).map fun k => .write (l.pa / 32 + k)

/-- None when bytes of a line can be written back; else the state with the requests sent, and their write-back started: each
sector leaves when it has come into reach (R63). -/
def State.awaitLine (s : State) (l : WLine) (m : BitVec 256) : Option State :=
  (s.await ⟨l.cluster, l.tile, 4⟩ l.quarter (l.needs m)).map fun s1 => s1.modWline l fun x =>
    { x with groups := x.groups.map fun g =>
        if g.mask &&& m != 0 && g.held.isNone && g.heldFor.isEmpty then { g with due := true } else g }

/-- The write-back of a group: rechecked (R42), then its bytes are written; those of a sector in error are discarded, and memory
keeps its contents (R77). -/
def wlWriteBack (l : WLine) (g : WGroup) (s : State) : State × Option TrapInfo :=
  match recheck l.part l.cluster g.ptbase g.va l.pa s with
  | (s1, some t) => (s1, some t)
  | (s1, none) =>
    let bad := (List.range 8).filterMap fun k => (wlErr l g.mask k s1).map fun e => (k, e)
    let lost := bad.foldl (fun m x => m ||| sectorMask x.1) (0 : BitVec 256) &&& g.mask
    let kept := g.mask &&& ~~~ lost
    let s2 := (((List.range 8).filter fun k => kept &&& sectorMask k != 0).foldl
      (fun s k => s.ccDirty l.cluster (l.pa / 32 + k)) (wlWrite l kept (wlEnds l kept s1))).modWline l
      fun x => (x.undirty kept).discard lost
    match bad with
    | [] => (s2, none)
    | (k, e) :: _ =>
      ({ s2 with errs := s2.errs.filter fun x => !(x.st == .wideL1 && bad.any fun y => x.covers .mem (l.pa + 32 * y.1)) },
        some (machineTrap e.st (g.va + w64 (32 * k))))

/-- The started write-backs of one sector in the wide-core L1s of a tile go on, now that no other cache has it (R56, R63); those
that would be refused, or meet an error, wait for the release or eviction that started them. -/
def serveSector (cl tile line : Nat) (s : State) : State :=
  let ps := (s.wl1.filter fun l => l.cluster == cl && l.tile == tile && l.pa / 256 == line / 8).flatMap fun l =>
    (l.groups.filter fun g => (g.go || g.due) && g.held.isNone && g.heldFor.isEmpty && (g.mask &&& sectorMask (line % 8)) != 0).map
      fun g => (l, { g with mask := g.mask &&& sectorMask (line % 8) })
  ps.foldl (fun s p => match wlWriteBack p.1 p.2 s with
    | (s1, none) => s1
    | _ => s) s

/-- A record put into a virtual function's error queue, which drops the newest when full (R405). -/
def Vf.record (v : Vf) (r : ErrRec) : Vf :=
  if v.errq.length < 256 then { v with errq := v.errq ++ [r] } else { v with drops := v.drops + 1 }

/-- Data lost without a release, told to the system software of a partition (R77): through the error queue of each of its
functions, since the rule names none (log 95). -/
def logPart (part : Nat) (t : TrapInfo) (s : State) : State :=
  { s with vfs := s.vfs.map fun v => if v.part = part then v.record ⟨t.cause, t.tval, t.tinfo, 0⟩ else v }

/-- Write-backs of a line's groups that no release started: a refused one is held until the next release (R47); one in error is
told to the partition (R77). -/
def wlEvict (l : WLine) : List WGroup → State → State
  | [], s => s
  | g :: gs, s =>
    match wlWriteBack l g s with
    | (s1, none) => wlEvict l gs s1
    | (s1, some t) =>
      wlEvict l gs (if t.cause = 0x13 then logPart l.part t s1
        else s1.modWline l fun x => x.regroup { g with held := some t.tinfo, told := false, go := false, due := false })

/-- The bytes under a mask, of the groups that are not held, written back without a release. -/
def wlFlush (l : WLine) (m : BitVec 256) (s : State) : State :=
  wlEvict l (((l.groups.filter fun g => g.held.isNone && g.heldFor.isEmpty).map fun g => { g with mask := g.mask &&& m }).filter
    fun g => g.mask != 0) s

/-- What the making of room in a set comes to: room, only held lines, or a write-back that waits for the cluster cache. -/
inductive Room where
  | ok (s : State)
  | full (s : State)
  | wait (s : State)

/-- The lines of a gang context's quarter in the set of an address (R55). -/
def State.wlSet (s : State) (c : CtxId) (part pa : Nat) : List WLine :=
  s.wl1.filter fun l => l.ofCtx c part && l.pa / 256 % 32 == pa / 256 % 32

/-- Frees a way of a set: a victim that is not held, written back when dirty; one that is refused becomes held and another is
tried (R47). The choice of the victim is open (log 9). -/
def wlMakeRoom (c : CtxId) (part pa : Nat) : Nat → State → Room
  | 0, s => .full s
  | n + 1, s =>
    if (s.wlSet c part pa).length < 2 then .ok s
    else
      let free := (s.wlSet c part pa).filter fun l => !l.kept
      match free[Config.freePick s.fresh % max 1 free.length]? with
      | none => .full s
      | some l =>
        match s.awaitLine l l.dirty with
        | some s1 => .wait s1
        | none =>
          let s1 := wlFlush l (~~~ 0) (s.bump 1)
          wlMakeRoom c part pa n { s1 with wl1 := s1.wl1.filter fun x => !(x.same l && x.groups.isEmpty) }

/-- Room for the line of an access, when it is absent. -/
def wlRoom (c : CtxId) (part pa : Nat) (s : State) : Room :=
  if (s.wline? c part pa).isSome then .ok s else wlMakeRoom c part pa (s.wl1.length + 1) s

/-- An empty line for an access, which had room made for it; lines that one instruction needs beyond the ways of a set stay until
the next access makes room (log 97). -/
def WLine.empty (c : CtxId) (part pa : Nat) : WLine :=
  { cluster := c.cluster, tile := c.tile, quarter := c.quarter, part := part, pa := pa / 256 * 256, valid := 0, data := [],
    groups := [], writer := [] }

/-- A line fill: the fetched data overwrites only the bytes that are not dirty (R55). -/
def wlFetch (s : State) (l : WLine) : WLine :=
  let d := l.dirty.toNat
  { l with
    valid := ~~~ (0 : BitVec 256)
    data := (List.range 256).foldl (fun x i => if bitAt d i then x else tput 0 x i (tget 0 s.mem (l.pa + i))) l.data }

/-- Whether every byte of an access is valid in a line. -/
def WLine.hasAll (l : WLine) (a n : Nat) : Bool := (List.range n).all fun i => bitAt l.valid.toNat (a % 256 + i)

/-- The bytes of an access in its line. -/
def accMask (a n : Nat) : BitVec 256 :=
  (List.range n).foldl (fun m i => m ||| BitVec.ofNat 256 (2 ^ (a % 256 + i))) (0 : BitVec 256)

/-- Room and data for a gang's read (R55): the line is present with the bytes, or room is made for it and its sectors are in the
cluster cache. -/
def wlReady (c : CtxId) (part pa n : Nat) (s : State) : Room :=
  match wlRoom c part pa s with
  | .wait s1 => .wait s1
  | .ok s1 =>
    if (s1.wline? c part pa).elim false fun l => l.hasAll pa n then .ok s1
    else (s1.await c.wideCore c.quarter ((List.range 8).map fun k => .read (pa / 256 * 8 + k))).elim (.ok s1) .wait
  | .full s1 => (s1.await c.wideCore c.quarter ((List.range 8).map fun k => .read (pa / 256 * 8 + k))).elim (.ok s1) .wait

/-- A gang's read through its wide-core L1 (R55, R86 case 2); with only held lines in the set it reads past the L1. -/
def wlRead (c : CtxId) (part : Nat) (a : Acc) (n : Nat) (s : State) : State × List Byte :=
  match s.wline? c part a.addr with
  | some l =>
    let l1 := if l.hasAll a.addr n then l else wlFetch s l
    ({ s with wl1 := s.wl1.map fun x => if x = l then l1 else x }, rdBytes l1.data (a.addr % 256) n)
  | none =>
    let set := s.wlSet c part a.addr
    if 2 ≤ set.length && set.all WLine.kept then (s, rdBytes s.mem a.addr n)
    else
      let l := wlFetch s (WLine.empty c part a.addr)
      ({ s with wl1 := s.wl1 ++ [l] }, rdBytes l.data (a.addr % 256) n)

/-- Bytes stored into a line under a virtual line and context: in the group that has them, or in a new one (R42, R55). -/
def WLine.put (c : CtxId) (ptbase : Word) (a : Acc) (bs : List Byte) (l : WLine) : WLine :=
  let m := accMask a.addr bs.length
  let va := w64 (a.va.toNat / 256 * 256)
  let g := (l.groups.find? fun g => g.va == va && g.ptbase == ptbase && g.held.isNone && g.heldFor.isEmpty && !g.go).getD
    ⟨va, ptbase, 0, none, false, [], false, false⟩
  { l.regroup { g with mask := g.mask ||| m } with
    valid := l.valid ||| m, data := wrBytes l.data (a.addr % 256) bs
    writer := ((List.range bs.length).map fun i => (a.addr % 256 + i, c)) ++ l.writer.filter fun w => !bitAt m.toNat w.1 }

/-- A gang's store into its wide-core L1 (R55). -/
def wlStore (c : CtxId) (part : Nat) (ptbase : Word) (a : Acc) (bs : List Byte) (s : State) : State :=
  match s.wline? c part a.addr with
  | some l => { s with wl1 := s.wl1.map fun x => if x = l then l.put c ptbase a bs else x }
  | none => { s with wl1 := s.wl1 ++ [(WLine.empty c part a.addr).put c ptbase a bs] }

/-- The trap of a store for which only held lines remain in the set (R47): at the first held address; the refusals there are
reported with it. -/
def wlFull (c : CtxId) (part pa : Nat) (s : State) : State × Option TrapInfo :=
  let here := fun (l : WLine) => l.ofCtx c part && l.pa / 256 % 32 == pa / 256 % 32
  let held := (s.wl1.filter here).flatMap fun l => l.groups.filter fun g => g.held.isSome
  match sortBy (fun (x y : WGroup) => decide (x.va.toNat ≤ y.va.toNat)) held with
  | [] => (s, none)
  | g :: _ =>
    ({ s with wl1 := s.wl1.map fun l =>
         if here l then { l with groups := l.groups.map fun g => { g with told := g.told || g.held.isSome } } else l },
      some ⟨0x0A, g.va, g.held.getD 0⟩)

/-! ## Operations in flight -/

/-- The new value of an atomic (R290): old and b are 4 or 8 bytes. -/
def amoNew (op : AmoOp) (sz8 : Bool) (old b : Nat) : Nat :=
  let w := if sz8 then 64 else 32
  let f : FF := if sz8 then .f64 else .f32
  match op with
  | .add => (old + b) % 2 ^ w
  | .and => old &&& b
  | .or => old ||| b
  | .xor => old ^^^ b
  | .swap => b
  | .minI => if intVal w true b < intVal w true old then b else old
  | .maxI => if intVal w true old < intVal w true b then b else old
  | .minN => min old b
  | .maxN => max old b
  | .fadd => roundTo f .rn false (exactAdd .rn (f.decode old) (f.decode b)) 0
  | .fmin => fminmax f false old b
  | .fmax => fminmax f true old b

/-- What an `amo` returns (R290). -/
def amoRet (op : AmoOp) (sz8 : Bool) (old : Nat) : Word :=
  match op with
  | .minI => if sz8 then w64 old else (BitVec.ofNat 32 old).signExtend 64
  | .maxI => if sz8 then w64 old else (BitVec.ofNat 32 old).signExtend 64
  | _ => w64 old

/-- A destination marked with the error of the data that its value is read from (R77). -/
def markRead (c : CtxId) (a : Acc) (n : Nat) (d : Dst) (s : State) : State :=
  match s.errAt a.space a.addr n with
  | none => s
  | some e => if d = .none then s else { s with errs := s.errs ++ [{ st := e.st, key := e.key, va := a.va, reg := some (c, d) }] }

/-- What an atomic needs (R71, R72): for the near-cache unit its line open in the home slice, for the memory-side unit its region
recalled from every holder. -/
def AmoElt.needs (e : AmoElt) : List Need :=
  if e.acc.space ≠ .mem || e.acc.host then [] else if e.near then [.write (e.acc.addr / 32)] else [.alone (e.acc.addr / 32)]

/-- A near-cache unit's result is dirty in its cluster's cache (R59, R71). -/
def nearWrite (c : CtxId) (e : AmoElt) (s : State) : State :=
  if e.acc.space = .mem ∧ e.near then s.ccDirty c.cluster (e.acc.addr / 32) else s

/-- One atomic at its unit: read and write together (R87, R291). Data in error stays as it is (R77). -/
def performAmo (c : CtxId) (e : AmoElt) (s : State) : State × Word :=
  let n := if e.sz8 then 8 else 4
  let old := leNat (readSpace s e.acc.space e.acc.addr n)
  let b := e.operand.toNat % 2 ^ (8 * n)
  let ret := match e.cmp with | some _ => w64 old | none => amoRet e.op e.sz8 old
  if (s.errAt e.acc.space e.acc.addr n).isSome then (markRead c e.acc n e.dst s, ret)
  else
    match e.cmp with
    | some x =>
      if old = x.toNat % 2 ^ (8 * n) then (nearWrite c e (writeSpace e.acc.space e.acc.addr (toBytes n b) s), ret) else (s, ret)
    | none => (nearWrite c e (writeSpace e.acc.space e.acc.addr (toBytes n (amoNew e.op e.sz8 old b)) s), ret)

/-- Atomics in the order of their elements (R280), with their replies. -/
def performAmos (c : CtxId) : List AmoElt → State → State × List (Dst × Word)
  | [], s => (s, [])
  | e :: es, s =>
    let (s1, r) := performAmo c e s
    let (s2, rs) := performAmos c es s1
    (s2, (e.dst, r) :: rs)

/-- What `vrdm` returns to its lanes (R350): for an integer sum the old value and the sum of the lanes before, acc; for every
other operation the old value. -/
def rdmRets (op : AmoOp) (sz8 : Bool) (old : Nat) : Nat → List (Dst × Word) → List (Dst × Word)
  | _, [] => []
  | acc, (d, b) :: ls =>
    (d, if op = .add then w64 ((old + acc) % 2 ^ (if sz8 then 64 else 32)) else amoRet op sz8 old) ::
      rdmRets op sz8 old (acc + b.toNat) ls

/-- Fold of the lanes' values by the operation's step (R342, R350). -/
def rdmFold (op : AmoOp) (sz8 : Bool) : List Nat → Nat
  | [] => 0
  | v :: vs => vs.foldl (amoNew op sz8) v

/-- The value of a load when it is performed (R84, R86): through the wide-core L1 for a gang, else from the space. -/
def takeLoad (c : CtxId) (part : Nat) (a : Acc) (n : Nat) (s : State) : State × List Byte :=
  if c.wide && c.onDevice && a.space == .mem && a.cached then wlRead c part a n s
  else (s, readSpace s a.space a.addr n)

/-- The values of a load's elements taken, each once. -/
def takeLoads (c : CtxId) : List LoadElt → State → State × List LoadElt
  | [], s => (s, [])
  | e :: es, s =>
    let (s1, e1) := match e.val with
      | some _ => (s, e)
      | none =>
        let (s1, bs) := takeLoad c (s.partOf c).1 e.acc e.size.bytes s
        (s1, { e with val := some (e.size.value (leNat bs)) })
    let (s2, es1) := takeLoads c es s1
    (s2, e1 :: es1)

/-- Room and data for the elements of a gang's load that go through the wide-core L1, with whether it must wait. -/
def loadRoom (c : CtxId) (part : Nat) : List LoadElt → State → State × Bool
  | [], s => (s, false)
  | e :: es, s =>
    if c.wide && c.onDevice && e.val.isNone && e.acc.space == .mem && e.acc.cached then
      match wlReady c part e.acc.addr e.size.bytes s with
      | .wait s1 => (s1, true)
      | .ok s1 => loadRoom c part es s1
      | .full s1 => loadRoom c part es s1
    else loadRoom c part es s

/-- PEND falls when a reduction is performed (R292). -/
def State.pendDown (s : State) (c : CtxId) : State :=
  (s.updThread c fun t => { t with pend := t.pend - 1 }).updGang c fun g => { g with pend := g.pend - 1 }

/-- A word put in its place in a receive queue: of two that arrive in one cc, the one of the lower core first (R277). -/
def insertPush (p : Pushed) : List Pushed → List Pushed
  | [] => [p]
  | q :: qs => if q.cc = p.cc ∧ p.core < q.core then p :: q :: qs else q :: insertPush p qs

/-- A push that reaches the target's receive queue; it is discarded when no thread is there any more (R277). -/
def pushArrive (c target : CtxId) (v : Word) (s : State) : State :=
  s.updThread target fun t => if t.state = .exited then t else { t with recvq := insertPush ⟨v, s.cc, c.core⟩ t.recvq }

/-- An operation has done its work: it goes, or its flag falls due (R211). -/
def State.endOp (s : State) (o : Op) : State :=
  if o.flag.isNone then s.dropOp o.id else s.updOp o.id fun o => { o with kind := .flagDue }

/-- The one atomic that `vrdm` makes, with its lanes' results (R350). -/
def performRdm (c : CtxId) (e : AmoElt) (ls : List (Dst × Word)) (s : State) : State × List (Dst × Word) :=
  let n := if e.sz8 then 8 else 4
  let old := leNat (readSpace s e.acc.space e.acc.addr n)
  let v := rdmFold e.op e.sz8 (ls.map fun l => l.2.toNat % 2 ^ (8 * n))
  if (s.errAt e.acc.space e.acc.addr n).isSome then
    (ls.foldl (fun s l => markRead c e.acc n l.1 s) s, rdmRets e.op e.sz8 old 0 ls)
  else (nearWrite c e (writeSpace e.acc.space e.acc.addr (toBytes n (amoNew e.op e.sz8 old v)) s), rdmRets e.op e.sz8 old 0 ls)

/-- An operation in flight performs its memory part; its replies stay on their way as fills (R84). -/
def performOp (o : Op) (s : State) : State :=
  match o.kind with
  | .load es =>
    let (s1, es1) := takeLoads o.owner es (loadRoom o.owner o.part es s).1
    s1.updOp o.id fun o => { o with kind := .load es1 }
  | .atomic es =>
    let (s1, rs) := performAmos o.owner es s
    s1.updOp o.id fun o => { o with kind := .fills rs }
  | .red es => ((performAmos o.owner es s).1.endOp o).pendDown o.owner
  | .vrdm e ls =>
    let (s1, rs) := performRdm o.owner e ls s
    s1.updOp o.id fun o => { o with kind := .fills rs }
  | .store es => (es.foldl (fun s e => writeSpace e.1.space e.1.addr e.2 s) s).endOp o
  | .push c v => (pushArrive o.owner c v s).endOp o
  | .fills _ => s
  | .tlbinv _ _ => s
  | .restore _ _ => s
  | .graph _ => s
  | .flagDue => s

/-- The bytes that an operation in flight still touches. -/
def OpKind.spans : OpKind → List (Space × Nat × Nat)
  | .load es => es.filterMap fun e => if e.val.isNone then some (e.acc.space, e.acc.addr, e.size.bytes) else none
  | .atomic es => es.map fun e => (e.acc.space, e.acc.addr, if e.sz8 then 8 else 4)
  | .red es => es.map fun e => (e.acc.space, e.acc.addr, if e.sz8 then 8 else 4)
  | .vrdm e _ => [(e.acc.space, e.acc.addr, if e.sz8 then 8 else 4)]
  | .store es => es.map fun e => (e.1.space, e.1.addr, e.2.length)
  | _ => []

/-- Whether an operation in flight touches one of n bytes at a place. -/
def OpKind.touches (k : OpKind) (a : Acc) (n : Nat) : Bool :=
  k.spans.any fun x => x.1 == a.space && x.2.1 < a.addr + n && a.addr < x.2.1 + x.2.2

/-- None when an operation in flight can be performed now; else the state with what it waits for asked for. -/
def opAwait (o : Op) (s : State) : Option State :=
  let ask := fun (es : List AmoElt) => s.await o.owner.wideCore o.owner.quarter (es.flatMap AmoElt.needs)
  match o.kind with
  | .atomic es => ask es
  | .red es => ask es
  | .vrdm e _ => ask [e]
  | .load es =>
    match loadRoom o.owner o.part es s with
    | (s1, true) => some s1
    | (_, false) => none
  | _ => none

/-- Whether a context is inside an atomic that it waits for (R232, R291). -/
def State.amoHeld (s : State) (c : CtxId) : Bool := s.ops.any fun o => o.owner == c && o.acq

/-- The atomic that an operation makes next at its unit. -/
def OpKind.nextAmo : OpKind → Option AmoElt
  | .atomic es => es.head?
  | .red es => es.head?
  | .vrdm e _ => some e
  | _ => none

/-- The next atomic of an operation made at its unit, with its reply on its way (R71, R72, R291). The lanes of one instruction come
one after another, in ascending order (R280), and other agents' atomics may come between them (R351); `vrdm` makes one atomic
(R350). -/
def unitStep (o : Op) (s : State) : State :=
  match o.kind with
  | .atomic (e :: e1 :: es) =>
    let (s1, w) := performAmo o.owner e s
    (s1.addOp o.owner none (.fills [(e.dst, w)]) false o.acq).updOp o.id fun o => { o with kind := .atomic (e1 :: es) }
  | .red (e :: e1 :: es) => (performAmo o.owner e s).1.updOp o.id fun o => { o with kind := .red (e1 :: es) }
  | .atomic _ => performOp o s
  | .red _ => performOp o s
  | .vrdm _ _ => performOp o s
  | _ => s

/-- The operations that wait at their units for a need that is now met go on (R63, R71): each makes its next atomic. -/
def serveUnits (waits : Need → Bool) (pick : Op → Bool) (s : State) : State :=
  (s.ops.filter pick).foldl (fun s o =>
    match o.kind.nextAmo with
    | some e => if e.needs.any waits && e.needs.all (s.meets o.owner.cluster) then unitStep o s else s
    | none => s) s

/-- None when an agent's operations in flight that pick chooses can all be performed now. -/
def State.opsAwait (s : State) (c : CtxId) (pick : Op → Bool) : Option State :=
  (s.ops.filter fun o => o.owner == c && pick o).findSome? fun o => opAwait o s

/-- None when the releases that an agent has made are performed, which an acquire of it follows (R89). -/
def State.relAwait (s : State) (c : CtxId) : Option State := s.opsAwait c fun o => o.rel

/-- An operation performed, unless it still waits. -/
def tryOp (o : Op) (s : State) : State := if (opAwait o s).isSome then s else performOp o s

/-- Performs an agent's own operations in flight that pick chooses and that wait for nothing, in the order in which they
issued. -/
def settle (c : CtxId) (pick : OpKind → Bool) (s : State) : State :=
  (s.ops.filter fun o => o.owner == c && pick o.kind).foldl (fun s o => tryOp o s) s

/-- Row 5 of R89: an acquire follows its agent's earlier releases, whose own stores and atomics may still be in flight. -/
def settleRel (c : CtxId) (s : State) : State :=
  (s.ops.filter fun o => o.owner == c && o.rel).foldl (fun s o => tryOp o s) s

/-- Rows 1 and 2 of R89: an access is performed after its agent's earlier accesses to the same bytes. -/
def settleAt (c : CtxId) (a : Acc) (n : Nat) (s : State) : State := settle c (fun k => k.touches a n) s

/-- Stores, reductions and the write parts of atomics (R92). -/
def OpKind.isStore : OpKind → Bool
  | .atomic _ => true | .red _ => true | .vrdm _ _ => true | .store _ => true | .push _ _ => true | _ => false

/-- Loads and the read parts of atomics (R92). -/
def OpKind.isLoad : OpKind → Bool
  | .load _ => true | .atomic _ => true | .red _ => true | .vrdm _ _ => true | _ => false

/-! ## The store buffer -/

/-- The lowest byte of a store-buffer entry, as a virtual address (R44). -/
def SbEntry.first (e : SbEntry) : Word :=
  e.va + w64 (((List.range 32).find? fun i => bitAt e.mask.toNat i).getD 0)

/-- The bytes of an entry written to memory. -/
def sbWrite (e : SbEntry) (s : State) : State :=
  (List.range 32).foldl (fun s i =>
    if bitAt e.mask.toNat i then writeSpace .mem (e.pa + i) [tget 0 e.data i] s else s) s

/-- Whether an entry can be written (R53, R61): its line is in M in the L1 of its core, or in E, from which it enters M without a
message; data of a page with C = 0 goes on to memory. -/
def sbOpen (c : CtxId) (e : SbEntry) (s : State) : Bool :=
  !e.cached || (match s.l1State c.coreId (e.pa / 32) with
    | some .m => true
    | some .e => true
    | _ => false)

/-- The request for a line that an entry waits for (R61). -/
def sbAsk (c : CtxId) (e : SbEntry) (s : State) : State :=
  match s.l1State c.coreId (e.pa / 32) with
  | none => sendReq .getm c.coreId c.quarter (e.pa / 32) s
  | some .s => sendReq .upg c.coreId c.quarter (e.pa / 32) s
  | some _ => s

/-- An entry written into its line, which is then in M (R53). -/
def sbPut (c : CtxId) (e : SbEntry) (s : State) : State :=
  sbWrite e (if e.cached then s.setL1 c.coreId (e.pa / 32) (some .m) else s)

/-- The write-back of one entry, rechecked (R42, R53): none when it has left, or the trap. An entry that meets an
uncorrectable error is discarded unless it covers the whole sector (R77). -/
def sbWriteBack (part : Nat) (c : CtxId) (e : SbEntry) (s : State) : State × Option TrapInfo :=
  match recheck part c.cluster e.ptbase e.va e.pa s with
  | (s1, some t) => (s1, some { t with tval := e.first })
  | (s1, none) =>
    match s1.errAt .mem e.pa 1 with
    | some m => if e.mask = ~~~ 0 then (sbPut c e (endErrs .mem e.pa 32 s1), none) else (s1, some (machineTrap m.st e.first))
    | none => (sbPut c e s1, none)

/-- The oldest buffered stores of a thread leave as far as they are on a line that has just come into M (R53, R61), when their
write-back has been started or their thread waits for it; one that would be refused, or meets an error, stays. -/
def serveBuffer (t : Thread) (line : Nat) : List SbEntry → State → State
  | [], s => s
  | e :: es, s =>
    if e.pa / 32 ≠ line ∨ !e.cached ∨ e.held.isSome ∨ !(e.go || t.state == .parked .retry) then s
    else
      match sbWriteBack t.part t.id e s with
      | (s1, none) => serveBuffer t line es (s1.updThread t.id fun t => { t with sb := t.sb.erase e })
      | _ => s

/-- The buffered stores of a core's threads that wait for a line; of a handler of RELEASE_PERM its own only (R45). -/
def serveCore (c : CoreId) (line : Nat) (s : State) : State :=
  (s.threads.filter fun t => t.id.coreId == c).foldl
    (fun s t => serveBuffer t line (t.sb.filter fun e => !t.agent.relHandler || e.inHandler) s) s

/-- How a write-back of entries ends: all have left, a refusal, or an entry that waits for its line. -/
inductive DrainEnd where
  | done
  | trap (t : TrapInfo)
  | wait
deriving DecidableEq, Repr

/-- Entries written back oldest first up to the first refusal, or to one that waits for its line; the entries that stay (R43,
R44, R53). MACHINE drops its entry (R77). -/
def sbDrain (part : Nat) (c : CtxId) : List SbEntry → State → State × List SbEntry × DrainEnd
  | [], s => (s, [], .done)
  | e :: es, s =>
    if !sbOpen c e s then (sbAsk c e s, e :: es, .wait)
    else
      match sbWriteBack part c e s with
      | (s1, none) => sbDrain part c es s1
      | (s1, some t) => (s1, if t.cause = 0x13 then es else e :: es, .trap t)

/-- The bytes of a thread's own buffer laid over what memory holds (R53, R86 case 1), with whether any byte came from it. -/
def sbForward (sb : List SbEntry) (a : Nat) : Nat → List Byte → List Byte × Bool
  | _, [] => ([], false)
  | i, b :: bs =>
    let hit := sb.foldl (fun r e =>
      if e.pa ≤ a + i ∧ a + i < e.pa + 32 ∧ bitAt e.mask.toNat (a + i - e.pa) then some (tget 0 e.data (a + i - e.pa)) else r)
      none
    let (rest, any) := sbForward sb a (i + 1) bs
    ((hit.getD b) :: rest, hit.isSome || any)

/-- What a store comes to: done, the trap of R47, or a wait for the oldest entry to leave (R53). -/
inductive StoreRes where
  | ok (s : State)
  | trap (s : State) (t : TrapInfo)
  | wait (s : State)

/-- Whether a byte is covered by held data of a thread in its RELEASE_PERM handler (R45, R46). -/
def State.heldAt (s : State) (t : Thread) (a : Nat) : Bool :=
  (t.sb.any fun e => !e.inHandler && e.pa ≤ a && bitAt e.mask.toNat (a - e.pa)) ||
    s.wl1.any fun l => l.pa ≤ a && l.groups.any fun g => g.heldFor.contains t.id && bitAt g.mask.toNat (a - l.pa)

/-- The data bytes of a store that a RELEASE_PERM handler makes: undefined where held data lies (R45). -/
def heldBytes (s : State) (t : Thread) (a : Nat) (bs : List Byte) : List Byte :=
  bs.mapIdx fun i b => if s.heldAt t (a + i) then Config.freeByte (s.fresh + i) else b

/-- Bytes of held data that a handler's store has met take the same free values (R45). -/
def overHeld (a : Nat) (bs : List Byte) (pa : Nat) (mask : Nat) (data : Tab Byte) : Tab Byte :=
  (List.range bs.length).foldl (fun d i =>
    if pa ≤ a + i && bitAt mask (a + i - pa) then tput 0 d (a + i - pa) (bs.getD i 0) else d) data

/-- The held data of a thread under a store of its RELEASE_PERM handler left undefined (R45). -/
def undefHeld (c : CtxId) (a : Nat) (bs : List Byte) (s : State) : State :=
  { s.updThread c fun t => { t with sb := t.sb.map fun e =>
      if e.inHandler then e else { e with data := overHeld a bs e.pa e.mask.toNat e.data } } with
    wl1 := s.wl1.map fun l =>
      { l with data := (l.groups.filter fun g => g.heldFor.contains c).foldl (fun d g => overHeld a bs l.pa g.mask.toNat d) l.data } }

/-- The new entry that a thread's store makes. -/
def sbFresh (t : Thread) (a : Acc) (bs : List Byte) : SbEntry :=
  { va := w64 (a.va.toNat / 32 * 32), pa := a.addr / 32 * 32, ptbase := t.ptbase, cached := a.cached
    mask := (List.range bs.length).foldl (fun m i => m ||| BitVec.ofNat 32 (2 ^ (a.addr % 32 + i))) (0 : BitVec 32)
    data := wrBytes [] (a.addr % 32) bs, held := none, inHandler := t.agent.relHandler, go := false }

/-- Whether the youngest entry takes a store's bytes (R53): the same line under the same translation, not held and not leaving. -/
def SbEntry.takes (y e : SbEntry) : Bool :=
  y.pa == e.pa && y.ptbase == e.ptbase && y.va == e.va && y.held.isNone && y.inHandler == e.inHandler && !y.go

/-- How many entries the pieces of one store take, behind the youngest entry. -/
def sbExtra (t : Thread) : Option SbEntry → List (Acc × List Byte) → Nat
  | _, [] => 0
  | y, (a, bs) :: es =>
    let e := sbFresh t a bs
    if y.elim false fun y => y.takes e then sbExtra t y es else sbExtra t (some e) es + 1

/-- Room in the store buffer for n new entries (R47, R53): while they do not fit in the 8, the oldest leaves. -/
def sbRoom (c : CtxId) (n : Nat) : Nat → State → StoreRes
  | 0, s => .ok s
  | k + 1, s =>
    match s.thread? c with
    | none => .ok s
    | some t =>
      if t.sb.length + n ≤ 8 then .ok s
      else
        match t.sb with
        | [] => .ok s
        | o :: es =>
          if t.agent.relHandler && !o.inHandler then .trap s ⟨0x0A, o.first, o.held.getD (memInfo 3 .writeBack rDenied)⟩
          else
            match o.held with
            | some i => .trap (s.updThread c fun t => { t with sb := { o with held := none } :: es }) ⟨0x0A, o.first, i⟩
            | none =>
              match sbDrain t.part c [o] s with
              | (s1, rest, .done) => sbRoom c n k (s1.updThread c fun t => { t with sb := rest ++ es })
              | (s1, rest, .trap tr) => .trap (s1.updThread c fun t => { t with sb := rest ++ es }) tr
              | (s1, rest, .wait) => .wait (s1.updThread c fun t => { t with sb := rest ++ es })

/-- A store accepted by the store buffer: merged into the youngest entry, or a new entry (R53). -/
def sbStore (c : CtxId) (a : Acc) (bs0 : List Byte) (s : State) : State :=
  match s.thread? c with
  | none => s
  | some t =>
    let rel := t.agent.relHandler
    let bs := if rel then heldBytes s t a.addr bs0 else bs0
    let s := if rel then undefHeld c a.addr bs (s.bump bs.length) else s
    let e := sbFresh t a bs
    s.updThread c fun t =>
      match t.sb.getLast? with
      | some y =>
        if y.takes e then
          { t with sb := t.sb.dropLast ++ [{ y with mask := y.mask ||| e.mask, data := wrBytes y.data (a.addr % 32) bs }] }
        else { t with sb := t.sb ++ [e] }
      | none => { t with sb := [e] }

/-- The write-back that a `st.rel`'s own store, or a cache control, starts without a release: everything up to the youngest
entry that pick chooses leaves oldest first (R47, R285, R287). -/
def sbPush (c : CtxId) (pick : SbEntry → Bool) (s : State) : State :=
  match s.thread? c with
  | none => s
  | some t =>
    let n := t.sb.length - (t.sb.reverse.takeWhile fun e => !pick e).length
    if (t.sb.take n).any fun e => e.held.isSome || (t.agent.relHandler && !e.inHandler) then s
    else s.updThread c fun t => { t with sb := (t.sb.take n).map (fun e => { e with go := true }) ++ t.sb.drop n }

/-! ## Releases and acquires -/

/-- A release's outcome: done, refused with what it has already written (R44), or waiting, with what has been written so far
(R53, R91). -/
inductive Rel where
  | ok (s : State)
  | refused (s : State) (t : TrapInfo)
  | wait (s : State)
deriving DecidableEq, Repr

/-- Dirty bytes of lines in the order of their write-back: what is held first, each part by ascending virtual address (R43, R45,
R47). -/
def wlOrder (ps : List (WLine × WGroup)) : List (WLine × WGroup) :=
  let srt := fun (l : List (WLine × WGroup)) => sortBy (fun a b => decide (a.2.va.toNat ≤ b.2.va.toNat)) l
  srt (ps.filter fun p => p.2.held.isSome) ++ srt (ps.filter fun p => p.2.held.isNone)

/-- Bytes that stay held because of a refusal that is now reported (R44, R47). -/
def State.holdAll (s : State) (ps : List (WLine × WGroup)) (info : Word) : State :=
  ps.foldl (fun s p => s.modWline p.1 fun x => x.regroup { p.2 with held := some (p.2.held.getD info), told := true }) s

/-- Dirty bytes written back in order up to the first refusal, which leaves itself and the rest held (R43, R44). -/
def wlDrain : List (WLine × WGroup) → State → Rel
  | [], s => .ok s
  | p :: ps, s =>
    match s.awaitLine p.1 p.2.mask with
    | some s1 => .wait s1
    | none =>
      match wlWriteBack p.1 p.2 s with
      | (s1, none) => wlDrain ps s1
      | (s1, some t) => .refused (if t.cause = 0x13 then s1 else s1.holdAll (p :: ps) t.tinfo) t

/-- The bytes that a refused `gret` bound to a caller, written back before its own data (R46). -/
def releaseBound (c : CtxId) (s : State) : Rel :=
  wlDrain (wlOrder (s.wl1.flatMap fun l => (l.groups.filter fun g => g.heldFor.contains c).map fun g => (l, g))) s

/-- The store-buffer entries of a thread written back: of a handler of RELEASE_PERM its own only (R45). -/
def releaseBuffer (t : Thread) (own : SbEntry → Bool) (s : State) : Rel :=
  let put := fun (s : State) (rest : List SbEntry) => s.updThread t.id fun t => { t with sb := t.sb.filter (fun e => !own e) ++ rest }
  match sbDrain t.part t.id (t.sb.filter own) s with
  | (s1, rest, .done) => .ok (put s1 rest)
  | (s1, rest, .trap tr) => .refused (put s1 rest) tr
  | (s1, rest, .wait) => .wait (put s1 rest)

/-- The release action of a scalar thread at .tm or wider (R91): every earlier store is performed; a store that was refused
without a release is reported before anything is written (R47); a handler of RELEASE_PERM releases only its own stores
(R45). -/
def releaseThread (c : CtxId) (sc : Scope) (s : State) : Rel :=
  match s.opsAwait c fun _ => true with
  | some s1 => .wait s1
  | none =>
    if sc = .th then .ok s
    else
      let s := settle c OpKind.isStore s
      match s.thread? c with
      | none => .ok s
      | some t =>
        if t.agent.relHandler then releaseBuffer t (·.inHandler) s
        else
          match t.sb.find? fun e => e.held.isSome with
          | some e =>
            .refused (s.updThread c fun t => { t with sb := t.sb.map fun e => { e with held := none } }) ⟨0x0A, e.first, e.held.getD 0⟩
          | none =>
            match (if sc.clOrWider then releaseBound c s else .ok s) with
            | .ok s1 => releaseBuffer t (fun _ => true) s1
            | r => r

/-- The dirty bytes that a gang's release writes back (R46, R56): those of its quarter's lines, and its own in lines of another
quarter's ways (log 96). -/
def gangDirty (s : State) (c : CtxId) (part : Nat) : List (WLine × WGroup) :=
  (s.wl1.filter fun l => l.onCore c part).flatMap fun l =>
    let own := if l.quarter = c.quarter then ~~~ 0 else l.mine c
    (l.groups.filter fun g => g.heldFor.isEmpty && (g.mask &&& own) != 0).map fun g => (l, { g with mask := g.mask &&& own })

/-- The release action of a gang (R91): its stores are acknowledged, and at .cl and wider its dirty bytes are written back in
ascending address order (R43, R56); a refusal that nothing has reported is reported first (R47). -/
def releaseGang (c : CtxId) (sc : Scope) (s : State) : Rel :=
  match s.opsAwait c fun _ => true with
  | some s1 => .wait s1
  | none =>
    let s := if sc = .th then s else settle c OpKind.isStore s
    if !sc.clOrWider then .ok s
    else
      let ps := wlOrder (gangDirty s c (s.partOf c).1)
      match ps.find? fun p => p.2.held.isSome && !p.2.told with
      | some p => .refused (s.holdAll ps (p.2.held.getD 0)) ⟨0x0A, p.2.va, p.2.held.getD 0⟩
      | none => wlDrain ps s

/-- The release action of a context at a scope (R91). -/
def release (c : CtxId) (sc : Scope) (s : State) : Rel := if c.wide then releaseGang c sc s else releaseThread c sc s

/-- Every earlier load has taken its value (R92). -/
def settleLoads (c : CtxId) (s : State) : State := settle c OpKind.isLoad s

/-- The acquire action (R91), after the agent's earlier releases (R89): a gang at .cl or wider drops the clean bytes of the lines
that its loads find (R56, log 96). -/
def acquire (c : CtxId) (sc : Scope) (s : State) : State :=
  let s := settleRel c s
  if c.wide && sc.clOrWider then
    { s with wl1 := (s.wl1.map fun l =>
        if l.onCore c (s.partOf c).1 then { l with valid := l.valid &&& l.dirty } else l).filter fun l => l.valid != 0 }
  else s

/-! ## The checks of an access -/

/-- The checks of R279 in their order, but for the stall of check 7. Its agent's own operations in flight on the bytes come first
(R89): the access waits while one of them waits for its unit (R71). -/
def checkPlain (ag : Agent) (va : Word) (size align : Nat) (k : AccKind) (hostOk : Bool) (s : State) : Chk :=
  match windowTrap s ag va k with
  | some t => .trap s t
  | none =>
    if va.toNat % align ≠ 0 then .trap s ⟨0x05, va, memInfo 0 k 0⟩
    else
      match place ag va size k s with
      | .ok s1 a l =>
        if a.host && !hostOk then .trap s1 ⟨0x07, va, memInfo l k rHostOp⟩
        else (s1.opsAwait ag.id fun o => o.kind.touches a size).elim (.ok s1 a l) .wait
      | r => r

/-- The checks of R279 in their order (R14 to R19, R27, R28, R32, R117). -/
def checkAccess (ag : Agent) (va : Word) (size align : Nat) (k : AccKind) (hostOk : Bool) (s : State) : Chk :=
  match checkPlain ag va size align k hostOk s with
  | .ok s1 a l =>
    match stallsOf s1 ag va size with
    | [] => .ok s1 a l
    | xs => .stall s1 xs
  | r => r

end Sys2Proof.Machine
end

