-- ==== Sys2Proof/Machine/Ops.lean ====
section
/-! DEFINITION. The shared operations of the meanings: the PC (R212), how a head ends, parks or traps, taking an exception
and returning from one (R375 to R379), traps of gangs and galley lanes (R173, R380, R382), lane groups (R168), the galley's
keys (R170), killing (R383) and the ends of teams and launches (R156, R403). -/

namespace Sys2Proof.Machine

/-- The result of a meaning. -/
abbrev Res := Host.Outcome State Fault Refusal

/-! ## The PC -/

/-- The PC that follows a head (R212); line is the line it stands in. -/
def nextPc (pc : Word) (line : Option Nat) : Word :=
  if pc.toNat % 64 + 1 < lineHeads (line.getD 0) then pc + 1 else w64 (pc.toNat / 64 * 64 + 64)

/-- The line that is still entered after the head at pc falls through: the same, or none when the next line must be entered
(R208, R209). -/
def lineAfter (pc : Word) (line : Option Nat) : Option Nat :=
  if pc.toNat % 64 + 1 < lineHeads (line.getD 0) then line else none

/-- The target of a B layout (R213). -/
def Target.pc (t : Target) (pc : Word) : Word := w64 (pc.toNat / 64 * 64) + (t.disp.signExtend 64) * 64 + t.idx.zeroExtend 64

/-- The head at a PC and its tail as TVAL holds them (R224). -/
def headTail (pc : Word) (line : Option Nat) : Word :=
  match line with
  | none => 0
  | some l => w64 (lineHead l (pc.toNat % 64) + lineTail l (pc.toNat % 64) * 2 ^ 16)

/-- The major opcode of the head at a PC. -/
def opcAt (pc : Word) (line : Option Nat) : Nat := bits (headTail pc line).toNat 13 6

/-- TINFO of ILLEGAL_LINE, ILLEGAL_OP and NOT_ON_CORE (R224), without a lane. -/
def headInfo (opc idx reason : Nat) : Word := w64 (opc * 2 ^ 24 + idx * 2 ^ 8 + reason)

/-- Reasons of ILLEGAL_OP (R224). -/
def rOpcode : Nat := 0x38
def rReserved : Nat := 0x39
def rGBit : Nat := 0x3A
def rFlagSelect : Nat := 0x3B
def rVariant : Nat := 0x3C
def rRegister : Nat := 0x3D

/-- ILLEGAL_OP at the head at a PC (R224). -/
def illegalOp (pc : Word) (line : Option Nat) (reason : Nat) : TrapInfo :=
  ⟨0x02, headTail pc line, headInfo (opcAt pc line) (pc.toNat % 64) reason⟩

/-- PRIV at the head at a PC (R376). -/
def privTrap (pc : Word) (line : Option Nat) : TrapInfo := ⟨0x04, 0, w64 (opcAt pc line * 2 ^ 24)⟩

/-- ILLEGAL_LINE for a bad header (R227). -/
def badHeader (pc target : Word) (line : Option Nat) : TrapInfo :=
  ⟨0x01, target, headInfo (opcAt pc line) (pc.toNat % 64) 0x37⟩

/-! ## Lane groups -/

/-- A group put in its place by PC among others, joined to one with the same PC (R168); the lanes go on in their line when all
of them are inside it (log 85). -/
def insertGroup (x : Group) : List Group → List Group
  | [] => [x]
  | y :: ys =>
    if x.pc.toNat < y.pc.toNat then x :: y :: ys
    else if x.pc = y.pc then ⟨y.pc, y.lanes ||| x.lanes, if x.line.isSome then y.line else none⟩ :: ys
    else y :: insertGroup x ys

/-- A stacked group becomes current; the fairness timer restarts (R168). -/
def Gang.take (g : Gang) (x : Group) (stack : List Group) : Gang :=
  { g with pc := x.pc, lanes := x.lanes, line := x.line, stack := stack, timer := 0, switchDue := false }

/-- LANE_GROUP_MERGE (R168): the current group takes in the stacked group at its PC; the timer restarts. DESIGN CHOICE:
the lanes go on in their line when all of them are inside it, and enter it again otherwise (log 85). -/
def Gang.merge (g : Gang) : Gang :=
  match g.stack.find? fun x => x.pc == g.pc with
  | none => g
  | some x => g.take ⟨g.pc, g.lanes ||| x.lanes, if x.line.isSome then g.line else none⟩ (g.stack.erase x)

/-- The lowest-PC stacked group becomes current (R168). -/
def Gang.nextGroup (g : Gang) : Gang :=
  match g.stack with
  | [] => g
  | x :: xs => { g.take x xs with yieldDue := false }

/-- LANE_GROUP_SPLIT (R168): the current group's lanes go to these PCs; the lowest becomes current, the others are stacked. -/
def Gang.split (g : Gang) (gs : List Group) : Gang :=
  match gs.foldl (fun l x => insertGroup x l) [] with
  | [] => g
  | [x] => { g with pc := x.pc, lanes := x.lanes, line := x.line }.merge
  | x :: xs => (g.take x (xs.foldl (fun l y => insertGroup y l) g.stack)).merge

/-- The switch that the fairness timer or `yield` makes (R168): the current group is stacked, and the one with the next
higher PC, wrapping to the lowest, becomes current. -/
def Gang.switch (g : Gang) : Gang :=
  match (g.stack.find? fun x => decide (g.pc.toNat < x.pc.toNat)).or g.stack.head? with
  | none => g
  | some x => { g.take x (insertGroup ⟨g.pc, g.lanes, g.line⟩ (g.stack.erase x)) with yieldDue := false }

/-- A gang whose head has ended and whose current group goes on at the next PC (R168, R272). -/
def Gang.next (g : Gang) : Gang :=
  { g with pc := nextPc g.pc g.line, line := if g.reenter then none else lineAfter g.pc g.line, issued := g.issued + 1,
           state := .ready, reenter := false }.merge

/-! ## Messages and sends -/

/-- The state in which a thread's head has ended and the next one follows; the head counts as issued (R272). -/
def Thread.next (t : Thread) : Thread :=
  { t with
    pc := nextPc t.pc t.line, line := if t.reenter then none else lineAfter t.pc t.line, issued := t.issued + 1
    state := .ready, reenter := false }

/-- A send completes when none of its messages is still held: the sender goes on (R164, R302). -/
def sendDone (c : CtxId) (s : State) : State :=
  if s.msgs.any fun m => m.heldAt == some c then s
  else
    (s.updThread c fun t => if t.state = .parked .accept then t.next else t).updGang c fun g =>
      if g.state = .parked .accept then g.next else g

/-- The sender of an accepted message goes on, here or on the device from which the message came (R164, R301, R302). -/
def acceptMsg (m : Msg) (s : State) : State :=
  let s1 := match m.origin with
    | none => s
    | some (d, n) => { s with out := s.out ++ [.accepted d n] }
  match m.heldAt with
  | none => s1
  | some c => sendDone c s1

/-- −1 at a count point, from a tile (R140). -/
def retire (cl tile : Nat) (pt : CountPt) (s : State) : State := s.addChange cl tile pt (-1) []

/-- Retires the count of a message, if it has one; a trap message has none (R380). -/
def retireMsg (cl tile : Nat) (m : Msg) (s : State) : State :=
  match m.pt with
  | none => s
  | some pt => retire cl tile pt s

/-- Retires a capability; one in the middle of a `finc` holds both its counts (R307). -/
def retireCap (cl tile : Nat) (k : Cap) (s : State) : State :=
  match k.moving with
  | none => retire cl tile k.pt s
  | some g => retire cl tile k.pt (retire cl tile { k.pt with folio := g } s)

/-- Takes a message out of the network as though it had been accepted and taken (R149). -/
def dropMsg (cl tile : Nat) (m : Msg) (s : State) : State :=
  acceptMsg m (retireMsg cl tile m { s with msgs := s.msgs.filter fun x => x.id != m.id })

/-- Whether a message is addressed to a team that binds its class (R163, R302, R380). -/
def Msg.isFor (m : Msg) (t : Team) : Bool :=
  m.dev.isNone && m.part == t.part && m.team == t.id.team && (m.launch.isNone || m.launch == some t.id.launch) &&
    (m.cluster.isNone || m.cluster == some t.home) && t.binds.any fun b => b.cls == m.cls

/-- The context that binds a class in a team (R163). -/
def Team.bound (t : Team) (cls : Nat) : Option Binding := t.binds.find? fun b => b.cls == cls

/-! ## The galley -/

/-- The arithmetic clock (R2). -/
def State.ac (s : State) : Nat := s.cc / 2

/-- The lanes of a header's WIDTH (R225). -/
def KHdr.lanes (h : KHdr) : Nat := if h.width = 0 then 1 else 8 * 2 ^ h.width

/-- A caller joins a key; at the declared width the callers move to a launch record and the key is FREE (R170). -/
def keyJoin (k : Key) (c : CtxId) (s : State) : State :=
  let cs := k.callers ++ [c]
  if cs.length < k.hdr.lanes then
    { s with keys := s.keys.map fun x => if x.id = k.id then { k with callers := cs } else x }
  else
    { s with
      keys := s.keys.filter fun x => x.id != k.id
      launchRecs := s.launchRecs ++ [⟨k.part, k.cluster, k.entry, k.ptbase, k.hdr, cs⟩] }

/-- Whether a key serves a waiting caller (R170). -/
def Key.serves (k : Key) (w : KeyWaiter) : Bool :=
  k.part == w.part && k.cluster == w.cluster && k.entry == w.entry && k.ptbase == w.ptbase

/-- GALLEY_JOIN (R170): a caller joins its key, takes a free one, whose timer starts now, or waits in the key queue. -/
def galleyJoin (w : KeyWaiter) (s : State) : State :=
  match s.keys.find? fun k => k.serves w with
  | some k => keyJoin k w.ctx s
  | none =>
    if (s.keys.filter fun k => k.part == w.part && k.cluster == w.cluster).length
        < 32 * (s.quarters w.part w.cluster).length then
      let k : Key := ⟨s.nextId, w.part, w.cluster, w.entry, w.ptbase, w.hdr, s.ac, []⟩
      keyJoin k w.ctx { s with keys := s.keys ++ [k], nextId := s.nextId + 1 }
    else { s with keyQueue := s.keyQueue ++ [w] }

/-- KEY_HANDOVER (R170): while a key is free, the oldest caller in the key queue takes it, and the later callers for the same
entry and context join it in queue order. -/
def keyHandover (part cl : Nat) : Nat → State → State
  | 0, s => s
  | n + 1, s =>
    match s.keyQueue.find? fun w => w.part == part && w.cluster == cl &&
        ((s.keys.any fun k => k.serves w) ||
          decide ((s.keys.filter fun k => k.part == part && k.cluster == cl).length
            < 32 * (s.quarters part cl).length)) with
    | none => s
    | some w => keyHandover part cl n (galleyJoin w { s with keyQueue := s.keyQueue.erase w })

/-- The key queue served after keys of a partition in a cluster became free. -/
def keysFreed (part cl : Nat) (s : State) : State := keyHandover part cl s.keyQueue.length s

/-- CALLER_WITHDRAWAL (R173): a caller leaves its key or the key queue; a key without callers becomes FREE. -/
def withdraw (c : CtxId) (s : State) : State :=
  let k := s.keys.find? fun k => k.callers.contains c
  let s1 := { s with
    keys := (s.keys.map fun k => { k with callers := k.callers.filter (· != c) }).filter fun k => !k.callers.isEmpty
    keyQueue := s.keyQueue.filter fun w => w.ctx != c }
  match k with
  | none => s1
  | some k => keysFreed k.part k.cluster s1

/-! ## The ends of contexts, teams and launches -/

/-- A packet's launch completes (R403). -/
def completeLaunch (u : Nat) (d : Completion) (s : State) : State :=
  { s with pkts := s.pkts.map fun p => if p.launch = some u ∧ p.done = none then { p with done := some d } else p }

/-- A trap's record sent to the error queue of the function whose queue started a launch (R403). -/
def logError (q : QueueId) (t : TrapInfo) (ctxid : Word) (s : State) : State :=
  { s with vfs := s.vfs.map fun v =>
      if v.part = q.part ∧ v.num = q.vf then v.record ⟨t.cause, t.tval, t.tinfo, ctxid⟩ else v }

/-- The counts of a context that ends by a kill retired in the order of R149. -/
def killThreadCounts (cl : Nat) (t : Thread) (s : State) : State :=
  let tl := t.id.tile
  let s1 := match t.msg with | none => s | some m => retireMsg cl tl m s
  let s2 := t.caps.foldl (fun s k => retireCap cl tl k s) s1
  let s3 := (t.inbox ++ t.spillbox).foldl (fun s m => retireMsg cl tl m s) s2
  let mine := s3.msgs.filter fun m =>
    m.heldAt == some t.id ||
      (t.cls == some m.cls && (s3.team? t.team).any fun tm => m.isFor tm)
  mine.foldl (fun s m => dropMsg cl tl m s) s3

/-- The counts that a gang's lanes hold retired in ascending handle order, lane by lane (R149). -/
def killGangCounts (cl : Nat) (g : Gang) (s : State) : State :=
  let s1 := g.caps.foldl (fun s k => retireCap cl g.id.tile k.2 s) s
  (s1.msgs.filter fun m => m.heldAt == some g.id).foldl (fun s m => dropMsg cl g.id.tile m s) s1

/-- A gang's own dirty bytes discarded (R383); those bound to callers are theirs (R46). -/
def discardDirty (c : CtxId) (s : State) : State :=
  { s with wl1 := (s.wl1.map fun l =>
      let bound := (l.groups.filter fun g => !g.heldFor.isEmpty).foldl (fun m g => m ||| g.mask) (0 : BitVec 256)
      l.discard (l.mine c &&& ~~~ bound)).filter fun l => l.valid != 0 }

/-- The bytes that only a killed caller was bound to are discarded (R46, R383). -/
def unbindLines (c : CtxId) (s : State) : State :=
  { s with wl1 := (s.wl1.map fun l =>
      let lost := (l.groups.filter fun g => !g.heldFor.isEmpty && g.heldFor.all (· == c)).foldl (fun m g => m ||| g.mask)
        (0 : BitVec 256)
      let x := l.discard lost
      { x with groups := x.groups.map fun g => { g with heldFor := g.heldFor.filter (· != c) } }).filter fun l => l.valid != 0 }

/-- The owner of what a context that is gone has left in flight. -/
def goneId (c : CtxId) : CtxId := { c with ctx := c.ctx + 2 ^ 64 }

/-- The operations of a context that ends: its fills are discarded (R243, R383); its stores, reductions and atomics in flight
are still performed (R84). -/
def State.leaveOps (s : State) (c : CtxId) : State :=
  { s with ops := (s.ops.filter fun o => o.owner != c || o.kind.isStore).map fun o =>
      if o.owner == c then { o with owner := goneId c, flag := none, acq := false } else o }

/-- A killed or ended context leaves: its fills, its place in the galley and as a caller (R383). -/
def removeContext (c : CtxId) (s : State) : State :=
  let s1 := (unbindLines c (withdraw c s)).leaveOps c
  { s1 with
    threads := s1.threads.filter fun t => t.id != c
    gangs := (s1.gangs.filter fun g => g.id != c).map fun g =>
      { g with callers := g.callers.map fun x => if x = some c then none else x }
    engine := s1.engine.filter fun e => e.1 != c
    launchRecs := (s1.launchRecs.map fun r => { r with callers := r.callers.filter (· != c) }).filter
      fun r => !r.callers.isEmpty
    preReqs := s1.preReqs.filter fun r => r.team.all fun x => x.2 != c
    missq := (s1.missq.map fun m => { m with waiters := m.waiters.filter (· != c) }).filter fun m => m.state != .failed || !m.waiters.isEmpty
    errs := s1.errs.filter fun e => match e.reg with | none => true | some (d, _) => d != c }

/-- A channel in flight squashed and discarded: its folio count is retired, and the destination bytes above the watermark are
undefined (R121). -/
def squashChannel (t : Team) (n : Nat) (s : State) : State :=
  match t.chans[n]? with
  | none => s
  | some ch =>
    if ch.state = .active ∨ ch.state = .saved then
      let s1 := endRaces t.id n (freeSpan t ch ch.wm ch.len s)
      match ch.pt with
      | none => s1
      | some pt => retire t.home t.tile pt s1
    else s

/-- A team's channels squashed and discarded (R121). -/
def squashChannels (t : Team) (s : State) : State :=
  let s1 := (List.range 16).foldl (fun s n => squashChannel t n s) s
  { s1.updTeam t.id fun t => { t with chans := Vector.replicate 16 Channel.idle } with
    copyReqs := s1.copyReqs.filter fun r => r.1 != t.id }

/-- Whether a launch asks for co-resident placement (R176). -/
def Launch.coresident (l : Launch) : Bool := l.hdr.corows != 0

/-- A co-resident launch that went back to its queue is tried again when a team of its partition ends in the cluster in which it
was being placed (R176); one for which no rectangle was found, when one ends in any. -/
def retryWaiting (part cl : Nat) (s : State) : State :=
  { s with launches := s.launches.map fun l =>
      if l.part = part ∧ l.state = .waiting ∧ l.origin.all (fun o => o.1 == cl) then
        { l with state := .placing, startedAt := s.cc, origin := none }
      else l }

/-- A team leaves its tile: what its window-stack and inbox regions hold (R50, R164) a later team can find in bytes of its own
allocation. The regions' bytes that its contexts may have spilled into become free values (log 33). -/
def leaveRegions (t : Team) (ths : List Thread) (s : State) : State :=
  if ths.any fun x => 3 ≤ x.maxDepth || x.cls.isSome then
    (scratchRuns s t.part t.cluster t.tile t.regBase t.regSize).foldl (fun s r => freeBytes .scratch r.1 r.2.2 s) s
  else s

/-- Everything of a team ended by a kill (R383). -/
def killTeam (t : Team) (s : State) : State :=
  let ths := s.threads.filter fun x => x.team == t.id
  let gs := s.gangs.filter fun x => x.team == some t.id
  let s1 := ths.foldl (fun s x => killThreadCounts t.home x s) s
  let s2 := gs.foldl (fun s x => discardDirty x.id (killGangCounts t.home x s)) s1
  let s3 := leaveRegions t ths (squashChannels t s2)
  let s4 := (ths.map (·.id) ++ gs.map (·.id)).foldl (fun s c => removeContext c s) s3
  retryWaiting t.part t.home { s4.updTeam t.id fun t => { t with state := .ended, binds := [] } with
    saved := s4.saved.filter fun v => v.id != t.id || v.byCtxsave }

/-- Seeds and messages still on their way to a launch that ends are retired (R149, R401). -/
def dropLaunchMsgs (u cl tile : Nat) (s : State) : State :=
  (s.msgs.filter fun m => m.launch == some u).foldl (fun s m => dropMsg cl tile m s) s

/-- Killing (R383): every team of the launch ends, teams not yet placed are never placed, and the launch ends with an error
completion that reports the trap, if one was the reason, its TPC and the context (R379, R403). -/
def killLaunch (u : Nat) (why : Option (TrapInfo × Word × Word)) (s : State) : State :=
  match s.launch? u with
  | none => s
  | some l =>
    if l.state = .ended then s
    else
      let ts := s.teams.filter fun t => t.id.launch == u && t.state != .ended
      let s1 := ts.foldl (fun s t => killTeam t s) s
      let s2 := dropLaunchMsgs u ((ts.head?.map (·.home)).getD 0) ((ts.head?.map (·.tile)).getD 0) s1
      let s3 := s2.updLaunch u fun l => { l with state := .ended, killed := some (why.getD (⟨0, 0, 0⟩, 0, 0)) }
      let s4 := { s3 with teams := s3.teams.filter fun t => t.id.launch != u }
      let s5 := completeLaunch u ⟨1, (why.map (·.1.cause)).getD 0, (why.map (·.2.1)).getD 0⟩ s4
      match why with
      | none => s5
      | some w => logError l.queue w.1 w.2.2 s5

/-- The order of results in a launch (R403): by team, scalar contexts before gangs, then by context or gang number. -/
def ExitRec.before (a b : ExitRec) : Bool :=
  a.team < b.team || (a.team == b.team && ((!a.gang && b.gang) || (a.gang == b.gang && a.order ≤ b.order)))

/-- RESULT of a launch (R403): the first exit code, in order, that is not zero. -/
def launchResult (es : List ExitRec) : Word :=
  match (sortBy (fun a b => a.before b) es).find? fun e => e.code != 0 with
  | some e => e.code
  | none => 0

/-- A launch whose teams have all been placed and ended completes (R403). -/
def launchCheck (u : Nat) (s : State) : State :=
  match s.launch? u with
  | none => s
  | some l =>
    if l.state = .started ∧ l.placed = l.teams ∧ (s.teams.filter fun t => t.id.launch == u).all (fun t => t.state == .ended)
    then
      let s1 := dropLaunchMsgs u 0 0 s
      let s2 := s1.updLaunch u fun l => { l with state := .ended }
      completeLaunch u ⟨0, 0, launchResult l.exits⟩
        { s2 with teams := s2.teams.filter fun t => t.id.launch != u }
    else s

/-- TEAM_END (R156): a team whose counted threads and gangs have all exited drains its channels, and ends once they are
DONE. -/
def teamCheck (i : TeamId) (s : State) : State :=
  match s.team? i with
  | none => s
  | some t =>
    if t.state ≠ .running ∧ t.state ≠ .draining then s
    else if (s.threads.any fun x => x.team == i && x.keepsTeam && x.state != .exited) ||
        (s.gangs.any fun x => x.team == some i && x.state != .exited) then s
    else if t.chans.toList.any fun ch => ch.state == .active then s.updTeam i fun t => { t with state := .draining }
    else
      let ths := s.threads.filter fun x => x.team == i
      let gs := s.gangs.filter fun x => x.team == some i
      let s1 := (ths.filter fun x => !x.keepsTeam).foldl (fun s x => killThreadCounts t.home x s) s
      let s2 := (ths.map (·.id) ++ gs.map (·.id)).foldl (fun s c => removeContext c s) s1
      launchCheck i.launch (retryWaiting t.part t.home
        ((leaveRegions t ths s2).updTeam i fun t => { t with state := .ended, binds := [] }))

/-! ## Register windows -/

/-- What the window unit starts after a move between windows (R161): a spill when all four resident windows are in use, a
reload in the oldest resident window with a spilled one below. -/
def Thread.windowUnit (t : Thread) (cc : Nat) (called : Bool) : Thread :=
  if called && t.resident == 4 then { t with winOp := some (.spill, cc) }
  else if !called && 0 < t.spilled && t.spilled == t.outer.length then { t with winOp := some (.reload, cc) }
  else t

/-- A need that the window unit does not yet know of (R161). -/
def Thread.needWindow (t : Thread) (o : WinOp) (cc : Nat) : Thread := { t with winOp := t.winOp.or (some (o, cc)) }

/-- What the window unit of a core does next (R161): the oldest need among its contexts, the lower context of two in one cc. -/
def State.windowTurn (s : State) (c : CtxId) : Option (WinOp × Thread) :=
  let needs := s.threads.filterMap fun t =>
    if t.id.onDevice && t.id.cluster == c.cluster && t.id.tile == c.tile && t.id.core == c.core then
      t.winOp.map fun o => (o.2, o.1, t)
    else none
  (sortBy (fun a b => decide (a.1 < b.1) || (a.1 == b.1 && decide (a.2.2.id.ctx ≤ b.2.2.id.ctx))) needs).head?.map (·.2)

/-- Fills still due to registers that cut chooses no longer reach a register. -/
def cutFills (c : CtxId) (cut : Dst → Bool) (s : State) : State :=
  let f := fun (d : Dst) => if cut d then Dst.gone else d
  { s with
    ops := s.ops.map fun o =>
      if o.owner != c then o
      else { o with kind := match o.kind with
        | .load es => .load (es.map fun e => { e with dst := f e.dst })
        | .fills fs => .fills (fs.map fun x => (f x.1, x.2))
        | .atomic es => .atomic (es.map fun e => { e with dst := f e.dst })
        | .vrdm e ls => .vrdm e (ls.map fun x => (f x.1, x.2))
        | .tlbinv x d => .tlbinv x (f d)
        | .restore x d => .restore x (f d)
        | .graph d => .graph (f d)
        | k => k }
    threads := s.threads.map fun t =>
      if t.id != c then t else { t with monitors := t.monitors.map fun m => { m with dst := f m.dst } } }

/-- Whether a destination lies in a window at a level, above the registers that it shares with its caller (R160). -/
def Dst.inWindow (level : Nat) : Dst → Bool
  | .x l r => (l == level && 16 ≤ r) || level < l
  | _ => false

/-- Whether a destination is a windowed register, at any level (R160). -/
def Dst.windowed : Dst → Bool
  | .x _ r => 8 ≤ r
  | _ => false

/-- Whether a destination lies in one of these lanes. -/
def Dst.inLanes (ls : List Nat) : Dst → Bool
  | .v _ l => ls.contains l
  | .pair _ l => ls.contains l
  | _ => false

/-- Fills of the window that is left (R160). -/
def dropWindowFills (c : CtxId) (level : Nat) (s : State) : State := cutFills c (Dst.inWindow level) s

/-! ## Taking an exception and returning from it -/

/-- Trap entry on a scalar core (R162, R377): the trap registers, the predicate shadow, a free window (the oldest spilled
into the extra record when none is free), INTRAP, and the PC at TVEC. -/
def Thread.enterTrap (t : Thread) (n : Nat) (ti : TrapInfo) (tpc : Word) : Thread :=
  let t1 := if t.resident < 4 then t else { t with spilled := t.spilled + 1, winOp := none }
  { t1.pushWindow n with
    tr := { t.tr with tcause := w64 ti.cause, tval := ti.tval, tpc := tpc, tinfo := ti.tinfo }
    shadow := t.preds, inTrap := true, trapDepth := t.depth, pc := t.tr.tvec, line := none, state := .ready, reenter := false }

/-- Taking an exception in a barrel context (R377); inside a handler, or with TVEC = 0, the context is killed with its team
and launch (R379). -/
def takeTrap (c : CtxId) (ti : TrapInfo) (tpc : Word) (s : State) : State :=
  match s.thread? c with
  | none => s
  | some t =>
    if t.inTrap || t.tr.tvec == 0 then killLaunch t.team.launch (some (ti, tpc, c.word)) s
    else ((forgetMiss c s).bump 16).updThread c fun t => t.enterTrap s.fresh ti tpc

/-- The return that `eret` makes (R240, R377): the trapped window, p1 to p15 from the shadow, INTRAP clear, the PC at TPC. -/
def Thread.leaveTrap (t : Thread) : Thread :=
  { t.popWindow with
    preds := t.shadow, inTrap := false, pc := t.tr.tpc, line := none, issued := t.issued + 1, state := .ready
    sb := t.sb.map fun e => { e with inHandler := false } }

/-! ## How a head of a thread ends -/

/-- The head ends and the next one follows. -/
def endT (c : CtxId) (s : State) : Res := .next (s.updThread c Thread.next)

/-- The head ends and execution goes on at a PC (R208: that line is entered). -/
def jumpT (c : CtxId) (pc : Word) (s : State) : Res :=
  .next (s.updThread c fun t => { t with pc := pc, line := none, issued := t.issued + 1, state := .ready })

/-- The head waits (R11): nothing of it is done yet, and it is tried again when the context is woken. -/
def parkT (c : CtxId) (w : Wait) (s : State) : Res := .next (s.updThread c fun t => { t with state := .parked w })

/-- The head traps; it counts as issued (R272). atNext: the handler resumes after it (R376). -/
def trapT (c : CtxId) (ti : TrapInfo) (atNext : Bool) (s : State) : Res :=
  match s.thread? c with
  | none => .next s
  | some t =>
    .next (takeTrap c ti (if atNext then nextPc t.pc t.line else t.pc)
      (s.updThread c fun t => { t with issued := t.issued + 1, state := .ready }))

/-- Whether a gang was launched by the galley: it belongs to no team (R152). -/
def Gang.galley (g : Gang) : Bool := g.team.isNone

/-- A gang left with no lane in its current group: the next group, or its end (R168, R173, R243). -/
def gangSettle (c : CtxId) (s : State) : State :=
  match s.gang? c with
  | none => s
  | some g =>
    if g.lanes ≠ 0 then s
    else if g.stack ≠ [] then s.updGang c Gang.nextGroup
    else if g.galley then removeContext c s
    else
      match g.team with
      | none => s
      | some i =>
        let code := ((sortBy (fun a b => decide (a.1 ≤ b.1)) g.exitCodes).find? fun x => x.2 != 0).elim 0 (·.2)
        let s1 := (s.updGang c fun g => { g with state := .exited }).updLaunch i.launch fun l =>
          { l with exits := l.exits ++ [⟨i.team, true, g.num, code⟩] }
        teamCheck i { s1 with ops := s1.ops.filter fun o => o.owner != c || o.kind.isStore }

/-! ## Traps of gangs -/

/-- LV and LANE added to an information word (R48, R78, R118, R151, R224). -/
def withLane (i : Word) (lane : Nat) : Word := i ||| w64 (2 ^ 23 + lane % 128 * 2 ^ 16)

/-- Whether the layout of a cause has LV and LANE (R380). -/
def laneLayout (cause : Nat) : Bool :=
  (1 ≤ cause && cause ≤ 3) || (5 ≤ cause && cause ≤ 0x0A) || (0x0C ≤ cause && cause ≤ 0x0E) || cause == 0x13

/-- GANG_TRAP_MESSAGE (R380): a trapping grid gang parks, and its trap message goes to the context that binds class 15 in its
team; with none, the gang is killed. -/
def trapGrid (c : CtxId) (ti : TrapInfo) (lane : Nat) (tpc : Word) (s : State) : State :=
  match s.gang? c with
  | none => s
  | some g =>
    match g.team with
    | none => s
    | some i =>
      let info := if laneLayout ti.cause then withLane ti.tinfo lane else ti.tinfo
      match (s.team? i).bind fun t => t.bound 15 with
      | none => killLaunch i.launch (some ({ ti with tinfo := info }, tpc, c.word)) s
      | some _ =>
        let m : Msg :=
          { id := s.nextId, cls := 15, part := g.part, launch := some i.launch, team := i.team, cluster := none,
            pt := none, loc := ~~~ (0 : Word), folio := 0,
            payload := [w64 ti.cause, ti.tval, tpc, info, w64 g.num, w64 (g.lanes.toNat % 2 ^ 64),
              w64 (g.lanes.toNat / 2 ^ 64)],
            sender := c.word, senderTeam := w64 i.team, heldAt := none, held := false, gang := some c, dev := none, origin := none }
        { (forgetMiss c s).updGang c fun g => { g with state := .parked .trapService } with
          msgs := s.msgs ++ [m], nextId := s.nextId + 1 }

/-- LANE_FAULT at a caller (R310, R378): its x24 to x31 hold its arguments again, and it traps at its `gcall`, a head that
counts as issued (R272). -/
def faultCaller (c : CtxId) (lane : Nat) (ti : TrapInfo) (s : State) : State :=
  match s.thread? c with
  | none => s
  | some t =>
    let s1 := (List.range 8).foldl (fun s i => s.putDst c (t.dst (24 + i)) (t.args.getD i 0)) s
    takeTrap c ⟨0x0B, ti.tval, w64 (ti.cause * 2 ^ 56 + (withLane ti.tinfo lane).toNat % 2 ^ 56)⟩ t.pc
      (s1.updThread c fun t => { t with issued := t.issued + 1 })

/-- A faulting lane of a galley gang is masked and its caller takes LANE_FAULT (R173, R382). -/
def maskLane (c : CtxId) (lane : Nat) (ti : TrapInfo) (s : State) : State :=
  match s.gang? c with
  | none => s
  | some g =>
    let s1 := (forgetMiss c s).updGang c fun g =>
      { g with
        masked := setLane g.masked lane true
        lanes := setLane g.lanes lane false
        stack := (g.stack.map fun x => { x with lanes := setLane x.lanes lane false }).filter fun x => x.lanes != 0
        callers := g.callers.set lane none }
    match g.callers[lane]?.join with
    | none => s1
    | some k => faultCaller k lane ti s1

/-- The faults of lanes of one instruction (R36): a grid gang traps with the lowest and nothing takes effect; in a galley gang
each faulting lane is masked. The second state is the one in which the other lanes have completed. -/
def gangFaults (c : CtxId) (fs : List (Nat × TrapInfo)) (atNext : Bool) (before after : State) : Res :=
  match fs with
  | [] => .next after
  | (l, ti) :: _ =>
    match before.gang? c with
    | none => .next after
    | some g =>
      if g.galley then
        let all := g.lanes &&& ~~~ maskOf (fs.map (·.1)) == 0
        -- a current group that is masked whole merges with nothing (R168)
        let after := if all then after.updGang c fun a => { a with pc := g.pc, lanes := g.lanes, stack := g.stack } else after
        .next (gangSettle c (fs.foldl (fun s f => maskLane c f.1 f.2 s) after))
      else
        .next (trapGrid c ti l (if atNext then nextPc g.pc g.line else g.pc)
          (before.updGang c fun g => { g with issued := g.issued + 1, state := .ready }))

/-- The head of a gang ends, and its current group goes on (R168). -/
def endG (c : CtxId) (s : State) : Res := .next (s.updGang c Gang.next)

/-- The head of a gang waits. -/
def parkG (c : CtxId) (w : Wait) (s : State) : Res := .next (s.updGang c fun g => { g with state := .parked w })

/-- Every active lane of the head faults alike (R224). -/
def trapG (c : CtxId) (ti : TrapInfo) (atNext : Bool) (s : State) : Res :=
  match s.gang? c with
  | none => .next s
  | some g => gangFaults c ((lanesOf g.lanes).map fun l => (l, ti)) atNext s (s.updGang c Gang.next)

/-- The context of the head waits or traps, whichever kind it is. -/
def parkC (c : CtxId) (s : State) : Res := if c.wide then parkG c .retry s else parkT c .retry s

/-- A gang's release is refused for the lanes that made it (R44, R380); the lanes that did not go on in a galley gang. -/
def refusedG (c : CtxId) (act : List Nat) (ti : TrapInfo) (s : State) : Res :=
  gangFaults c (act.map fun l => (l, ti)) false s (s.updGang c Gang.next)

/-- The thread or gang that executes the head; without one there is nothing to execute it. -/
def withCur (s : State) (fT : Thread → Res) (fG : Gang → Res) : Res :=
  match s.cur with
  | none => .fault .noContext
  | some c =>
    match s.thread? c with
    | some t => fT t
    | none =>
      match s.gang? c with
      | some g => fG g
      | none => .fault .noContext

end Sys2Proof.Machine
end

