-- ==== Sys2Proof/Machine/Flags.lean ====
section
/-! DEFINITION. Completion flags (R210, R211) and the conditions that predicates are computed from (R256, R257). -/

namespace Sys2Proof.Machine

/-- The completion flag that a head sets (R205, R207). -/
def flagOf (line : Option Nat) (h : Hd) : Option Nat := line.bind fun l => lineFlag l h.fs

/-- Whether a flag stands at 63, so that its issuer parks (R210). -/
def flagFull (fl : Flags) : Option Nat → Bool
  | none => false
  | some k => decide (63 ≤ fl[k]?.getD 0)

/-- A flag incremented at issue (R210). -/
def flagUp (fl : Flags) : Option Nat → Flags
  | none => fl
  | some k => fl.setIfInBounds k (fl[k]?.getD 0 + 1)

/-- A flag decremented at a completion point (R210). -/
def flagDown (fl : Flags) : Option Nat → Flags
  | none => fl
  | some k => fl.setIfInBounds k (fl[k]?.getD 0 - 1)

/-- The head's flag incremented for an operation that completes later (R210). -/
def State.raise (s : State) (c : CtxId) (f : Option Nat) : State :=
  (s.updThread c fun t => { t with flags := flagUp t.flags f }).updGang c fun g => { g with flags := flagUp g.flags f }

/-- The head's flag decremented (R211); the context tries its line again. -/
def State.lower (s : State) (c : CtxId) (f : Option Nat) : State :=
  ((s.updThread c fun t => { t with flags := flagDown t.flags f }).updGang c
    fun g => { g with flags := flagDown g.flags f })

/-- Whether every flag of a wait mask is zero (R209). -/
def waitHolds (fl : Flags) (mask : Nat) : Bool :=
  (List.range 12).all fun k => !bitAt mask k || fl[k]?.getD 0 == 0

/-- The conditions of `cmp` and `cmpi` (R256). -/
def condInt (c : Cond) (a b : Word) : Bool :=
  match c with
  | .eq => a == b
  | .ne => a != b
  | .ltI => a.slt b
  | .geI => !a.slt b
  | .ltN => a.ult b
  | .geN => !a.ult b

/-- How a comparison's result combines with the destination predicate (R256, R329). -/
def combine (k : Comb) (old c : Bool) : Bool :=
  match k with
  | .set => c
  | .and => old && c
  | .or => old || c

/-- Whether a head executes for a predicate value (R207): GS = 0 when it is true, GS = 1 when it is false. -/
def guardHolds (gs p : Bool) : Bool := p != gs

end Sys2Proof.Machine
end

