-- ==== Sys2Proof/Machine/Operands.lean ====
section
/-! DEFINITION. Operand forms: guards and active lanes (R223), registers outside the allocation (R220), and the register
instructions of both kinds of core in one shape (R231, R232). -/

namespace Sys2Proof.Machine

/-- The guard of a thread's head (R207). -/
def Thread.guard (t : Thread) (h : Hd) : Bool := guardHolds h.gs (t.pred h.gp.toNat)

/-- The lanes of the current group whose guard is true, in ascending order (R223). -/
def Gang.active (g : Gang) (h : Hd) : List Nat := (lanesOf g.lanes).filter fun l => guardHolds h.gs (g.pred h.gp.toNat l)

/-- Whether a lane's x registers lie in the allocation (R220). -/
def Gang.xOk (g : Gang) (rs : List Nat) : Bool := rs.all fun r => r == 0 || 2 * r + 2 ≤ g.vregs

/-- The head in a gang of an instruction that gangs do not execute (R223 steps 7 to 9): a register outside the allocation, then the
trap of every active lane. -/
def notForGang (g : Gang) (h : Hd) (rs : List Nat) (ti : TrapInfo) (s : State) : Res :=
  if !g.xOk rs then trapG g.id (illegalOp g.pc g.line rRegister) false s
  else gangFaults g.id ((g.active h).map fun l => (l, ti)) false s (s.updGang g.id Gang.next)

/-- Whether s registers lie in the allocation (R220). -/
def Gang.sOk (g : Gang) (rs : List Nat) : Bool := rs.all fun r => r ≤ g.sregs

/-- Whether v registers lie in the allocation (R220). -/
def Gang.vOk (g : Gang) (rs : List Nat) : Bool := rs.all fun r => r < g.vregs

/-- The predicates of a lane, p0 as true. -/
def Gang.lanePreds (g : Gang) (l : Nat) : BitVec 16 :=
  (List.range 16).foldl (fun m p => if g.pred p l then m ||| BitVec.ofNat 16 (2 ^ p) else m) 0

/-- What a register instruction reads: its sources in order, the predicates, its PC, and the rounding seed. -/
structure In where
  vals : List Word
  preds : BitVec 16
  pc : Word
  line : Option Nat
  seed : BitVec 32

/-- A source value. -/
def In.v (i : In) (k : Nat) : Word := i.vals.getD k 0

/-- A predicate: p0 reads true (R219). -/
def In.p (i : In) (p : PReg) : Bool := p == 0 || i.preds.getLsbD p.toNat

/-- What a register instruction writes. -/
inductive Wr where
  | x (r : Reg) (v : Word)
  | p (p : PReg) (b : Bool)

/-- The effect of a register instruction: its writes, and the seed after its roundings (R200, R269). -/
abbrev RegFn := In → List Wr × BitVec 32

/-- How many entries a context's receive queue holds, those on their way among them (R277). -/
def State.queued (s : State) (c : CtxId) : Nat :=
  ((s.thread? c).elim 0 (·.recvq.length)) + (s.ops.map fun o => match o.kind with
    | .push d _ => if d == c then 1 else 0
    | k => k.dsts.count (.queue c)).sum

/-- Whether a write to x7 must wait for room in the target's queue (R277). -/
def State.pushBlocked (s : State) (t : Thread) (ds : List Nat) : Bool :=
  t.queueOn && ds.contains 7 && (match s.thread? t.pushTarget with
    | none => false
    | some u => u.state != .exited && 4 ≤ s.queued t.pushTarget)

/-- A thread's register written, x6 and x7 of an enabled neighbour queue as R277 says. -/
def writeX (c : CtxId) (r : Nat) (v : Word) (s : State) : State :=
  match s.thread? c with
  | none => s
  | some t => s.putDst c (t.dst r) v

/-- The writes of a thread's register instruction. -/
def applyT (c : CtxId) (ws : List Wr) (s : State) : State :=
  ws.foldl (fun s w => match w with
    | .x r v => writeX c r.toNat v s
    | .p p b => s.updThread c fun t => t.setPred p.toNat b) s

/-- The writes of one lane. -/
def applyL (g : Gang) (l : Nat) (ws : List Wr) : Gang :=
  ws.foldl (fun g w => match w with
    | .x r v => g.setPair r.toNat l v
    | .p p b => g.setPred p.toNat l b) g

/-- The register writes of a G = 1 instruction. -/
def applyS (g : Gang) (ws : List Wr) : Gang :=
  ws.foldl (fun g w => match w with
    | .x r v => g.setS r.toNat v
    | .p _ _ => g) g

/-- The predicate writes of a G = 1 instruction in one lane (R232). -/
def applyP (g : Gang) (l : Nat) (ws : List Wr) : Gang :=
  ws.foldl (fun g w => match w with
    | .x _ _ => g
    | .p p b => g.setPred p.toNat l b) g

/-- The register writes of a late result, as fills. -/
def lateFills (d : Nat → Dst) (ws : List Wr) : List (Dst × Word) :=
  ws.filterMap fun w => match w with
    | .x r v => if r = 0 then none else some (d r.toNat, v)
    | .p _ _ => none

/-- `ReadReg` of a lane's registers (R11). -/
def Gang.readXs (g : Gang) (rs : List Nat) (l : Nat) : Option (List Word) := rs.mapM fun r => g.readX r l

/-- The flag of a head that can set one (R211). -/
def headFlag (fl : Bool) (line : Option Nat) (h : Hd) : Option Nat := if fl then flagOf line h else none

/-- A late result of a thread in flight (R158): its destination is empty and filled by an operation. -/
def lateT (t : Thread) (fl : Option Nat) (ws : List Wr) (s : State) : State :=
  let fs := lateFills t.dst ws
  (((fs.map (·.1)).foldl (fun s d => s.markEmpty t.id d) s).raise t.id fl).addOp t.id fl (.fills fs)

/-- A register instruction of a thread (R231): the guard, its sources, a destination with a fill pending, its writes, at once or
late. -/
def regT (late fl : Bool) (h : Hd) (srcs dsts : List Nat) (f : RegFn) (t : Thread) (s : State) : Res :=
  if !t.guard h then endT t.id s
  else
    match t.readXs srcs with
    | none => parkT t.id .retry s
    | some (vs, t1) =>
      match s.regErr t.id (srcs.map t.dst) with
      | some e => trapT t.id (machineTrap e.st e.va) false s
      | none =>
        if s.busy t.id (dsts.map t.dst) || s.pushBlocked t dsts || flagFull t.flags (headFlag fl t.line h)
        then parkT t.id .retry s
        else
          let (ws, seed) := f ⟨vs, t.preds, t.pc, t.line, t.srseed⟩
          let s1 := s.setThread { t1 with srseed := seed }
          endT t.id (if late then lateT t (headFlag fl t.line h) ws s1 else applyT t.id ws s1)

/-- The lanes of a register instruction in ascending order, the seed going from one to the next (R269). -/
def regLanes (f : RegFn) : List (Nat × List Word) → Gang → BitVec 32 → List (Nat × List Wr) × BitVec 32
  | [], _, seed => ([], seed)
  | (l, vs) :: ls, g, seed =>
    let (ws, seed1) := f ⟨vs, g.lanePreds l, g.pc, g.line, seed⟩
    let (rest, seed2) := regLanes f ls g seed1
    ((l, ws) :: rest, seed2)

/-- A register instruction in every active lane of a gang (R232). -/
def regG (late fl : Bool) (h : Hd) (srcs dsts : List Nat) (f : RegFn) (g : Gang) (s : State) : Res :=
  if !g.xOk (srcs ++ dsts) then trapG g.id (illegalOp g.pc g.line rRegister) false s
  else
    let act := g.active h
    if act.isEmpty then endG g.id s
    else
      match act.mapM fun l => (g.readXs srcs l).map fun vs => (l, vs) with
      | none => parkG g.id .retry s
      | some rows =>
        let bad := act.filterMap fun l => (s.regErr g.id (srcs.map fun r => xDst r l)).map fun e => (l, machineTrap e.st e.va)
        let ds := act.flatMap fun l => (dsts.filter (· != 0)).map fun r => Dst.pair r l
        if s.busy g.id ds || flagFull g.flags (headFlag fl g.line h) then parkG g.id .retry s
        else
          let good := rows.filter fun x => !bad.any fun b => b.1 == x.1
          let (res, seed) := regLanes f good g g.srseed
          let s1 := s.setGang { g with srseed := seed }
          let s2 :=
            if late then
              let s2 := (good.flatMap fun x => (dsts.filter (· != 0)).map fun r => Dst.pair r x.1).foldl
                (fun s d => s.markEmpty g.id d) s1
              (s2.raise g.id (headFlag fl g.line h)).addOp g.id (headFlag fl g.line h)
                (.fills (res.flatMap fun x => lateFills (fun r => Dst.pair r x.1) x.2))
            else
              res.foldl (fun s x => (s.updGang g.id fun g => applyL g x.1 x.2))
                (if s1.errs.isEmpty then s1 else ds.foldl (fun s d => s.clearErr g.id d) s1)
          gangFaults g.id bad false s (s2.updGang g.id Gang.next)

/-- A register instruction made once for the gang on s registers (R232); the gang waits for a late result, so it is there, and
its flag down again, when the next head issues. -/
def regS (fl : Bool) (h : Hd) (srcs dsts : List Nat) (f : RegFn) (g : Gang) (s : State) : Res :=
  if !g.sOk (srcs ++ dsts) then trapG g.id (illegalOp g.pc g.line rRegister) false s
  else
    match s.regErr g.id (srcs.map .s) with
    | some e => trapG g.id (machineTrap e.st e.va) false s
    | none =>
      if flagFull g.flags (headFlag fl g.line h) then parkG g.id .retry s else
      let vs := srcs.map g.getS
      let (ws, seed) := f ⟨vs, g.lanePreds ((lanesOf g.lanes).headD 0), g.pc, g.line, g.srseed⟩
      let g1 := applyS { g with srseed := seed } ws
      let g2 := (lanesOf g.lanes).foldl (fun g1 l => applyP g1 l (f ⟨vs, g.lanePreds l, g.pc, g.line, g.srseed⟩).1) g1
      endG g.id (dsts.foldl (fun s r => s.clearErr g.id (.s r)) (s.setGang g2))

/-- A register instruction (R231, R232): in the thread, in each active lane, or once for the gang under G = 1. -/
def regInstr (late fl : Bool) (h : Hd) (gbit : Bool) (srcs dsts : List Reg) (f : RegFn) (s : State) : Res :=
  withCur s (regT late fl h (srcs.map (·.toNat)) (dsts.map (·.toNat)) f · s) fun g =>
    if gbit then regS fl h (srcs.map (·.toNat)) (dsts.map (·.toNat)) f g s
    else regG late fl h (srcs.map (·.toNat)) (dsts.map (·.toNat)) f g s

/-- An instruction with one register result of its sources, without rounding. -/
def pureOp (h : Hd) (gbit : Bool) (srcs : List Reg) (xd : Reg) (f : In → Word) (s : State) : Res :=
  regInstr false false h gbit srcs [xd] (fun i => ([.x xd (f i)], i.seed)) s

/-- An instruction with one predicate result. -/
def predOp (h : Hd) (gbit : Bool) (srcs : List Reg) (pd : PReg) (f : In → Bool) (s : State) : Res :=
  regInstr false false h gbit srcs [] (fun i => ([.p pd (f i)], i.seed)) s

end Sys2Proof.Machine
end

