-- ==== Sys2Proof/Machine/Control.lean ====
section
/-! DEFINITION. Control transfer, traps on purpose, waiting and ending (R234 to R243). -/

namespace Sys2Proof.Machine

/-- NOT_ON_CORE at the head at a PC (R222, R224). -/
def notOnCore (pc : Word) (line : Option Nat) : TrapInfo :=
  ⟨0x03, headTail pc line, headInfo (opcAt pc line) (pc.toNat % 64) 0x3E⟩

/-- A gang's branch (R236): the lanes in targets go where they say, the rest of the current group goes on at next. -/
def branchG (g : Gang) (targets : List (Nat × Word)) (s : State) : State :=
  if targets.isEmpty then s.updGang g.id Gang.next
  else
    let rest := (lanesOf g.lanes).filter fun l => !targets.any fun t => t.1 == l
    let groups := targets.map (fun t => (⟨t.2, maskOf [t.1], none⟩ : Group)) ++
      (if rest.isEmpty then [] else [⟨nextPc g.pc g.line, maskOf rest, lineAfter g.pc g.line⟩])
    s.updGang g.id fun g => { g.split groups with issued := g.issued + 1, state := .ready }

/-- `br` (R234). -/
def execBr (h : Hd) (t : Target) (s : State) : Res :=
  withCur s (fun th => if th.guard h then jumpT th.id (Target.pc t th.pc) s else endT th.id s)
    fun g => .next (branchG g ((g.active h).map fun l => (l, Target.pc t g.pc)) s)

/-- `jal` and `jalr` (R234, R237): xd takes the next PC, read after the source; f gives the target. -/
def linkJump (h : Hd) (xd : Reg) (srcs : List Reg) (f : Word → List Word → Word) (s : State) : Res :=
  withCur s
    (fun t =>
      if !t.guard h then endT t.id s
      else
        match t.readXs (srcs.map (·.toNat)) with
        | none => parkT t.id .retry s
        | some (vs, t1) =>
          match s.regErr t.id (srcs.map fun r => t.dst r.toNat) with
          | some e => trapT t.id (machineTrap e.st e.va) false s
          | none =>
            if s.busy t.id [t.dst xd.toNat] || s.pushBlocked t [xd.toNat] then parkT t.id .retry s
            else jumpT t.id (f t.pc vs) (writeX t.id xd.toNat (nextPc t.pc t.line) (s.setThread t1)))
    fun g =>
      if !g.xOk (xd.toNat :: srcs.map (·.toNat)) then trapG g.id (illegalOp g.pc g.line rRegister) false s
      else
        match (g.active h).mapM fun l => (g.readXs (srcs.map (·.toNat)) l).map fun vs => (l, vs) with
        | none => parkG g.id .retry s
        | some rows =>
          if s.busy g.id ((g.active h).map fun l => if xd = 0 then .none else .pair xd.toNat l) then parkG g.id .retry s
          else
            let bad := (g.active h).filterMap fun l =>
              (s.regErr g.id (srcs.map fun r => xDst r.toNat l)).map fun e => (l, machineTrap e.st e.va)
            let good := rows.filter fun x => !bad.any fun b => b.1 == x.1
            let s1 := good.foldl (fun s x => s.putDst g.id (if xd = 0 then .none else .pair xd.toNat x.1)
              (nextPc g.pc g.line)) s
            gangFaults g.id bad false s (branchG g (good.map fun x => (x.1, f g.pc x.2)) s1)

/-- `jal` (R234). -/
def execJal (h : Hd) (xd : Reg) (t : Target) (s : State) : Res := linkJump h xd [] (fun pc _ => Target.pc t pc) s

/-- `jalr` (R234): the target is xa + 64 × lines. -/
def execJalr (h : Hd) (xd xa : Reg) (lines : BitVec 16) (s : State) : Res :=
  linkJump h xd [xa] (fun _ vs => vs.getD 0 0 + lines.signExtend 64 * 64) s

/-- `CallTo` (R235). -/
def callTo (t : Thread) (target : Word) (s : State) : Res :=
  if t.depth ≥ t.maxDepth then trapT t.id ⟨0x0F, w64 t.maxDepth, 0⟩ false s
  else if s.busy t.id [t.dst 23] then parkT t.id .retry s
  else if 4 ≤ t.resident then
    parkT t.id .retry (s.updThread t.id fun t => t.needWindow .spill s.cc)
  else
    .next (((s.putDst t.id (t.dst 23) (nextPc t.pc t.line)).updThread t.id fun t =>
      { (t.pushWindow s.fresh) with
        depth := t.depth + 1, pc := target, line := none, issued := t.issued + 1, state := .ready }.windowUnit s.cc true).bump 16)

/-- `call` (R234, R235). -/
def execCall (h : Hd) (t : Target) (s : State) : Res :=
  withCur s (fun th => if th.guard h then callTo th (Target.pc t th.pc) s else endT th.id s)
    fun g => trapG g.id (notOnCore g.pc g.line) false s

/-- `callr` (R234, R235). -/
def execCallr (h : Hd) (xa : Reg) (s : State) : Res :=
  withCur s
    (fun t =>
      if !t.guard h then endT t.id s
      else
        match t.readX xa.toNat with
        | none => parkT t.id .retry s
        | some (v, t1) =>
          match s.regErr t.id [t.dst xa.toNat] with
          | some e => trapT t.id (machineTrap e.st e.va) false s
          | none =>
            if t.depth ≥ t.maxDepth then callTo t v s
            else match callTo t1 v (s.setThread t1) with
            | .next s1 =>
              -- a call that waits has read nothing yet (R11)
              if (s1.thread? t.id).elim false (fun u => u.state == .parked .retry) then
                .next (s1.updThread t.id fun u => { u with recvq := t.recvq })
              else .next s1
            | r => r)
    fun g => trapG g.id (notOnCore g.pc g.line) false s

/-- The scope of the release that retires these counts (R243): .sy when one lies at effective level SYSTEM, else .dv. -/
def retireScope (s : State) (part : Nat) (pts : List CountPt) : Scope :=
  if pts.any fun p => match p.inst with | .system _ => true | _ => false then .sy
  else if pts.any fun p => (s.part? part).elim false fun q => q.graph.level p.loc == 3 then .sy
  else .dv

/-- Whether a copy that a context issued is still in flight (R92, letter c). -/
def State.copying (s : State) (c : CtxId) : Bool :=
  s.teams.any fun t => t.chans.toList.any fun ch => ch.state == .active && ch.owner == some c

/-- The count points that a thread holds in its current message and its capabilities. -/
def Thread.heldPts (t : Thread) : List CountPt := (t.msg.bind (·.pt)).toList ++ t.caps.map (·.pt)

/-- The end of a thread with an exit code (R243), after its release and waits: its counts retired, its fills discarded. -/
def endThread (t : Thread) (code : Word) (s : State) : State :=
  let s1 := match t.msg with | none => s | some m => retireMsg t.id.cluster t.id.tile m s
  let caps := sortBy (fun a b => decide (a.handle ≤ b.handle)) t.caps
  let s2 := caps.foldl (fun s k => retireCap t.id.cluster t.id.tile k s) s1
  let s3 := s2.updThread t.id fun t =>
    { t with state := .exited, exitCode := code, msg := none, caps := [], monitors := [], recvq := [], line := none,
             issued := t.issued + 1 }
  let s4 := { s3 with ops := s3.ops.filter fun o => o.owner != t.id || o.kind.isStore }
  let s5 := s4.updLaunch t.team.launch fun l =>
    { l with exits := l.exits ++ [⟨t.team.team, false, t.id.core * 16 + t.id.ctx, code⟩] }
  teamCheck t.team s5

/-- `Exit` of a thread (R243). -/
def exitThread (t : Thread) (code : Word) (s : State) : Res :=
  let holds := t.msg.isSome || !t.caps.isEmpty
  let s := settleLoads t.id s
  if holds && s.copying t.id then parkT t.id .retry s
  else
    match releaseThread t.id (if holds then retireScope s t.part t.heldPts else .dv) s with
    | .refused s1 tr => trapT t.id tr false s1
    | .wait s1 => parkT t.id .retry s1
    | .ok s1 =>
      match s1.thread? t.id with
      | none => .next s1
      | some t1 => if t1.unacked ≠ 0 then parkT t.id .retry s1 else .next (endThread t1 code s1)

/-- `ret` (R235): a handler's window has no calling window; at depth 0 the thread exits with 0. -/
def execRet (h : Hd) (s : State) : Res :=
  withCur s
    (fun t =>
      if !t.guard h then endT t.id s
      else if t.inTrap && t.depth == t.trapDepth then trapT t.id (illegalOp t.pc t.line rVariant) false s
      else if t.depth = 0 then exitThread t 0 s
      else if t.outer.length ≤ t.spilled then
        parkT t.id .retry (s.updThread t.id fun t => t.needWindow .reload s.cc)
      else
        let u := t.popWindow
        if !(u.getX 23).full then parkT t.id .retry s
        else
          match s.regErr t.id [u.dst 23] with
          | some e => trapT t.id (machineTrap e.st e.va) false s
          | none =>
            .next ((dropWindowFills t.id t.level s).updThread t.id fun t =>
              { t.popWindow with
                depth := t.depth - 1, pc := (u.getX 23).val, line := none, issued := t.issued + 1,
                state := .ready }.windowUnit s.cc false))
    fun g => trapG g.id (notOnCore g.pc g.line) false s

/-- `loop` (R238). -/
def execLoop (h : Hd) (xa : Reg) (t : Target) (s : State) : Res :=
  withCur s
    (fun th =>
      if !th.guard h then endT th.id s
      else
        match th.readX xa.toNat with
        | none => parkT th.id .retry s
        | some (c, t1) =>
          match s.regErr th.id [th.dst xa.toNat] with
          | some e => trapT th.id (machineTrap e.st e.va) false s
          | none =>
            if c = 0 then endT th.id (s.setThread t1)
            else if s.busy th.id [th.dst xa.toNat] || s.pushBlocked th [xa.toNat] then parkT th.id .retry s
            else
              let s1 := writeX th.id xa.toNat (c - 1) (s.setThread t1)
              if c = 1 then endT th.id s1 else jumpT th.id (Target.pc t th.pc) s1)
    fun g =>
      if !g.xOk [xa.toNat] then trapG g.id (illegalOp g.pc g.line rRegister) false s
      else
        match (g.active h).mapM fun l => (g.readX xa.toNat l).map fun v => (l, v) with
        | none => parkG g.id .retry s
        | some rows =>
          if s.busy g.id ((g.active h).map fun l => xDst xa.toNat l) then parkG g.id .retry s
          else
            let bad := (g.active h).filterMap fun l =>
              (s.regErr g.id [xDst xa.toNat l]).map fun e => (l, machineTrap e.st e.va)
            let live := rows.filter fun x => x.2 != 0 && !bad.any fun b => b.1 == x.1
            let s1 := s.updGang g.id fun g => live.foldl (fun g x => g.setPair xa.toNat x.1 (x.2 - 1)) g
            gangFaults g.id bad false s
              (branchG g ((live.filter fun x => x.2 != 1).map fun x => (x.1, Target.pc t g.pc)) s1)

/-- A trap raised on purpose (R239): TVAL is the code and the handler resumes after the instruction. -/
def trapCode (cause : Nat) (h : Hd) (code : BitVec 16) (s : State) : Res :=
  withCur s (fun t => if t.guard h then trapT t.id ⟨cause, code.zeroExtend 64, 0⟩ true s else endT t.id s)
    fun g => gangFaults g.id ((g.active h).map fun l => (l, ⟨cause, code.zeroExtend 64, 0⟩)) true s
      (s.updGang g.id Gang.next)

/-- `trap` (R239). -/
def execTrap (h : Hd) (code : BitVec 16) (s : State) : Res := trapCode 0x10 h code s

/-- `sysc` (R239). -/
def execSysc (h : Hd) (code : BitVec 16) (s : State) : Res := trapCode 0x11 h code s

/-- `brk` (R239). -/
def execBrk (h : Hd) (code : BitVec 16) (s : State) : Res := trapCode 0x12 h code s

/-- `eret` (R240, R377): outside a handler, at a depth other than the trap depth and on a wide core it traps; it parks until
the trapped window is resident. -/
def execEret (h : Hd) (s : State) : Res :=
  withCur s
    (fun t =>
      if !t.guard h then endT t.id s
      else if !t.inTrap || t.depth != t.trapDepth then trapT t.id (illegalOp t.pc t.line rVariant) false s
      else if t.outer.length ≤ t.spilled then
        parkT t.id .retry (s.updThread t.id fun t => t.needWindow .reload s.cc)
      else .next ((dropWindowFills t.id t.level s).updThread t.id fun t => t.leaveTrap.windowUnit s.cc false))
    fun g => notForGang g h [] (illegalOp g.pc g.line rVariant) s

/-- `nop` (R241). -/
def execNop (_h : Hd) (s : State) : Res := withCur s (fun t => endT t.id s) fun g => endG g.id s

/-- `yield` (R241, R427): on a wide core, with a lane active, it offers the switch of R168 at the next line boundary. -/
def execYield (h : Hd) (s : State) : Res :=
  withCur s (fun t => endT t.id s) fun g =>
    endG g.id (if (g.active h).isEmpty then s else s.updGang g.id fun g => { g with yieldDue := !g.stack.isEmpty })

/-- `sleep` (R242): SLEEPING until 16 × ticks cc have passed, an `ipi`, or a message; a pending `ipi` ends it at once. -/
def execSleep (h : Hd) (ticks : BitVec 16) (s : State) : Res :=
  withCur s
    (fun t =>
      if !t.guard h then endT t.id s
      else if t.ipiPending then endT t.id (s.updThread t.id fun t => { t with ipiPending := false })
      else .next (s.updThread t.id fun t =>
        { t.next with state := .sleeping (if ticks = 0 then none else some (s.cc + 16 * ticks.toNat)) }))
    fun g => trapG g.id (notOnCore g.pc g.line) false s

/-- The active lanes of a gang end with these exit codes (R243): their capabilities are retired in ascending handle order and
their pending fills discarded. -/
def endLanes (g : Gang) (codes : List (Nat × Word)) (s : State) : State :=
  let caps := sortBy (fun a b => decide (a.1 < b.1 ∨ (a.1 = b.1 ∧ a.2.handle ≤ b.2.handle)))
    (g.caps.filter fun k => codes.any fun c => c.1 == k.1)
  let s1 := cutFills g.id (Dst.inLanes (codes.map (·.1))) (caps.foldl (fun s k => retireCap g.id.cluster g.id.tile k.2 s) s)
  let m := maskOf (codes.map (·.1))
  let s2 := s1.updGang g.id fun g =>
    { g with
      exitCodes := g.exitCodes ++ codes, exitedLanes := g.exitedLanes ||| m
      caps := g.caps.filter fun k => !codes.any fun c => c.1 == k.1 }
  let s3 := s2.updGang g.id fun g =>
    if g.lanes &&& ~~~ m = 0 then { g with lanes := 0, issued := g.issued + 1, state := .ready }
    else { g with lanes := g.lanes &&& ~~~ m }.next
  gangSettle g.id s3

/-- `exit` (R243): the thread, or each active lane of a grid gang, ends; in a galley gang it traps. -/
def execExit (h : Hd) (xa : Reg) (s : State) : Res :=
  withCur s
    (fun t =>
      if !t.guard h then endT t.id s
      else
        match t.readX xa.toNat with
        | none => parkT t.id .retry s
        | some (v, _) =>
          match s.regErr t.id [t.dst xa.toNat] with
          | some e => trapT t.id (machineTrap e.st e.va) false s
          | none => exitThread t v s)
    fun g =>
      if !g.xOk [xa.toNat] then trapG g.id (illegalOp g.pc g.line rRegister) false s
      else
        let act := g.active h
        if act.isEmpty then endG g.id s
        else if g.galley then
          gangFaults g.id (act.map fun l => (l, illegalOp g.pc g.line rVariant)) false s (s.updGang g.id Gang.next)
        else
          match act.mapM fun l => (g.readX xa.toNat l).map fun v => (l, v) with
          | none => parkG g.id .retry s
          | some codes =>
            match act.findSome? fun l => (s.regErr g.id [xDst xa.toNat l]).map fun e => (l, machineTrap e.st e.va) with
            | some f => gangFaults g.id [f] false s s
            | none =>
              let pts := (g.caps.filter fun k => act.contains k.1).map fun k => k.2.pt
              let s0 := settleLoads g.id s
              if !pts.isEmpty && s0.copying g.id then parkG g.id .retry s0
              else
                match releaseGang g.id (if pts.isEmpty then .dv else retireScope s g.part pts) s0 with
                | .refused s1 tr => refusedG g.id act tr s1
                | .wait s1 => parkG g.id .retry s1
                | .ok s1 =>
                  if !pts.isEmpty && ((s1.gang? g.id).elim false fun g => g.unacked != 0) then parkG g.id .retry s1
                  else .next (endLanes g codes s1)

end Sys2Proof.Machine
end

