-- ==== Sys2Proof/Machine/Access.lean ====
section
/-! DEFINITION. What the memory instructions share: the checks of R279 for the pieces of one access and for the lanes of a
gang, the start of loads, stores and atomics, and the requests that misses send (R54, R61, R80, R283, R291). -/

namespace Sys2Proof.Machine

/-! ## Checks -/

/-- An access of one or two pieces after its checks (R279). -/
inductive Chks where
  | ok (s : State) (as : List Acc)
  | trap (s : State) (t : TrapInfo)
  | stall (s : State) (xs : List StallAt)
  | wait (s : State)

/-- The virtual addresses of the pieces of an access, with their sizes. -/
def pieces (va : Word) : List Nat → List (Word × Nat)
  | [] => []
  | n :: ns => (va, n) :: pieces (va + w64 n) ns

/-- Checks 4 to 6 of R279 for each piece; a piece outside an allocation or a region faults the access at its own address. Its agent's
earlier operations on the bytes come first (R89). -/
def placeAll (ag : Agent) (va : Word) (k : AccKind) (hostOk : Bool) : List (Word × Nat) → State → Chks
  | [], s => .ok s []
  | (a, n) :: ps, s =>
    match place ag a n k s with
    | .stall s1 xs => .stall s1 xs
    | .wait s1 => .wait s1
    | .trap s1 t => .trap s1 (if t.cause = 0x08 then { t with tval := va } else t)
    | .ok s1 acc l =>
      if acc.host && !hostOk then .trap s1 ⟨0x07, a, memInfo l k rHostOp⟩
      else
        match s1.opsAwait ag.id fun o => o.kind.touches acc n with
        | some s2 => .wait s2
        | none =>
          match placeAll ag va k hostOk ps s1 with
          | .ok s2 as => .ok s2 (acc :: as)
          | r => r

/-- The checks of R279 in their order for an access of several pieces. -/
def checkPieces (ag : Agent) (va : Word) (sizes : List Nat) (align : Nat) (k : AccKind) (hostOk : Bool) (s : State) : Chks :=
  match windowTrap s ag va k with
  | some t => .trap s t
  | none =>
    if va.toNat % align ≠ 0 then .trap s ⟨0x05, va, memInfo 0 k 0⟩
    else
      match (if window va = 0 then none else boundsTrap s ag va sizes.sum k) with
      | some t => .trap s t
      | none =>
        match placeAll ag va k hostOk (pieces va sizes) s with
        | .ok s1 as =>
          match stallsOf s1 ag va sizes.sum with
          | [] => .ok s1 as
          | xs => .stall s1 xs
        | r => r

/-- The lanes of one instruction after their checks (R36): those that passed, those that fault, the stalls, and whether a
lane's translation is still awaited. -/
structure LaneChk where
  s : State
  good : List (Nat × List Acc)
  bad : List (Nat × TrapInfo)
  stall : List StallAt
  wait : Bool

/-- The checks of every lane, in ascending lane order (R36). -/
def checkLanes (ag : Agent) (sizes : List Nat) (align : Nat) (k : AccKind) (hostOk : Bool) :
    List (Nat × Word) → State → LaneChk
  | [], s => ⟨s, [], [], [], false⟩
  | (l, va) :: ls, s =>
    match checkPieces ag va sizes align k hostOk s with
    | .ok s1 as =>
      let r := checkLanes ag sizes align k hostOk ls s1
      { r with good := (l, as) :: r.good }
    | .trap s1 t =>
      let r := checkLanes ag sizes align k hostOk ls s1
      { r with bad := (l, t) :: r.bad }
    | .stall s1 xs =>
      let r := checkLanes ag sizes align k hostOk ls s1
      { r with stall := (xs.map fun x => { x with lane := l }) ++ r.stall }
    | .wait s1 => { checkLanes ag sizes align k hostOk ls s1 with wait := true }

/-- Faults of lanes from several sources, the first of each lane, in ascending lane order. -/
def mergeFaults (a b : List (Nat × TrapInfo)) : List (Nat × TrapInfo) :=
  sortBy (fun x y => decide (x.1 ≤ y.1)) (a ++ b.filter fun x => !a.any fun y => y.1 == x.1)

/-- The lanes that read a register in error (R77). -/
def laneErrs (s : State) (c : CtxId) (dsts : Nat → List Dst) (act : List Nat) : List (Nat × TrapInfo) :=
  act.filterMap fun l => (s.regErr c (dsts l)).map fun e => (l, machineTrap e.st e.va)

/-! ## Requests of misses -/

/-- A load miss asks the home for the line (R61). -/
def loadMiss (c : CtxId) (a : Acc) (s : State) : State :=
  if !c.wide && a.space == .mem && a.cached && (s.l1State c.coreId (a.addr / 32)).isNone
  then sendReq .gets c.coreId c.quarter (a.addr / 32) s else s

/-! ## Loads -/

/-- Whether every one of n bytes is buffered. -/
def sbCovers (sb : List SbEntry) (a n : Nat) : Bool :=
  (List.range n).all fun i => sb.any fun e => e.pa ≤ a + i && a + i < e.pa + 32 && bitAt e.mask.toNat (a + i - e.pa)

/-- Whether a load's value is there for the next slot (R54, R80, R283): own scratchpad, a line that the L1 holds, bytes of
the store buffer, or valid bytes of the wide-core L1. -/
def State.hits (s : State) (c : CtxId) (a : Acc) (n : Nat) : Bool :=
  a.own c || (a.space == .mem && (match s.thread? c with
    | some t => sbCovers t.sb a.addr n || (a.cached && (s.l1State c.coreId (a.addr / 32)).isSome)
    | none => a.cached && (s.wline? c (s.partOf c).1 a.addr).elim false fun l => l.hasAll a.addr n))

/-- The bytes that a load reads now (R86), with whether some come from the store buffer. -/
def loadBytes (c : CtxId) (a : Acc) (n : Nat) (s : State) : State × List Byte × Bool :=
  match s.thread? c with
  | some t =>
    if a.space = .mem then
      let r := sbForward t.sb a.addr 0 (rdBytes s.mem a.addr n)
      (s, r.1, r.2)
    else (s, readSpace s a.space a.addr n, false)
  | none =>
    let (s1, bs) := takeLoad c (s.partOf c).1 a n s
    (s1, bs, false)

/-- A destination filled with a value read from memory; one read from data in error is marked, so that its reader traps
MACHINE (R77). -/
def fillMem (c : CtxId) (a : Acc) (n : Nat) (d : Dst) (w : Word) (s : State) : State :=
  markRead c a n d (s.fill c d w)

/-- Elements with their values taken now where take says so (R84). -/
def takeNow (c : CtxId) (all : Bool) : List LoadElt → State → State × List LoadElt
  | [], s => (s, [])
  | e :: es, s =>
    let (s1, bs, fwd) := loadBytes c e.acc e.size.bytes s
    let e1 := if all || fwd then { e with val := some (e.size.value (leNat bs)) } else e
    let (s2, es1) := takeNow c all es (if all || fwd then s1 else s)
    (s2, e1 :: es1)

/-- Fills that a load's elements make. -/
def fillElts (c : CtxId) (es : List LoadElt) (s : State) : State :=
  es.foldl (fun s e => fillMem c e.acc e.size.bytes e.dst (e.val.getD 0) s) s

/-- A load after its checks (R283): its agent's earlier accesses to the bytes come first (R89), a hit fills its destinations
now, a miss empties them and stays in flight. An acquiring load takes its value before the acquire action (R285). now: the
destination cannot wait (an s register). -/
def startLoad (c : CtxId) (fl : Option Nat) (now : Bool) (acq : Option Scope) (es : List LoadElt) (s : State) : State :=
  let s0 := if acq.isSome then settleRel c s else s
  let s1 := es.foldl (fun s e => settleAt c e.acc e.size.bytes s) s0
  let hit := now || es.all fun e => s1.hits c e.acc e.size.bytes
  let (s2, es1) := takeNow c (hit || acq.isSome) es s1
  let s3 :=
    if hit then fillElts c es1 s2
    else
      let s3 := es1.foldl (fun s e => loadMiss c e.acc (s.markEmpty c e.dst)) s2
      (s3.raise c fl).addOp c fl (.load es1)
  match acq with
  | none => s3
  | some sc => acquire c sc s3

/-- Before a load that takes its values at once (R285): its agent's releases are performed (R89), and the wide-core L1 has the
lines. The second component tells whether it must wait. -/
def loadNow (c : CtxId) (part : Nat) (acq : Option Scope) (es : List LoadElt) (s : State) : State × Bool :=
  match (if acq.isSome then s.relAwait c else none) with
  | some s1 => (s1, true)
  | none => loadRoom c part es s

/-- A thread's load (R278, R281 to R285): ps are its sizes with their destination registers. -/
def loadT (h : Hd) (srcs : List Nat) (addr : List Word → Word) (ps : List (LdSize × Nat)) (align : Nat)
    (acq : Option Scope) (t : Thread) (s : State) : Res :=
  if !t.guard h then endT t.id s
  else
    match t.readXs srcs with
    | none => parkT t.id .retry s
    | some (vs, t1) =>
      match s.regErr t.id (srcs.map t.dst) with
      | some e => trapT t.id (machineTrap e.st e.va) false s
      | none =>
        let dsts := ps.map (·.2)
        if s.busy t.id (dsts.map t.dst) || s.pushBlocked t dsts || flagFull t.flags (flagOf t.line h) then
          parkT t.id .retry s
        else
          match checkPieces t.agent (addr vs) (ps.map (·.1.bytes)) align .load true s with
          | .trap s1 ti => trapT t.id ti false s1
          | .stall s1 xs => parkT t.id (.stall xs) s1
          | .wait s1 => parkT t.id .retry s1
          | .ok s1 as =>
            let s2 := s1.updThread t.id fun u => { u with recvq := t1.recvq }
            let es := (ps.zip as).map fun x =>
              ({ acc := x.2, size := x.1.1, dst := t.dst x.1.2, val := none } : LoadElt)
            match (if acq.isSome then s2.relAwait t.id else none) with
            | some s3 => parkT t.id .retry (s3.updThread t.id fun u => { u with recvq := t.recvq })
            | none => endT t.id (startLoad t.id (flagOf t.line h) false acq es s2)

/-- A load in every active lane of a gang (R278). -/
def loadG (h : Hd) (srcs : List Nat) (addr : List Word → Word) (ps : List (LdSize × Nat)) (align : Nat)
    (acq : Option Scope) (g : Gang) (s : State) : Res :=
  if !g.xOk (srcs ++ ps.map (·.2)) then trapG g.id (illegalOp g.pc g.line rRegister) false s
  else
    let act := g.active h
    if act.isEmpty then endG g.id s
    else
      match act.mapM fun l => (g.readXs srcs l).map fun vs => (l, addr vs) with
      | none => parkG g.id .retry s
      | some rows =>
        let ds := fun l => ps.map fun p => if p.2 = 0 then Dst.none else Dst.pair p.2 l
        if s.busy g.id (act.flatMap ds) || flagFull g.flags (flagOf g.line h) then parkG g.id .retry s
        else
          let mach := laneErrs s g.id (fun l => srcs.map fun r => xDst r l) act
          let r := checkLanes g.agent (ps.map (·.1.bytes)) align .load true
            (rows.filter fun x => !mach.any fun b => b.1 == x.1) s
          let bad := mergeFaults mach r.bad
          if r.wait then parkG g.id .retry r.s
          else if !bad.isEmpty && !g.galley then gangFaults g.id bad false r.s r.s
          else
            match r.stall with
            | x :: xs => parkG g.id (.stall (x :: xs)) r.s
            | [] =>
              let es := r.good.flatMap fun x => (ps.zip (x.2.zip (ds x.1))).map fun y =>
                ({ acc := y.2.1, size := y.1.1, dst := y.2.2, val := none } : LoadElt)
              match (if acq.isSome then loadNow g.id g.part acq es r.s else (r.s, false)) with
              | (s0, true) => parkG g.id .retry s0
              | (s0, false) =>
                let s1 := if es.isEmpty then s0 else startLoad g.id (flagOf g.line h) false acq es s0
                gangFaults g.id bad false s0 (s1.updGang g.id Gang.next)

/-- The stalls of an access that a gang makes once: of its lowest lane. -/
def gangStalls (g : Gang) (xs : List StallAt) : List StallAt := xs.map fun x => { x with lane := (lanesOf g.lanes).headD 0 }

/-- A load made once for the gang into s registers (R278): the gang waits for it, so it is made at once. -/
def loadS (h : Hd) (srcs : List Nat) (addr : List Word → Word) (ps : List (LdSize × Nat)) (align : Nat)
    (acq : Option Scope) (g : Gang) (s : State) : Res :=
  if !g.sOk (srcs ++ ps.map (·.2)) then trapG g.id (illegalOp g.pc g.line rRegister) false s
  else if flagFull g.flags (flagOf g.line h) then parkG g.id .retry s
  else
    match s.regErr g.id (srcs.map .s) with
    | some e => trapG g.id (machineTrap e.st e.va) false s
    | none =>
      match checkPieces g.agent (addr (srcs.map g.getS)) (ps.map (·.1.bytes)) align .load true s with
      | .trap s1 ti => trapG g.id ti false s1
      | .stall s1 xs => parkG g.id (.stall (gangStalls g xs)) s1
      | .wait s1 => parkG g.id .retry s1
      | .ok s1 as =>
        let es := (ps.zip as).map fun x =>
          ({ acc := x.2, size := x.1.1, dst := if x.1.2 = 0 then .none else .s x.1.2, val := none } : LoadElt)
        match loadNow g.id g.part acq es s1 with
        | (s2, true) => parkG g.id .retry s2
        | (s2, false) => endG g.id (startLoad g.id none true acq es s2)

/-- `xd + 1` of `ldp` and `stp` (R284). -/
def pairBad (xd : Reg) : Bool := xd == 31

/-- A load of either kind of core. -/
def loadInstr (h : Hd) (gbit : Bool) (srcs : List Reg) (addr : List Word → Word) (ps : List (LdSize × Nat)) (align : Nat)
    (acq : Option Scope) (s : State) : Res :=
  withCur s (loadT h (srcs.map (·.toNat)) addr ps align acq · s) fun g =>
    if gbit then loadS h (srcs.map (·.toNat)) addr ps align acq g s
    else loadG h (srcs.map (·.toNat)) addr ps align acq g s

/-! ## Stores -/

/-- The error that a partial store meets (R77): it does not cover the sector, or the scratchpad word, that is in error. -/
def State.storeErr (s : State) (a : Acc) (n : Nat) : Option TrapInfo :=
  match s.errAt a.space a.addr n with
  | none => none
  | some e => if a.space = .scratch ∧ a.addr % 8 = 0 ∧ n = 8 then none else some (machineTrap e.st a.va)

/-- A thread's stores after their checks (R283): global data into the store buffer, own scratchpad data at its bank at once
(R80); data on its way to another bank or slice is returned. -/
def storeElts (c : CtxId) : List (Acc × List Byte) → State → State × List (Acc × List Byte)
  | [], s => (s, [])
  | (a, bs) :: es, s =>
    let s1 := settleAt c a bs.length s
    if a.space = .mem then storeElts c es (sbStore c a bs s1)
    else if a.own c then storeElts c es (writeSpace a.space a.addr bs s1)
    else
      let r := storeElts c es s1
      (r.1, (a, bs) :: r.2)

/-- The stores of one instruction of a thread, all or none (R47): with room in the store buffer for every piece. -/
def storeAll (t : Thread) (fl : Option Nat) (rel : Bool) (es : List (Acc × List Byte)) (s : State) : StoreRes :=
  let c := t.id
  let n := sbExtra t ((s.thread? c).bind fun u => u.sb.getLast?) (es.filter fun e => e.1.space == .mem)
  match (if n = 0 then .ok s else sbRoom c n 9 s) with
  | .ok s1 =>
    let (s2, late) := storeElts c es s1
    .ok (if late.isEmpty then s2 else (s2.raise c fl).addOp c fl (.store late) rel)
  | r => r

/-- The pieces of a store's data. -/
def storeData (sizes : List StSize) (vs : List Word) : List (List Byte) :=
  (sizes.zip vs).map fun x => toBytes x.1.bytes x.2.toNat

/-- A thread's store (R278, R281 to R285): srcs are the address registers, data those of its pieces; rel is the release that
a `st.rel` makes first, whose own store leaves the buffer at once (R285). -/
def storeT (h : Hd) (srcs data : List Nat) (addr : List Word → Word) (sizes : List StSize) (align : Nat)
    (rel : Option Scope) (t : Thread) (s : State) : Res :=
  if !t.guard h then endT t.id s
  else
    match t.readXs (srcs ++ data) with
    | none => parkT t.id .retry s
    | some (vs, t1) =>
      match s.regErr t.id ((srcs ++ data).map t.dst) with
      | some e => trapT t.id (machineTrap e.st e.va) false s
      | none =>
        if flagFull t.flags (flagOf t.line h) then parkT t.id .retry s
        else
          match checkPieces t.agent (addr (vs.take srcs.length)) (sizes.map (·.bytes)) align .store true s with
          | .trap s1 ti => trapT t.id ti false s1
          | .stall s1 xs => parkT t.id (.stall xs) s1
          | .wait s1 => parkT t.id .retry s1
          | .ok s1 as =>
            let es := as.zip (storeData sizes (vs.drop srcs.length))
            match es.findSome? fun e => s1.storeErr e.1 e.2.length with
            | some ti => trapT t.id ti false s1
            | none =>
              match (match rel with
                | none => Rel.ok s1
                | some sc => releaseThread t.id sc (settleLoads t.id s1)) with
              | .refused s2 ti => trapT t.id ti false s2
              | .wait s2 => parkT t.id .retry s2
              | .ok s2 =>
                match storeAll t (flagOf t.line h) rel.isSome es s2 with
                | .trap s3 ti => trapT t.id ti false s3
                | .wait s3 => parkT t.id .retry s3
                | .ok s3 =>
                  let s4 := s3.updThread t.id fun u => { u with recvq := t1.recvq }
                  endT t.id (if rel.isSome && es.any (fun e => e.1.space == .mem) then sbPush t.id (fun _ => true) s4 else s4)

/-- One element of a gang's store (R55, R84): global data with C = 1 into the wide-core L1, own scratchpad data at its bank;
anything else is returned, to stay in flight. -/
def gangStoreElt (g : Gang) (a : Acc) (bs : List Byte) (s : State) : State × List (Acc × List Byte) :=
  let s1 := settleAt g.id a bs.length s
  if a.space = .mem && a.cached then (wlStore g.id g.part g.ptbase a bs s1, [])
  else if a.own g.id then (writeSpace a.space a.addr bs s1, [])
  else (s1, [(a, bs)])

/-- A gang's stores in ascending lane order (R280). -/
def gangStores (g : Gang) : List (Nat × Acc × List Byte) → State → State × List (Acc × List Byte)
  | [], s => (s, [])
  | (_, a, bs) :: es, s =>
    let (s1, late) := gangStoreElt g a bs s
    let (s2, rest) := gangStores g es s1
    (s2, late ++ rest)

/-- Room in the wide-core L1 for a gang's stores (R47, R55): the lanes for which only held lines remain, and whether the
instruction must wait for a write-back. -/
def storeRoom (g : Gang) : List (Nat × Acc × List Byte) → State → State × List (Nat × TrapInfo) × Bool
  | [], s => (s, [], false)
  | (l, a, _) :: es, s =>
    if a.space ≠ .mem || !a.cached then storeRoom g es s
    else
      match wlRoom g.id g.part a.addr s with
      | .wait s1 => (s1, [], true)
      | .ok s1 => storeRoom g es s1
      | .full s1 =>
        let (s2, t) := wlFull g.id g.part a.addr s1
        let r := storeRoom g es s2
        (r.1, (t.map fun t => (l, t)).toList ++ r.2.1, r.2.2)

/-- The error that a gang's partial store meets in the dirty data of its own wide-core L1 (R77): one that the instruction's
elements do not cover as a whole sector. -/
def State.wideErr (s : State) (g : Gang) (es : List (Acc × List Byte)) (a : Acc) (n : Nat) : Option TrapInfo :=
  let whole := fun (k : Nat) => (List.range 32).all fun i => es.any fun e =>
    e.1.space == .mem && e.1.cached && e.1.addr ≤ 32 * k + i && 32 * k + i < e.1.addr + e.2.length
  if (s.wline? g.id g.part a.addr).isNone then none
  else (s.errs.find? fun e => e.st == .wideL1 && e.reg.isNone && a.addr / 32 ≤ e.key && e.key ≤ (a.addr + n - 1) / 32 &&
    !whole e.key).map fun e => machineTrap e.st a.va

/-- The errors of the wide-core L1 that whole sectors just stored have ended (R77). -/
def State.wideEnds (s : State) (g : Gang) (es : List (Acc × List Byte)) : State :=
  { s with errs := s.errs.filter fun e => !(e.st == .wideL1 && e.reg.isNone && es.any fun x =>
      x.1.space == .mem && x.1.cached && x.1.addr / 32 == e.key && (s.wline? g.id g.part x.1.addr).isSome) }

/-- The error that one element of a gang's store meets (R77). -/
def State.elemErr (s : State) (g : Gang) (es : List (Acc × List Byte)) (a : Acc) (n : Nat) : Option TrapInfo :=
  if a.space = .mem && a.cached then s.wideErr g es a n else s.storeErr a n

/-- Bytes of a line whose write-back starts without a release (R47, R285, R287), but for those that are held. -/
def WLine.start (m : BitVec 256) (l : WLine) : WLine :=
  (l.groups.filter fun g => g.held.isNone && g.heldFor.isEmpty && (g.mask &&& m) != 0).foldl
    (fun l g => l.regroup { g with mask := g.mask &&& m, go := true }) l

/-- The bytes of a `st.rel`'s own store start to leave the wide-core L1 at once (R47, R285). -/
def pushLines (g : Gang) (es : List (Acc × List Byte)) (s : State) : State :=
  es.foldl (fun s e =>
    if e.1.space ≠ .mem || !e.1.cached then s
    else (s.wline? g.id g.part e.1.addr).elim s fun l => s.modWline l (·.start (accMask e.1.addr e.2.length))) s

/-- What follows a gang's stores: nothing, the place behind a release of a `st.rel`, and at .cl and wider the start of its own
write-back (R285). -/
inductive StoreKind where
  | plain | rel | push
deriving DecidableEq, Repr

/-- The stores of a gang instruction carried out (R280, R283): faults of R47 and R77 as R36 says. -/
def storeLanes (h : Hd) (g : Gang) (k : StoreKind) (bad : List (Nat × TrapInfo)) (es : List (Nat × Acc × List Byte)) (s : State) : Res :=
  let mach := es.filterMap fun e => (s.elemErr g (es.map (·.2)) e.2.1 e.2.2.length).map fun t => (e.1, t)
  let bad1 := mergeFaults bad mach
  if !bad1.isEmpty && !g.galley then gangFaults g.id bad1 false s s
  else
    let r := storeRoom g (es.filter fun e => !mach.any fun b => b.1 == e.1) s
    let bad2 := mergeFaults bad1 r.2.1
    if r.2.2 then parkG g.id .retry r.1
    else
      let ok := es.filter fun e => !bad2.any fun b => b.1 == e.1
      let (s0, late) := gangStores g ok r.1
      let s1 := s0.wideEnds g (ok.map (·.2))
      let s2 := if late.isEmpty then s1 else (s1.raise g.id (flagOf g.line h)).addOp g.id (flagOf g.line h) (.store late)
        (k != .plain)
      gangFaults g.id bad2 false r.1 ((if k = .push then pushLines g (ok.map (·.2)) s2 else s2).updGang g.id Gang.next)

/-- A store in every active lane of a gang. -/
def storeG (h : Hd) (srcs data : List Nat) (addr : List Word → Word) (sizes : List StSize) (align : Nat)
    (rel : Option Scope) (g : Gang) (s : State) : Res :=
  if !g.xOk (srcs ++ data) then trapG g.id (illegalOp g.pc g.line rRegister) false s
  else
    let act := g.active h
    if act.isEmpty then endG g.id s
    else
      match act.mapM fun l => (g.readXs (srcs ++ data) l).map fun vs => (l, vs) with
      | none => parkG g.id .retry s
      | some rows =>
        if flagFull g.flags (flagOf g.line h) then parkG g.id .retry s
        else
          let mach := laneErrs s g.id (fun l => (srcs ++ data).map fun r => xDst r l) act
          let r := checkLanes g.agent (sizes.map (·.bytes)) align .store true
            ((rows.filter fun x => !mach.any fun b => b.1 == x.1).map fun x => (x.1, addr (x.2.take srcs.length))) s
          let bad := mergeFaults mach r.bad
          if r.wait then parkG g.id .retry r.s
          else if !bad.isEmpty && !g.galley then gangFaults g.id bad false r.s r.s
          else
            match r.stall with
            | x :: xs => parkG g.id (.stall (x :: xs)) r.s
            | [] =>
              match (match rel with
                | none => Rel.ok r.s
                | some sc => releaseGang g.id sc (settleLoads g.id r.s)) with
              | .refused s2 ti => refusedG g.id act ti s2
              | .wait s2 => parkG g.id .retry s2
              | .ok s2 =>
                let es := r.good.flatMap fun x =>
                  (x.2.zip (storeData sizes (((rows.find? fun y => y.1 == x.1).elim [] (·.2)).drop srcs.length))).map
                    fun y => (x.1, y.1, y.2)
                storeLanes h g (rel.elim .plain fun sc => if sc.clOrWider then .push else .rel) bad es s2

/-- A store made once for the gang from s registers (R278). -/
def storeS (h : Hd) (srcs data : List Nat) (addr : List Word → Word) (sizes : List StSize) (align : Nat)
    (rel : Option Scope) (g : Gang) (s : State) : Res :=
  if !g.sOk (srcs ++ data) then trapG g.id (illegalOp g.pc g.line rRegister) false s
  else if flagFull g.flags (flagOf g.line h) then parkG g.id .retry s
  else
    match s.regErr g.id ((srcs ++ data).map .s) with
    | some e => trapG g.id (machineTrap e.st e.va) false s
    | none =>
      match checkPieces g.agent (addr (srcs.map g.getS)) (sizes.map (·.bytes)) align .store true s with
      | .trap s1 ti => trapG g.id ti false s1
      | .stall s1 xs => parkG g.id (.stall (gangStalls g xs)) s1
      | .wait s1 => parkG g.id .retry s1
      | .ok s1 as =>
        match (match rel with
          | none => Rel.ok s1
          | some sc => releaseGang g.id sc (settleLoads g.id s1)) with
        | .refused s2 ti => refusedG g.id (lanesOf g.lanes) ti s2
        | .wait s2 => parkG g.id .retry s2
        | .ok s2 =>
          let es := as.zip (storeData sizes (data.map g.getS))
          match es.findSome? fun e => s2.elemErr g es e.1 e.2.length with
          | some ti => trapG g.id ti false s2
          | none =>
            match storeRoom g (es.map fun e => (0, e)) s2 with
            | (s3, _, true) => parkG g.id .retry s3
            | (s3, (_, ti) :: _, false) => trapG g.id ti false s3
            | (s3, [], false) =>
              let (s0, late) := gangStores g (es.map fun e => (0, e)) s3
              let s3 := s0.wideEnds g es
              let s4 := if late.isEmpty then s3 else (s3.raise g.id (flagOf g.line h)).addOp g.id (flagOf g.line h) (.store late) rel.isSome
              endG g.id (if rel.elim false Scope.clOrWider then pushLines g es s4 else s4)

/-- A store of either kind of core. -/
def storeInstr (h : Hd) (gbit : Bool) (srcs data : List Reg) (addr : List Word → Word) (sizes : List StSize) (align : Nat)
    (rel : Option Scope) (s : State) : Res :=
  withCur s (storeT h (srcs.map (·.toNat)) (data.map (·.toNat)) addr sizes align rel · s) fun g =>
    if gbit then storeS h (srcs.map (·.toNat)) (data.map (·.toNat)) addr sizes align rel g s
    else storeG h (srcs.map (·.toNat)) (data.map (·.toNat)) addr sizes align rel g s

/-- [xa + imm] (R278). -/
def baseImm (imm : BitVec 16) (vs : List Word) : Word := vs.getD 0 0 + imm.signExtend 64

/-- [xa + xb << s] (R281). -/
def baseIdx (s : BitVec 3) (vs : List Word) : Word := vs.getD 0 0 + vs.getD 1 0 <<< s.toNat

end Sys2Proof.Machine
end

