-- ==== Sys2Proof/Machine/Atomic.lean ====
section
/-! DEFINITION. Atomics and reductions (R289 to R293), fences (R294), monitors (R295, R296). -/

namespace Sys2Proof.Machine

/-- The operations that a host frame performs as PCIe AtomicOps (R293). -/
def hostAmo (op : AmoOp) (isRed : Bool) : Bool :=
  match op with
  | .add => true
  | .swap => !isRed
  | _ => false

def Ord.hasRel (o : Ord) : Bool :=
  match o with
  | .rel => true
  | .ar => true
  | _ => false

def Ord.hasAcq (o : Ord) : Bool :=
  match o with
  | .acq => true
  | .ar => true
  | _ => false

/-- An atomic instruction as its shared meaning needs it. cas: a compare value is read as well; red: nothing is returned. -/
structure AmoReq where
  op : AmoOp
  cas : Bool
  red : Bool
  sc : Scope
  rel : Bool
  acq : Bool
  sz8 : Bool
  off : BitVec 16
  xd : Nat
  srcs : List Nat

def AmoReq.bytes (q : AmoReq) : Nat := if q.sz8 then 8 else 4

/-- Whether a host frame can carry the operation out (R293). -/
def AmoReq.hostOk (q : AmoReq) : Bool := if q.cas then true else hostAmo q.op q.red

/-- The element of an atomic at a checked access; vs are xa, xb and, for `cas`, xc (R291). -/
def AmoReq.elt (q : AmoReq) (a : Acc) (dst : Dst) (vs : List Word) : AmoElt :=
  let near := a.cached && !q.sc.dvOrWider
  if q.cas then { near := near, acc := a, op := .swap, cmp := some (vs.getD 1 0), operand := vs.getD 2 0, sz8 := q.sz8, dst := dst }
  else { near := near, acc := a, op := q.op, cmp := none, operand := vs.getD 1 0, sz8 := q.sz8, dst := dst }

/-- The agent's own buffered bytes under an atomic are performed first (Row 1 of R89); a refusal traps as at a release, since
the atomic cannot go before them (log 12). -/
def drainUnder (c : CtxId) (a : Acc) (n : Nat) (s : State) : Rel :=
  let s1 := settleAt c a n s
  if a.space ≠ .mem then .ok s1
  else
    match s1.thread? c with
    | some t =>
      if t.sb.any fun e => e.pa == a.addr / 32 * 32 && (List.range n).any fun i => bitAt e.mask.toNat (a.addr % 32 + i) then
        releaseThread c .dv s1
      else .ok s1
    | none =>
      match s1.wline? c (s1.partOf c).1 a.addr with
      | none => .ok s1
      | some l =>
        let m := accMask a.addr n
        wlDrain (wlOrder ((l.groups.filter fun g => g.heldFor.isEmpty && (g.mask &&& m) != 0).map fun g =>
          (l, { g with mask := g.mask &&& m }))) s1

/-- Every element's bytes performed first. -/
def drainAll (c : CtxId) (n : Nat) : List Acc → State → Rel
  | [], s => .ok s
  | a :: as, s =>
    match drainUnder c a n s with
    | .ok s1 => drainAll c n as s1
    | r => r

/-- None when atomics can be performed at issue, as an acquiring one is (R291), one of a scalar thread on its own scratchpad (R80),
and one that fills an s register: after its agent's releases (R89), with each unit ready (R71, R72). -/
def amoAwait (c : CtxId) (q : AmoReq) (now : Bool) (es : List AmoElt) (s : State) : Option State :=
  match (if q.acq then s.relAwait c else none) with
  | some s1 => some s1
  | none => if q.acq || now then s.await c.wideCore c.quarter (es.flatMap AmoElt.needs) else none

/-- Atomics sent to their units (R291): their destinations empty, the flag raised; an acquiring one, and one of a scalar thread
on its own scratchpad (R80), is performed at once. -/
def startAmo (c : CtxId) (q : AmoReq) (fl : Option Nat) (es : List AmoElt) (s : State) : State :=
  let own := !c.wide && es.all fun e => e.acc.own c
  if q.red then
    if own then
      let s1 := (performAmos c es s).1
      if fl.isNone then s1 else (s1.raise c fl).addOp c fl .flagDue
    else
      ((s.updThread c fun t => { t with pend := t.pend + 1 }).updGang c fun g => { g with pend := g.pend + 1 }).raise c fl
        |>.addOp c fl (.red es) q.rel
  else
    let s1 := es.foldl (fun s e => (s.markEmpty c e.dst).clearErr c e.dst) (if q.acq then settleRel c s else s)
    let s2 := s1.raise c fl
    if q.acq || own then
      let (s3, rs) := performAmos c es s2
      let s4 := s3.addOp c fl (.fills rs)
      if q.acq then acquire c q.sc s4 else s4
    else s2.addOp c fl (.atomic es) q.rel

/-- Atomics for which their instruction waits, at units that are not ready (R71, R232, R291): sent, with their destinations empty
and the flag raised; the context tries on until they are performed. -/
def holdAmo (c : CtxId) (q : AmoReq) (fl : Option Nat) (es : List AmoElt) (s : State) : State :=
  ((es.foldl (fun s e => (s.markEmpty c e.dst).clearErr c e.dst) s).raise c fl).addOp c fl (.atomic es) q.rel true

/-- The atomics that a context waits for, once all of them are performed: their replies. -/
def State.heldReplies (s : State) (c : CtxId) : Option (List (Dst × Word)) :=
  ((s.ops.filter fun (o : Op) => o.owner == c && o.acq).mapM fun (o : Op) => match o.kind with
    | OpKind.fills fs => some fs
    | _ => none).map List.flatten

/-- The context waits for its atomics no more: their replies are on their way. -/
def releaseAmo (c : CtxId) (s : State) : State :=
  { s with ops := s.ops.map fun o => if o.owner = c then { o with acq := false } else o }

/-- The end of an atomic that its thread or gang has waited for (R291): an acquire when it is one. -/
def finishAmo (c : CtxId) (q : AmoReq) (s : State) : State :=
  let s1 := releaseAmo c s
  if q.acq then acquire c q.sc s1 else s1

/-- Atomics performed at once, with their results. -/
def amoNow (c : CtxId) (q : AmoReq) (es : List AmoElt) (s : State) : State × List Word :=
  let (s1, rs) := performAmos c es (if q.acq then settleRel c s else s)
  (if q.acq then acquire c q.sc s1 else s1, rs.map (·.2))

/-- An atomic of a thread (R291). -/
def amoT (h : Hd) (q : AmoReq) (t : Thread) (s : State) : Res :=
  if !t.guard h then endT t.id s
  else
    match t.readXs q.srcs with
    | none => parkT t.id .retry s
    | some (vs, t1) =>
      match s.regErr t.id (q.srcs.map t.dst) with
      | some e => trapT t.id (machineTrap e.st e.va) false s
      | none =>
        if (!q.red && (s.busy t.id [t.dst q.xd] || s.pushBlocked t [q.xd])) || (q.red && 32 ≤ t.pend) ||
            flagFull t.flags (flagOf t.line h) then parkT t.id .retry s
        else
          match checkAccess t.agent (vs.getD 0 0 + q.off.signExtend 64) q.bytes q.bytes .atomic q.hostOk s with
          | .trap s1 ti => trapT t.id ti false s1
          | .stall s1 xs => parkT t.id (.stall xs) s1
          | .wait s1 => parkT t.id .retry s1
          | .ok s1 a _ =>
            match (if q.red then s1.storeErr a q.bytes else none) with
            | some ti => trapT t.id ti false s1
            | none =>
              match (if q.rel then releaseThread t.id q.sc (settleLoads t.id s1) else .ok s1) with
              | .refused s2 ti => trapT t.id ti false s2
              | .wait s2 => parkT t.id .retry s2
              | .ok s2 =>
                match drainUnder t.id a q.bytes s2 with
                | .refused s3 ti => trapT t.id ti false s3
                | .wait s3 => parkT t.id .retry s3
                | .ok s3 =>
                  let e := q.elt a (if q.red then .none else t.dst q.xd) vs
                  match amoAwait t.id q false [e] s3 with
                  | some s4 =>
                    parkT t.id .retry (if (s3.relAwait t.id).isSome then s4
                      else holdAmo t.id q (flagOf t.line h) [e] (s4.updThread t.id fun u => { u with recvq := t1.recvq }))
                  | none =>
                    endT t.id (startAmo t.id q (flagOf t.line h) [e] (s3.updThread t.id fun u => { u with recvq := t1.recvq }))

/-- An atomic in every active lane of a gang, performed in ascending lane order on one location (R280). -/
def amoG (h : Hd) (q : AmoReq) (g : Gang) (s : State) : Res :=
  if !g.xOk (q.xd :: q.srcs) then trapG g.id (illegalOp g.pc g.line rRegister) false s
  else
    let act := g.active h
    if act.isEmpty then endG g.id s
    else
      match act.mapM fun l => (g.readXs q.srcs l).map fun vs => (l, vs) with
      | none => parkG g.id .retry s
      | some rows =>
        let ds := fun l => if q.red || q.xd = 0 then Dst.none else Dst.pair q.xd l
        if s.busy g.id (act.map ds) || (q.red && 64 ≤ g.pend) || flagFull g.flags (flagOf g.line h) then parkG g.id .retry s
        else
          let mach := laneErrs s g.id (fun l => q.srcs.map fun r => xDst r l) act
          let r := checkLanes g.agent [q.bytes] q.bytes .atomic q.hostOk
            ((rows.filter fun x => !mach.any fun b => b.1 == x.1).map fun x => (x.1, x.2.getD 0 0 + q.off.signExtend 64)) s
          let late := r.good.filterMap fun x => (if q.red then (x.2.head?.bind fun a => r.s.storeErr a q.bytes) else none).map
            fun t => (x.1, t)
          let bad := mergeFaults (mergeFaults mach r.bad) late
          if r.wait then parkG g.id .retry r.s
          else if !bad.isEmpty && !g.galley then gangFaults g.id bad false r.s r.s
          else
            match r.stall with
            | x :: xs => parkG g.id (.stall (x :: xs)) r.s
            | [] =>
              match (if q.rel then releaseGang g.id q.sc (settleLoads g.id r.s) else .ok r.s) with
              | .refused s2 ti => refusedG g.id act ti s2
              | .wait s2 => parkG g.id .retry s2
              | .ok s2 =>
                let good := r.good.filter fun x => !late.any fun b => b.1 == x.1
                match drainAll g.id q.bytes (good.flatMap (·.2)) s2 with
                | .refused s3 ti => refusedG g.id act ti s3
                | .wait s3 => parkG g.id .retry s3
                | .ok s3 =>
                  let es := good.flatMap fun x => x.2.map fun a =>
                    q.elt a (ds x.1) ((rows.find? fun y => y.1 == x.1).elim [] (·.2))
                  match amoAwait g.id q false es s3 with
                  | some s4 =>
                    if (s3.relAwait g.id).isSome then parkG g.id .retry s4
                    else gangFaults g.id bad false s3 ((holdAmo g.id q (flagOf g.line h) es s4).updGang g.id fun g =>
                      { g with state := .parked .retry })
                  | none =>
                    let s4 := if es.isEmpty then s3 else startAmo g.id q (flagOf g.line h) es s3
                    gangFaults g.id bad false s3 (s4.updGang g.id Gang.next)

/-- An atomic made once for the gang on s registers: it waits for its result (R232). -/
def amoS (h : Hd) (q : AmoReq) (g : Gang) (s : State) : Res :=
  if !g.sOk (q.xd :: q.srcs) then trapG g.id (illegalOp g.pc g.line rRegister) false s
  else if (q.red && 64 ≤ g.pend) || flagFull g.flags (flagOf g.line h) then parkG g.id .retry s
  else
    match s.regErr g.id (q.srcs.map .s) with
    | some e => trapG g.id (machineTrap e.st e.va) false s
    | none =>
      let vs := q.srcs.map g.getS
      match checkAccess g.agent (vs.getD 0 0 + q.off.signExtend 64) q.bytes q.bytes .atomic q.hostOk s with
      | .trap s1 ti => trapG g.id ti false s1
      | .stall s1 xs => parkG g.id (.stall (gangStalls g xs)) s1
      | .wait s1 => parkG g.id .retry s1
      | .ok s1 a _ =>
        match (if q.red then s1.storeErr a q.bytes else none) with
        | some ti => trapG g.id ti false s1
        | none =>
          match (if q.rel then releaseGang g.id q.sc (settleLoads g.id s1) else .ok s1) with
          | .refused s2 ti => refusedG g.id (lanesOf g.lanes) ti s2
          | .wait s2 => parkG g.id .retry s2
          | .ok s2 =>
            match drainUnder g.id a q.bytes s2 with
            | .refused s3 ti => refusedG g.id (lanesOf g.lanes) ti s3
            | .wait s3 => parkG g.id .retry s3
            | .ok s3 =>
              if q.red then endG g.id (startAmo g.id q (flagOf g.line h) [q.elt a .none vs] s3)
              else
                let d := if q.xd = 0 then Dst.none else .s q.xd
                match amoAwait g.id q true [q.elt a d vs] s3 with
                | some s4 =>
                  parkG g.id .retry (if q.acq && (s3.relAwait g.id).isSome then s4 else holdAmo g.id q none [q.elt a d vs] s4)
                | none =>
                  let (s4, ws) := amoNow g.id q [q.elt a d vs] (s3.clearErr g.id d)
                  endG g.id (s4.putRaw g.id d (ws.headD 0))

/-- The replies for which a context waited in one state, no longer in flight in another. -/
def takeHeldOps (c : CtxId) (was s : State) : State :=
  { s with ops := s.ops.filter fun o => !(o.owner == c && was.ops.any fun x => x.id == o.id && x.acq) }

/-- A context inside an atomic that it waits for tries to end it: a thread or a gang's lanes leave the replies on their way, a
gang's s register takes its value (R232, R291). -/
def resumeAmo (c : CtxId) (sreg : Bool) (q : AmoReq) (s : State) : Res :=
  match s.heldReplies c with
  | none => if c.wide then parkG c .retry s else parkT c .retry s
  | some fs =>
    let s1 := finishAmo c q s
    if !c.wide then endT c s1
    else if !sreg then endG c s1
    else endG c (fs.foldl (fun s f => s.putRaw c f.1 f.2) (takeHeldOps c s s1))

/-- An atomic of either kind of core. -/
def amoInstr (h : Hd) (gbit : Bool) (q : AmoReq) (s : State) : Res :=
  withCur s (fun t => if s.amoHeld t.id && t.guard h then resumeAmo t.id false q s else amoT h q t s)
    fun g => if s.amoHeld g.id then resumeAmo g.id gbit q s else if gbit then amoS h q g s else amoG h q g s

/-- `amo` (R289 to R291). -/
def execAmo (h : Hd) (op : AmoOp) (sc : Scope) (ord : Ord) (sz8 : Bool) (r : R3) (off : BitVec 16) (s : State) : Res :=
  amoInstr h r.g { op := op, cas := false, red := false, sc := sc, rel := Ord.hasRel ord, acq := Ord.hasAcq ord, sz8 := sz8,
                   off := off, xd := r.xd.toNat, srcs := [r.xa.toNat, r.xb.toNat] } s

/-- `cas` (R291): xb is the expected value, xc the new one. -/
def execCas (h : Hd) (sc : Scope) (ord : Ord) (sz8 : Bool) (r : R3) (xc : Reg) (off : BitVec 16) (s : State) : Res :=
  amoInstr h r.g { op := .swap, cas := true, red := false, sc := sc, rel := Ord.hasRel ord, acq := Ord.hasAcq ord, sz8 := sz8,
                   off := off, xd := r.xd.toNat, srcs := [r.xa.toNat, r.xb.toNat, xc.toNat] } s

/-- `red` (R291, R292). -/
def execRed (h : Hd) (op : AmoOp) (sc : Scope) (rel : Bool) (sz8 : Bool) (xa xb : Reg) (g : Bool) (off : BitVec 16)
    (s : State) : Res :=
  amoInstr h g { op := op, cas := false, red := true, sc := sc, rel := rel, acq := false, sz8 := sz8, off := off, xd := 0,
                 srcs := [xa.toNat, xb.toNat] } s

/-! ## Fences -/

/-- Whether the matrix operations that a gang issued have not all ended (R92, letter m). -/
def Gang.matBusy (g : Gang) : Bool := g.matOps.any fun m => !m.ended

/-- `fence` (R92, R294). -/
def execFence (h : Hd) (sc : Scope) (pred succ : FSet) (s : State) : Res :=
  withCur s
    (fun t =>
      if !t.guard h then endT t.id s
      else if pred.c && s.copying t.id then parkT t.id .retry s
      else
        match s.opsAwait t.id fun o => (pred.l && o.kind.isLoad) || (succ.l && o.rel) with
        | some s1 => parkT t.id .retry s1
        | none =>
          let s1 := if pred.l then settleLoads t.id s else s
          match (if pred.s then releaseThread t.id sc s1 else .ok s1) with
          | .refused s2 ti => trapT t.id ti false s2
          | .wait s2 => parkT t.id .retry s2
          | .ok s2 => endT t.id (if succ.l then acquire t.id sc s2 else s2))
    fun g =>
      if (g.active h).isEmpty then endG g.id s
      else if (pred.c && s.copying g.id) || (pred.m && g.matBusy) then parkG g.id .retry s
      else
        match s.opsAwait g.id fun o => (pred.l && o.kind.isLoad) || (succ.l && o.rel) with
        | some s1 => parkG g.id .retry s1
        | none =>
          let s1 := if pred.l then settleLoads g.id s else s
          match (if pred.s then releaseGang g.id sc s1 else .ok s1) with
          | .refused s2 ti => refusedG g.id (g.active h) ti s2
          | .wait s2 => parkG g.id .retry s2
          | .ok s2 => endG g.id (if succ.l then acquire g.id sc s2 else s2)

/-! ## Monitors -/

/-- Whether a monitor can be armed at an access (R295). -/
def watchable (a : Acc) : Bool := a.space != .mem || (a.cached && !a.host)

/-- `watch` (R295). -/
def execWatch (h : Hd) (r : RI) (s : State) : Res :=
  withCur s
    (fun t =>
      if !t.guard h then endT t.id s
      else
        match t.readX r.xa.toNat with
        | none => parkT t.id .retry s
        | some (v, t1) =>
          match s.regErr t.id [t.dst r.xa.toNat] with
          | some e => trapT t.id (machineTrap e.st e.va) false s
          | none =>
            if s.busy t.id [t.dst r.xd.toNat] || s.pushBlocked t [r.xd.toNat] then parkT t.id .retry s
            else
              match checkAccess t.agent (baseImm r.imm [v]) 1 1 .load true s with
              | .trap s1 ti => trapT t.id ti false s1
              | .stall s1 xs => parkT t.id (.stall xs) s1
              | .wait s1 => parkT t.id .retry s1
              | .ok s1 a _ =>
                let s2 := s1.updThread t.id fun u => { u with recvq := t1.recvq }
                if 4 ≤ t.monitors.length || !watchable a then endT t.id (s2.putDst t.id (t.dst r.xd.toNat) 0)
                else endT t.id ((s2.markEmpty t.id (t.dst r.xd.toNat)).updThread t.id fun u =>
                  { u with monitors := u.monitors ++ [⟨a.space, a.addr / 32, t.dst r.xd.toNat⟩] }))
    fun g => notForGang g h [r.xd.toNat, r.xa.toNat] (illegalOp g.pc g.line rVariant) s

/-- `unwatch` (R296). -/
def execUnwatch (h : Hd) (xd : Reg) (s : State) : Res :=
  withCur s
    (fun t =>
      if !t.guard h then endT t.id s
      else if s.pushBlocked t [xd.toNat] then parkT t.id .retry s
      else if t.monitors.any fun m => m.dst == t.dst xd.toNat then
        endT t.id ((s.updThread t.id fun u =>
          { u with monitors := u.monitors.filter fun m => m.dst != t.dst xd.toNat }).putDst t.id (t.dst xd.toNat) 0)
      else endT t.id s)
    fun g => if g.xOk [xd.toNat] then endG g.id s else trapG g.id (illegalOp g.pc g.line rRegister) false s

end Sys2Proof.Machine
end

