-- ==== Sys2Proof/Machine/Copy.lean ====
section
/-! DEFINITION. Copies and channels: `cpy`, `cpyg`, `chset`, `chwm` (R297 to R300), and what the copy agents do with them
(R105 to R119). -/

namespace Sys2Proof.Machine

/-! ## Channels -/

/-- TINFO of COPY_BOUNDS and COPY_FAULT (R118), without a lane. -/
def copyInfo (errpos ch reason : Nat) : Word := w64 (errpos * 2 ^ 32 + ch * 2 ^ 8 + reason)

/-- COPY_BOUNDS (R118). -/
def copyBounds (ch reason : Nat) (tval : Word) : TrapInfo := ⟨0x09, tval, copyInfo 0 ch reason⟩

def rChannel : Nat := 0x10
def rLength : Nat := 0x11
def rPinned : Nat := 0x12
def rCopyAlloc : Nat := 0x13
def rRegs : Nat := 0x14

def ChState.code (s : ChState) : Nat :=
  match s with
  | .idle => 0
  | .active => 1
  | .done => 2
  | .saved => 3

/-- STAT (R109). -/
def Channel.stat (c : Channel) : Word :=
  w64 (c.errpos * 2 ^ 32 + b2n c.fc * 2 ^ 15 + b2n c.gath * 2 ^ 14 + c.dkind * 2 ^ 12 + b2n c.err * 2 ^ 11 +
    c.errkind * 2 ^ 8 + c.state.code)

/-- A channel of a team. -/
def State.chan? (s : State) (i : TeamId) (n : Nat) : Option Channel := (s.team? i).bind fun t => t.chans[n]?

/-- The state with one channel changed. -/
def State.updChan (s : State) (i : TeamId) (n : Nat) (f : Channel → Channel) : State :=
  s.updTeam i fun t => { t with chans := t.chans.setIfInBounds n (f (t.chans[n]?.getD Channel.idle)) }

/-- The bytes of an element size; none for the invalid code (R297). -/
def Esz.bytes (e : Esz) : Option Nat :=
  match e with
  | .w4 => some 4
  | .w8 => some 8
  | .w16 => some 16
  | .w32 => some 32
  | .w64 => some 64
  | .w128 => some 128
  | .w256 => some 256
  | .bad => none

/-- The number of bursts (R116). -/
def Channel.bursts (c : Channel) : Nat := (c.len + 255) / 256

/-! ## Checks at issue -/

/-- A copy as its issue checks need it (R112). -/
structure CopyReq where
  gath : Bool
  e : Option Nat
  v : Bool
  fc : Bool
  ch : Nat
  base : Word
  src : Word
  len : Word
  table : Word
  nsrc : Nat

/-- The bytes of the contiguous source or of the index list. -/
def CopyReq.srcLen (q : CopyReq) : Nat := if q.gath then 4 * (q.len.toNat / q.e.getD 4) else q.len.toNat

/-- The operand addresses with their access kinds (R112). -/
def CopyReq.operands (q : CopyReq) : List (Word × AccKind) :=
  (if q.v then [] else [(q.base, .store)]) ++ [(q.src, .load)] ++ (if q.gath then [(q.table, .load)] else [])

/-- Row 4 of R112: the values that must be multiples, with what of and their kinds, LEN last. -/
def CopyReq.aligns (q : CopyReq) (width : Nat) : List (Word × Nat × AccKind) :=
  let e := if q.gath then q.e.getD 4 else 4
  (if q.v then [] else [(q.base, e, .store)]) ++ [(q.src, 4, .load)] ++ (if q.gath then [(q.table, e, .load)] else []) ++
    [(q.len, if q.v then 4 * width else 4, .load)]

/-- Whether a scratchpad operand runs beyond its team's allocation. -/
def beyondAlloc (s : State) (ag : Agent) (va : Word) (n : Nat) : Bool :=
  window va == 0xFE && n != 0 &&
    ((ag.team.bind fun i => s.teamOn i.launch ag.id.cluster (scratchTile ag.id.tile va)).elim true fun t =>
      t.scrSize < bits va.toNat 19 0 + n)

/-- Rows 2 to 9 of R112 in their order. vregs and width are those of a gang. DESIGN CHOICE: of several operands that fail one
row, the first in the order of `operands` is reported, since the table says only "that address" (log 86). -/
def copyChecks (s : State) (ag : Agent) (q : CopyReq) (vregs width : Nat) : Option TrapInfo :=
  if 2 ^ 24 < q.len.toNat || (q.gath && (q.e.isNone || q.len.toNat % q.e.getD 4 ≠ 0 || q.nsrc = 0)) then
    some (copyBounds q.ch rLength q.len)
  else
    match q.operands.find? fun o => window o.1 ≠ 0 && window o.1 ≠ 0xFE && window o.1 ≠ 0xFD with
    | some o => some ⟨0x06, o.1, memInfo 0 o.2 rBadWindow⟩
    | none =>
      match (q.aligns width).find? fun a => a.1.toNat % a.2.1 ≠ 0 with
      | some a => some ⟨0x05, a.1, memInfo 0 a.2.2 0⟩
      | none =>
        match q.operands.find? fun o => window o.1 == 0xFD with
        | some o => some (copyBounds q.ch rPinned o.1)
        | none =>
          match q.operands.findSome? fun o => windowTrap s ag o.1 o.2 with
          | some t => some t
          | none =>
            if !q.v && beyondAlloc s ag q.base q.len.toNat then
              some (copyBounds q.ch rCopyAlloc (q.base + q.len - 1))
            else if beyondAlloc s ag q.src q.srcLen then
              some ⟨0x08, q.src + w64 q.srcLen - 1, memInfo 0 .load rOutsideAlloc⟩
            else if q.v && q.len ≠ 0 && vregs < q.base.toNat + q.len.toNat / (4 * width) then
              some (copyBounds q.ch rRegs q.base)
            else none

/-- The pages that n bytes from va on touch, by their first touched address. -/
def pagesOf (va : Word) (n : Nat) : List Word :=
  if n = 0 then []
  else (List.range ((va.toNat + n - 1) / 65536 - va.toNat / 65536 + 1)).map fun i =>
    if i = 0 then va else w64 ((va.toNat / 65536 + i) * 65536)

/-- How the translation of a copy's pages ends: all translated, a trap, or a wait for a walk (R35). -/
inductive PagesRes where
  | ok (s : State) (as : List (AccKind × Acc))
  | trap (s : State) (t : TrapInfo)
  | wait (s : State)

/-- Row 10 of R112: pages translated in their order. -/
def translatePages (ag : Agent) : List (AccKind × Word) → State → PagesRes
  | [], s => .ok s []
  | (k, va) :: vas, s =>
    match checkPlain ag va 1 1 k true s with
    | .trap s1 t => .trap s1 t
    | .stall s1 _ => .wait s1
    | .wait s1 => .wait s1
    | .ok s1 a _ =>
      match translatePages ag vas s1 with
      | .ok s2 as => .ok s2 ((k, a) :: as)
      | r => r

/-- The pages of a global operand; those of a scratchpad operand are not translated. -/
def operandPages (va : Word) (n : Nat) : List Word := if window va = 0xFE then [] else pagesOf va n

/-- The pages of a copy's destination, and of its contiguous source or index list, in ascending address order (R112). -/
def CopyReq.pages (q : CopyReq) : List (AccKind × Word) :=
  sortBy (fun a b => decide (a.2.toNat ≤ b.2.toNat))
    ((if q.v then [] else operandPages q.base q.len.toNat).map (fun va => (.store, va)) ++
      (operandPages q.src q.srcLen).map fun va => (.load, va))

/-- The accesses of one kind among translated pages. -/
def pagesFor (k : AccKind) (as : List (AccKind × Acc)) : List Acc := (as.filter fun x => x.1 == k).map (·.2)

/-- DKIND (R109). DESIGN CHOICE: global pages in frames of both kinds give 2, and LEN = 0, which translates no page, gives 1
(log 86). -/
def dkindOf (v : Bool) (base : Word) (ts : List Acc) : Nat :=
  if v then 3 else if window base = 0xFE then 0 else if ts.any (·.host) then 2 else 1

/-- The checks of a folio that a copy carries, or an `fhold` names, in their order (R124, R143, R298, R307): its location is
installed, the folio well formed and of its depth, its closure not announced. -/
def folioCheck (p : Partition) (i : Inst) (loc : Nat) (f : Word) : Option TrapInfo :=
  let tr := fun (r : Nat) => some (⟨0x0E, f, folioInfo loc 0 r⟩ : TrapInfo)
  match p.graph.locs[loc]? with
  | none => tr 0x22
  | some l =>
    if !folioOk f then tr 0x22
    else if folioDepth f ≠ l.depth then tr 0x21
    else if l.deleted || p.closed i loc f then tr 0x26
    else none

/-- The count point of a location for a context (R131). -/
def State.pointFor (s : State) (ag : Agent) (loc : Nat) (f : Word) : CountPt :=
  ⟨instAt ((s.part? ag.part).elim 0 (·.graph.level loc)) ag.part ag.id.cluster ag.team, loc, f⟩

/-! ## Issue -/

/-- How the issue of a copy ends: it waits, traps, or is accepted. -/
inductive CopyRes where
  | park (s : State)
  | trap (s : State) (t : TrapInfo)
  | ok (s : State)

/-- The destination registers of a copy into vector registers (R106). -/
def copyRegs (q : CopyReq) (width : Nat) : List Dst :=
  (List.range (q.len.toNat / (4 * width))).flatMap fun r =>
    (List.range width).map fun l => Dst.v (q.base.toNat + r) l

/-- The places of the copy request queue of a quarter that are taken (R105). -/
def State.copyPlaces (s : State) (c : CtxId) : Nat :=
  (s.copyReqs.filter fun r => match s.team? r.1 with
    | none => false
    | some t => t.cluster == c.cluster && t.tile == c.tile &&
      (t.chans[r.2]?.bind (·.owner)).elim false fun o => o.quarter == c.quarter).length

/-- A copy accepted (R298): its count, its destination registers empty, the channel ACTIVE; LEN = 0 is DONE at once (R111). -/
def startCopy (ag : Agent) (i : TeamId) (q : CopyReq) (width : Nat) (ptbase : Word) (pt : Option CountPt)
    (td ts : List Acc) (s : State) : State :=
  let c := ag.id
  let s1 := match pt with | none => s | some p => s.addChange c.cluster c.tile p 1 [c]
  let s2 := if q.v then (copyRegs q width).foldl (fun s d => s.markEmpty c d) s1 else s1
  let empty := q.len = 0
  let s3 := s2.updChan i q.ch fun ch =>
    { ch with
      base := q.base, len := q.len.toNat, wm := 0, bm := 0, state := if empty then .done else .active, err := false,
      errkind := 0, errpos := 0, dkind := dkindOf q.v q.base td, gath := q.gath, fc := q.fc,
      src := if q.gath then .gather q.src q.table (q.e.getD 4) q.nsrc else .flat q.src,
      vdst := q.v, owner := some c, ptbase := ptbase, pt := if empty then none else pt, sent := [], moved := [], tdst := td,
      tsrc := ts, runs := [], stalls := [] }
  if empty then (match pt with | none => s3 | some p => retire c.cluster c.tile p s3)
  else { s3 with copyReqs := s3.copyReqs ++ [(i, q.ch)] }

/-- The checks and the acceptance of a copy (R112, R298). -/
def issueCopy (ag : Agent) (ptbase : Word) (q : CopyReq) (vregs width : Nat) (s : State) : CopyRes :=
  match ag.team with
  | none => .trap s (copyBounds 0 rChannel 0)
  | some i =>
    match s.chan? i q.ch with
    | none => .trap s (copyBounds 0 rChannel 0)
    | some ch =>
      if ch.state = .active then .park s
      else if q.v && !ag.id.wide then .trap s (copyBounds q.ch rRegs 0)
      else
        let q := { q with table := ch.table, nsrc := ch.nsrc }
        match copyChecks s ag q vregs width with
        | some t => .trap s t
        | none =>
          match translatePages ag q.pages s with
          | .trap s1 t => .trap s1 t
          | .wait s1 => .park s1
          | .ok s2 as =>
            let pt := s2.pointFor ag ch.loc ch.folio
            let pre := match q.fc, s2.part? ag.part with
              | true, some p =>
                match folioCheck p pt.inst ch.loc ch.folio with
                | some t => some t
                | none => if s2.countFull p pt 0 then some ⟨0x0E, ch.folio, folioInfo ch.loc 0 0x23⟩ else none
              | _, _ => none
            match pre with
            | some t => .trap s2 t
            | none =>
              if 16 ≤ s2.copyPlaces ag.id || (q.v && s2.busy ag.id (copyRegs q width)) ||
                  (q.fc && (s2.part? ag.part).elim false fun p => !s2.countRoom p [pt]) then .park s2
              else .ok (startCopy ag i q width ptbase (if q.fc then some pt else none) (pagesFor .store as) (pagesFor .load as) s2)

/-- `cpy` and `cpyg`: the registers are those of the thread, or s registers of the gang (R297). -/
def copyInstr (h : Hd) (gath : Bool) (e : Option Nat) (v f : Bool) (ch : BitVec 5) (r : R3) (s : State) : Res :=
  let req := fun (vs : List Word) =>
    ({ gath := gath, e := e, v := v, fc := f, ch := ch.toNat, base := vs.getD 0 0, src := vs.getD 1 0, len := vs.getD 2 0,
       table := 0, nsrc := 0 } : CopyReq)
  withCur s
    (fun t =>
      if !t.guard h then endT t.id s
      else
        match t.readXs [r.xd.toNat, r.xa.toNat, r.xb.toNat] with
        | none => parkT t.id .retry s
        | some (vs, t1) =>
          match s.regErr t.id ([r.xd, r.xa, r.xb].map fun x => t.dst x.toNat) with
          | some e => trapT t.id (machineTrap e.st e.va) false s
          | none =>
            if flagFull t.flags (flagOf t.line h) then parkT t.id .retry s
            else
              match issueCopy t.agent t.ptbase (req vs) 0 1 s with
              | .park s1 => parkT t.id .retry s1
              | .trap s1 ti => trapT t.id ti false s1
              | .ok s1 => endT t.id (s1.updThread t.id fun u => { u with recvq := t1.recvq }))
    fun g =>
      if !r.g then trapG g.id (illegalOp g.pc g.line rVariant) false s
      else if !g.sOk [r.xd.toNat, r.xa.toNat, r.xb.toNat] then trapG g.id (illegalOp g.pc g.line rRegister) false s
      else if flagFull g.flags (flagOf g.line h) then parkG g.id .retry s
      else
        match s.regErr g.id ([r.xd, r.xa, r.xb].map fun x => Dst.s x.toNat) with
        | some e => trapG g.id (machineTrap e.st e.va) false s
        | none =>
          match issueCopy g.agent g.ptbase (req [g.getS r.xd.toNat, g.getS r.xa.toNat, g.getS r.xb.toNat]) g.vregs g.width s with
          | .park s1 => parkG g.id .retry s1
          | .trap s1 ti => trapG g.id ti false s1
          | .ok s1 => endG g.id s1

/-- `cpy` (R297, R298). -/
def execCpy (h : Hd) (v f : Bool) (ch : BitVec 5) (r : R3) (s : State) : Res := copyInstr h false none v f ch r s

/-- `cpyg` (R297, R298). -/
def execCpyg (h : Hd) (esz : Esz) (v f : Bool) (ch : BitVec 5) (r : R3) (s : State) : Res :=
  copyInstr h true (Esz.bytes esz) v f ch r s

/-! ## `chset` and `chwm` -/

/-- `chset` (R299): one field written while the channel is not ACTIVE. -/
def chset (h : Hd) (ch : BitVec 5) (xa : Reg) (gbit : Bool) (f : Word → Channel → Channel) (s : State) : Res :=
  let go := fun (team : Option TeamId) (v : Word) (park : State → Res) (trap : TrapInfo → Res) (fin : State → Res) =>
    match team.bind fun i => (s.chan? i ch.toNat).map fun c => (i, c) with
    | none => trap (copyBounds 0 rChannel 0)
    | some (i, c) => if c.state = .active then park s else fin (s.updChan i ch.toNat (f v))
  withCur s
    (fun t =>
      if !t.guard h then endT t.id s
      else
        match t.readX xa.toNat with
        | none => parkT t.id .retry s
        | some (v, t1) =>
          match s.regErr t.id [t.dst xa.toNat] with
          | some e => trapT t.id (machineTrap e.st e.va) false s
          | none => go (some t.team) v (parkT t.id .retry) (trapT t.id · false s) fun s1 =>
              endT t.id (s1.updThread t.id fun u => { u with recvq := t1.recvq }))
    fun g =>
      if !gbit then trapG g.id (illegalOp g.pc g.line rVariant) false s
      else if !g.sOk [xa.toNat] then trapG g.id (illegalOp g.pc g.line rRegister) false s
      else
        match s.regErr g.id [.s xa.toNat] with
        | some e => trapG g.id (machineTrap e.st e.va) false s
        | none => go g.team (g.getS xa.toNat) (parkG g.id .retry) (trapG g.id · false s) (endG g.id)

/-- `chset.fill` (R299). -/
def execChsetFill (h : Hd) (ch : BitVec 5) (xa : Reg) (g : Bool) (s : State) : Res :=
  chset h ch xa g (fun v c => { c with fill := v }) s

/-- `chset.table` (R299). -/
def execChsetTable (h : Hd) (ch : BitVec 5) (xa : Reg) (g : Bool) (s : State) : Res :=
  chset h ch xa g (fun v c => { c with table := v }) s

/-- `chset.nsrc` (R299). -/
def execChsetNsrc (h : Hd) (ch : BitVec 5) (xa : Reg) (g : Bool) (s : State) : Res :=
  chset h ch xa g (fun v c => { c with nsrc := v.toNat % 2 ^ 32 }) s

/-- `chset.folio` (R299). -/
def execChsetFolio (h : Hd) (ch : BitVec 5) (xa : Reg) (loc : BitVec 10) (g : Bool) (s : State) : Res :=
  chset h ch xa g (fun v c => { c with folio := v, loc := loc.toNat }) s

/-- `chwm` and `chwm.st` (R300): an acquire at .cl that returns a field of the channel. -/
def chwmInstr (h : Hd) (xd : Reg) (ch : BitVec 5) (gbit : Bool) (f : Channel → Word) (s : State) : Res :=
  withCur s
    (fun t =>
      if !t.guard h then endT t.id s
      else
        match s.chan? t.team ch.toNat with
        | none => trapT t.id (copyBounds 0 rChannel 0) false s
        | some c =>
          if s.busy t.id [t.dst xd.toNat] || s.pushBlocked t [xd.toNat] then parkT t.id .retry s
          else
            match s.relAwait t.id with
            | some s1 => parkT t.id .retry s1
            | none => endT t.id (writeX t.id xd.toNat (f c) (acquire t.id .cl (settleLoads t.id s))))
    fun g =>
      let c? := g.team.bind fun i => s.chan? i ch.toNat
      if gbit then
        if !g.sOk [xd.toNat] then trapG g.id (illegalOp g.pc g.line rRegister) false s
        else
          match c? with
          | none => trapG g.id (copyBounds 0 rChannel 0) false s
          | some c =>
            match s.relAwait g.id with
            | some s1 => parkG g.id .retry s1
            | none => endG g.id ((acquire g.id .cl s).putDst g.id (if xd = 0 then .none else .s xd.toNat) (f c))
      else if !g.xOk [xd.toNat] then trapG g.id (illegalOp g.pc g.line rRegister) false s
      else
        match c? with
        | none => gangFaults g.id ((g.active h).map fun l => (l, copyBounds 0 rChannel 0)) false s (s.updGang g.id Gang.next)
        | some c =>
          let ds := (g.active h).map fun l => if xd = 0 then Dst.none else Dst.pair xd.toNat l
          if ds.isEmpty then endG g.id s
          else if s.busy g.id ds then parkG g.id .retry s
          else
            match s.relAwait g.id with
            | some s1 => parkG g.id .retry s1
            | none => endG g.id (ds.foldl (fun s d => s.putDst g.id d (f c)) (acquire g.id .cl s))

/-- `chwm` (R300). -/
def execChwm (h : Hd) (xd : Reg) (ch : BitVec 5) (g : Bool) (s : State) : Res := chwmInstr h xd ch g (fun c => w64 c.wm) s

/-- `chwm.st` (R300). -/
def execChwmSt (h : Hd) (xd : Reg) (ch : BitVec 5) (g : Bool) (s : State) : Res := chwmInstr h xd ch g Channel.stat s

/-! ## Bursts -/

/-- Whether burst k of a channel has landed (R116). -/
def Channel.landed (c : Channel) (k : Nat) : Bool := k < c.wm / 256 || bitAt c.bm (k - c.wm / 256) || c.wm == c.len

/-- BAD_ELEMENT (R113, R114): ERRPOS is the lowest bad position. -/
def Channel.bad (c : Channel) (j kind : Nat) : Channel :=
  if !c.err || j < c.errpos then { c with err := true, errpos := j, errkind := kind } else { c with err := true }

/-- The agent under which a copy's addresses are translated (R112, R113): the issuing cluster is that on which its team stands
or stood. -/
def chanAgent (t : Team) (c : Channel) : Agent :=
  ⟨{ c.owner.getD ⟨t.home, t.tile, false, 0, 0⟩ with cluster := t.home, tile := t.tile }, t.part, some t.id, c.ptbase, false⟩

/-- n bytes of a copy's scratchpad operand, on whatever tile the team that holds them stands (R16, R17, R103); none where they
do not lie in an allocation (R18). -/
def copyScratch (s : State) (t : Team) (va : Word) (n : Nat) : Option Acc :=
  if scratchBitsBad va then none
  else
    (s.copyTeam t va).bind fun x =>
      if x.scrSize < bits va.toNat 19 0 + n then none
      else some ⟨.scratch, scratchKey s x.part x.cluster x.tile (x.scrBase + bits va.toNat 19 0), va, false, false⟩

/-- The physical access of an address of an operand, under the translation made at issue (R112). -/
def accAt (s : State) (t : Team) (pages : List Acc) (va : Word) : Option Acc :=
  if window va = 0xFE then copyScratch s t va 4
  else
    (pages.find? fun p => p.va.toNat / 65536 == va.toNat / 65536).map fun p =>
      { p with addr := p.addr + (va.toNat - p.va.toNat), va := va }

/-- The agent that owns the bytes at a place (R70, R105). -/
def Acc.agent (a : Acc) : CopyAgent :=
  match a.space with
  | .scratch => .port (a.addr / 2 ^ 26) (a.addr / 2 ^ 20 % 64)
  | _ => if hostBase ≤ a.addr then .cxl else .streamer (stackOf a.addr) (streamerOf a.addr)

/-- The runs of n source bytes from va on (R105): none crosses a 4 KiB granule, and so none a 64 KiB page; bytes of one operand
lie in one scratchpad. -/
def runsOf (s : State) (t : Team) (c : Channel) (k : Nat) (va : Word) (n : Nat) : List Run :=
  let lo := va.toNat
  (List.range ((lo + n + 4095) / 4096 - lo / 4096)).filterMap fun i =>
    let a := max lo ((lo / 4096 + i) * 4096)
    let b := min (lo + n) ((lo / 4096 + i + 1) * 4096)
    (accAt s t c.tsrc (w64 a)).map fun x => ⟨k, w64 a, b - a, x.agent⟩

/-- The runs of a burst: of its contiguous source, or of its part of the index list (R105, R113; DEDUCED, log 87). -/
def burstRuns (s : State) (t : Team) (c : Channel) (k : Nat) : List Run :=
  let n := min 256 (c.len - 256 * k)
  match c.src with
  | .none => []
  | .flat src => runsOf s t c k (src + w64 (256 * k)) n
  | .gather list _ e _ => runsOf s t c k (list + w64 (256 * k / e * 4)) ((n + e - 1) / e * 4)

/-- Whether the drain limit of a saved team has passed, in nominal cc of the device time base (R119, R120). -/
def State.drainOver (s : State) (t : Team) : Bool :=
  t.state == .saved && (s.part? t.part).all fun p => t.savedAt + p.drainlim ≤ s.time

/-- BURST_SEND (R105, R116): the runs of the next burst in order go to their owning agents, while it lies within 64 of the
watermark; the place in the request queue is free once all are sent. -/
def execBurstSend (t : TeamId) (ch k : Nat) (s : State) : Res :=
  match s.team? t, s.chan? t ch with
  | some tm, some c =>
    if c.state = .active ∧ k < c.bursts ∧ k < c.wm / 256 + 64 ∧ ¬ c.sent.contains k ∧ ¬ s.drainOver tm ∧
        (List.range k).all (fun j => c.sent.contains j || j < c.wm / 256) then
      let s1 := s.updChan t ch fun c => { c with sent := c.sent ++ [k], runs := c.runs ++ burstRuns s tm c k }
      if k + 1 = c.bursts then .next ({ s1 with copyReqs := s1.copyReqs.filter fun r => r != (t, ch) })
      else .next s1
    else .next s
  | _, _ => .next s

/-- The bursts that hold a buffer of a streamer: they have been read and have not landed (R106). A buffer belongs to a cluster
and a quarter. -/
def State.buffersHeld (s : State) (stack n cl quarter : Nat) : Nat :=
  (s.teams.flatMap fun t => t.chans.toList.flatMap fun c =>
    if t.home = cl ∧ (c.owner.elim 0 (·.quarter)) = quarter then
      c.moved.filter fun k => c.runs.any fun r => r.burst == k && r.agent == .streamer stack n
    else []).length

/-- Whether each streamer that a burst needs has a buffer left of the 16 for the cluster and quarter of its issue (R106). -/
def State.buffersFree (s : State) (t : Team) (c : Channel) (k : Nat) : Bool :=
  c.runs.all fun r => r.burst != k || match r.agent with
    | .streamer st n => s.buffersHeld st n t.home (c.owner.elim 0 (·.quarter)) < 16
    | _ => true

/-- The stalls of a source read of n bytes at the team's other channels (R117). -/
def readStalls (t : Team) (ch k : Nat) (va : Word) (n : Nat) : List CopyStall :=
  let a := canonVa t.tile va
  (List.range 16).filterMap fun o =>
    match t.chans[o]? with
    | none => none
    | some x =>
      let b := canonVa t.tile x.base
      if o ≠ ch ∧ x.state = .active ∧ ¬ x.vdst ∧ a < b + x.len ∧ b + x.wm < a + n then
        some ⟨k, o, max a (b + x.wm), min (a + n) (b + x.len), false, true⟩
      else none

/-- What one word of a burst gives: bytes for the destination at an offset, or a bad position, with the uncorrectable error
that made it so. -/
inductive Piece where
  | data (off : Nat) (bs : List Byte)
  | bad (pos kind : Nat) (err : Option (ErrMark × Word))

/-- Whether bytes from va on were lost to a channel that released its stall in error (R117). -/
def lostTo (t : Team) (c : Channel) (k : Nat) (va : Word) (n : Nat) : Bool :=
  let a := canonVa t.tile va
  c.stalls.any fun x => x.burst == k && x.bad && x.lo < a + n && a < x.hi

/-- Four source bytes at an access, for the destination offset o at position j (R115, R117): each word that a bad sector or a
lost range would have supplied is left untouched, and no other. -/
def wordPiece (s : State) (t : Team) (c : Channel) (k j o : Nat) (va : Word) (a : Option Acc) : Piece :=
  if lostTo t c k va 4 then .bad j 4 none
  else
    match a with
    | none => .bad j 2 none
    | some a =>
      match s.errAt a.space a.addr 4 with
      | some m => .bad j 3 (some (m, va))
      | none => .data o (readSpace s a.space a.addr 4)

/-- An element of a table in memory or in a scratchpad, checked as it is reached (R18, R27, R113). -/
def elementAt (t : Team) (c : Channel) (va : Word) (e : Nat) (s : State) : State × Option Acc :=
  if window va = 0xFE then (s, copyScratch s t va e)
  else
    match walkNow (chanAgent t c) va .load s with
    | (s1, .ok a) => (s1, some a)
    | (s1, .error _) => (s1, none)

/-- GATHER_ELEMENT (R113): element j by its index word, with the state after its translation. -/
def gatherPiece (t : Team) (c : Channel) (k : Nat) (list table : Word) (e nsrc j : Nat) (s : State) : State × List Piece :=
  let lva := list + w64 (4 * j)
  match wordPiece s t c k j 0 lva (accAt s t c.tsrc lva) with
  | .bad p kind err => (s, [.bad p kind err])
  | .data _ bs =>
    let w := leNat bs
    if w = 2 ^ 32 - 1 then
      (s, [.data (j * e) ((List.range e).map fun i => BitVec.ofNat 8 (c.fill.toNat / 2 ^ (8 * (i % 8))))])
    else if nsrc ≤ w then (s, [.bad j 1 none])
    else
      let va := table + w64 (w * e)
      let (s1, a) := elementAt t c va e s
      (s1, (List.range (e / 4)).map fun i =>
        wordPiece s1 t c k j (j * e + 4 * i) (va + w64 (4 * i)) (a.map fun a => { a with addr := a.addr + 4 * i }))

/-- The positions of a burst: 4-byte words of a contiguous copy, elements of a gather. -/
def burstPositions (c : Channel) (k e : Nat) : List Nat :=
  (List.range (256 / e)).filterMap fun i => if k * 256 + i * e < c.len then some (k * (256 / e) + i) else none

/-- The pieces of a burst, in ascending order. -/
def burstPieces (t : Team) (c : Channel) (k : Nat) (s : State) : State × List Piece :=
  match c.src with
  | .none => (s, [])
  | .flat src => (s, (burstPositions c k 4).map fun j =>
      wordPiece s t c k j (4 * j) (src + w64 (4 * j)) (accAt s t c.tsrc (src + w64 (4 * j))))
  | .gather list table e nsrc =>
    (burstPositions c k e).foldl (fun r j =>
      let (s1, p) := gatherPiece t c k list table e nsrc j r.1
      (s1, r.2 ++ p)) (s, [])

/-- The uncorrectable errors that a burst's pieces met, each once (R77, R115). -/
def Piece.errors (ps : List Piece) : List (ErrMark × Word) :=
  ps.foldl (fun l p => match p with
    | .bad _ _ (some e) => if l.any (fun x => x.1 == e.1) then l else l ++ [e]
    | _ => l) []

/-- The source reads of a burst that stall now (R117). -/
def burstStalls (s : State) (t : Team) (c : Channel) (ch k : Nat) : List CopyStall :=
  match c.src with
  | .none => []
  | .flat src => readStalls t ch k (src + w64 (256 * k)) (min 256 (c.len - 256 * k))
  | .gather list table e nsrc =>
    (burstPositions c k e).flatMap fun j =>
      match readStalls t ch k (list + w64 (4 * j)) 4 with
      | [] =>
        match accAt s t c.tsrc (list + w64 (4 * j)) with
        | none => []
        | some la =>
          let w := leNat (readSpace s la.space la.addr 4)
          if w < nsrc then readStalls t ch k (table + w64 (w * e)) e else []
      | l => l

/-- The bytes of a piece written at the destination, in 4-byte words (R106); register elements stay empty until their whole
register has landed. -/
def writePiece (t : Team) (c : Channel) (ch width off : Nat) (bs : List Byte) (s : State) : State :=
  (List.range (bs.length / 4)).foldl (fun s i =>
    let o := off + 4 * i
    let w := (bs.drop (4 * i)).take 4
    if c.vdst then
      match c.owner with
      | none => s
      | some g => s.updGang g fun g =>
          ({ g with v := tput 0 g.v (vKey (c.base.toNat + o / (4 * width)) (o % (4 * width) / 4)) (BitVec.ofNat 32 (leNat w)) }
            : Gang).noteWrite none (c.base.toNat + o / (4 * width))
    else
      match accAt s t c.tdst (c.base + w64 o) with
      | none => s
      | some a =>
        let s1 := writeSpace a.space a.addr w s
        { s1 with races := s1.races.filter fun r => s.races.contains r || r.team != t.id || r.ch != ch }) s

/-- The asynchronous MACHINE that uncorrectable source data delivers to the issuer (R77, R115). -/
def dueError (c : Channel) (va : Word) (st : ErrStruct) (s : State) : State :=
  match c.owner with
  | none => s
  | some o =>
    let tr : TrapInfo := { machineTrap st va with tinfo := w64 (0x8000 + st.code) }
    (s.updThread o fun t => { t with dueMachine := t.dueMachine ++ [tr] }).updGang o
      fun g => { g with dueMachine := g.dueMachine ++ [tr] }

/-- The width of the gang into whose registers a copy goes. -/
def chanWidth (s : State) (c : Channel) : Nat := ((c.owner.bind s.gang?).elim 1 (·.width))

/-- What the pieces of a burst need of the region directory (R106): no cached copy of the device memory that they are written to. -/
def Piece.needs (s : State) (t : Team) (c : Channel) (ps : List Piece) : List Need :=
  if c.vdst then []
  else ps.filterMap fun p => match p with
    | .data off _ =>
      (accAt s t c.tdst (c.base + w64 off)).bind fun a => if a.space = .mem ∧ ¬ a.host then some (.alone (a.addr / 32)) else none
    | .bad _ _ _ => none

/-- BURST_TRANSFER (R106, R113, R115, R117): the agent reads the burst's source and writes its destination, or waits for the
channel at which its source read stalls, or for the recall of the cached copies of its destination. -/
def execBurstTransfer (t : TeamId) (ch k : Nat) (s : State) : Res :=
  match s.team? t, s.chan? t ch with
  | some tm, some c =>
    if c.state ≠ .active ∨ ¬ c.sent.contains k ∨ c.moved.contains k ∨ c.landed k then .next s
    else if c.stalls.any (fun x => x.burst == k && x.open_) || !s.buffersFree tm c k || s.drainOver tm then .next s
    else
      let new := (burstStalls s tm c ch k).filter fun x =>
        !c.stalls.any fun y => y.burst == k && y.ch == x.ch && y.lo ≤ x.lo && x.hi ≤ y.hi
      if !new.isEmpty then .next (s.updChan t ch fun c => { c with stalls := c.stalls ++ new })
      else
        let (s1, ps) := burstPieces tm c k s
        match s.await ⟨tm.cluster, 0, 4⟩ 0 (Piece.needs s tm c ps) with
        | some asking => .next asking
        | none =>
          let s2 := ps.foldl (fun s p => match p with
            | .data off bs => writePiece tm c ch (chanWidth s c) off bs s
            | .bad j kind _ => s.updChan t ch fun c => c.bad j kind) s1
          let s3 := (Piece.errors ps).foldl (fun s x => dueError c x.2 x.1.st s) s2
          .next (s3.updChan t ch fun c => { c with moved := c.moved ++ [k] })
  | _, _ => .next s

/-- WM and BM after a burst has landed (R116). -/
def advance (c : Channel) : Nat → Channel
  | 0 => c
  | n + 1 => if bitAt c.bm 0 && c.wm < c.len then advance { c with bm := c.bm / 2, wm := min (c.wm + 256) c.len } n else c

/-- The stalls of other copies that this channel's watermark has released: they end, in error when ERR is set (R117). -/
def releaseStalls (tile : Nat) (n : Nat) (c : Channel) (x : Channel) : Channel :=
  { x with stalls := x.stalls.filterMap fun y =>
      if y.ch == n && y.open_ && y.hi ≤ canonVa tile c.base + c.wm then
        (if c.err then some { y with bad := true, open_ := false } else none)
      else some y }

/-- Whether every burst of a destination register has landed (R96, R106). -/
def Channel.regLanded (c : Channel) (width r : Nat) : Bool :=
  (List.range c.bursts).all fun k =>
    !(k * 256 < (r + 1) * 4 * width && r * 4 * width < k * 256 + 256) || c.landed k

/-- The registers whose last burst has landed between two states of a channel are filled (R95, R96, R106). -/
def fillCopyRegs (c0 c : Channel) (width : Nat) (s : State) : State :=
  match c.owner with
  | none => s
  | some g =>
    ((List.range (c.len / (4 * width))).filter fun r => c.regLanded width r && !c0.regLanded width r).foldl
      (fun s r => s.updGang g fun g => { g with
        empty := (List.range width).foldl (fun e l => tput false e (vKey (c.base.toNat + r) l) false) g.empty }) s

/-- The stalls of a context that a channel's watermark has passed are released, in error when ERR is set then (R117). -/
def StallAt.pass (tile n : Nat) (c : Channel) (x : StallAt) : StallAt :=
  if x.ch = n ∧ ¬ x.released ∧ x.hi ≤ canonVa tile c.base + c.wm then
    { x with released := true, bad := if c.err then some (copyInfo c.errpos n (0x18 + c.errkind - 1)) else none }
  else x

/-- The waits of a team's contexts at a channel, after its watermark has advanced. -/
def passStalls (t : Team) (n : Nat) (c : Channel) (s : State) : State :=
  { s with
    threads := s.threads.map fun x => if x.team != t.id then x else match x.state with
      | .parked (.stall xs) => { x with state := .parked (.stall (xs.map (StallAt.pass t.tile n c))) }
      | _ => x
    gangs := s.gangs.map fun x => if x.team != some t.id then x else match x.state with
      | .parked (.stall xs) => { x with state := .parked (.stall (xs.map (StallAt.pass t.tile n c))) }
      | _ => x }

/-- A channel that reaches its limit is DONE and retires its folio count (R116, R122). -/
def finishChannel (t : TeamId) (ch : Nat) (s : State) : State :=
  match s.team? t, s.chan? t ch with
  | some tm, some c =>
    if c.state = .active ∧ c.wm = c.len ∧ c.pt.all (fun p => !s.incPending p) then
      let s1 := endRaces t ch (s.updChan t ch fun c => { c with state := .done, pt := none })
      let s2 := match c.pt with | none => s1 | some pt => retire tm.cluster tm.tile pt s1
      teamCheck t { s2 with copyReqs := s2.copyReqs.filter fun r => r != (t, ch) }
    else s
  | _, _ => s

/-- BURST_LANDING (R116, R117, R122): the watermark advances; a copy that carries a folio is DONE only once its own increment
is acknowledged (R146). -/
def execBurstLanding (t : TeamId) (ch k : Nat) (s : State) : Res :=
  match s.team? t, s.chan? t ch with
  | some tm, some c =>
    if c.state ≠ .active ∨ ¬ c.moved.contains k then .next s
    else
      let c1 := advance { c with bm := c.bm ||| 2 ^ (k - c.wm / 256), moved := c.moved.filter (· != k),
                                 runs := c.runs.filter fun r => r.burst != k } 65536
      let s1 := (s.updChan t ch fun _ => c1).updTeam t fun x =>
        { x with chans := x.chans.map (releaseStalls tm.tile ch c1) }
      let s2 := if c1.vdst then fillCopyRegs c c1 (chanWidth s1 c1) s1 else s1
      .next (finishChannel t ch (passStalls tm ch c1 s2))
  | _, _ => .next s

/-- COPY_FAULT of a released stall, if its channel was in error (R117, R118). -/
def StallAt.fault (x : StallAt) : Option TrapInfo := x.bad.map fun i => ⟨0x0C, x.tval, i⟩

/-- The faults of a gang's lanes at their stalls, one for each lane. -/
def stallFaults (xs : List StallAt) : List (Nat × TrapInfo) :=
  sortBy (fun a b => decide (a.1 ≤ b.1))
    (xs.foldl (fun l x => match x.fault with
      | none => l
      | some t => if l.any (fun y => y.1 == x.lane) then l else l ++ [(x.lane, t)]) [])

/-- WATERMARK_STALL_RELEASE (R99, R117): once the watermarks cover the stalled bytes, the access traps COPY_FAULT when a
channel's ERR was set as it released them; otherwise the release is an acquire at .cl and the access is made. -/
def execWatermarkStallRelease (c : CtxId) (s : State) : Res :=
  match s.thread? c with
  | some t =>
    match t.state with
    | .parked (.stall xs) =>
      if !xs.all (·.released) then .next s
      else
        match xs.findSome? (·.fault) with
        | some ti => trapT c ti false s
        | none => .next ((acquire c .cl s).updThread c fun t => { t with state := .ready })
    | _ => .next s
  | none =>
    match s.gang? c with
    | some g =>
      match g.state with
      | .parked (.stall xs) =>
        if !xs.all (·.released) then .next s
        else
          let s1 := s.updGang c fun g => { g with state := .ready }
          match stallFaults xs with
          | [] => .next (acquire c .cl s1)
          | fs => gangFaults c fs false s1 s1
      | _ => .next s
    | none => .next s

/-- The channels whose completion waited for an acknowledgement (R146). -/
def finishWaiting (s : State) : State :=
  s.teams.foldl (fun s t => (List.range 16).foldl (fun s n => finishChannel t.id n s) s) s

/-! ## Squashing and resuming -/

/-- The squash of an ACTIVE channel whose drain limit has passed (R119). -/
def Channel.squash (c : Channel) : Channel :=
  if c.state ≠ .active ∨ c.wm = c.len then c
  else
    let first := match c.src with
      | .gather _ _ e _ => c.wm / e
      | _ => c.wm / 4
    let c1 := if c.err && first ≤ c.errpos then { c with err := false, errpos := 0, errkind := 0 } else c
    { c1 with state := .saved, bm := 0, sent := [], moved := [], runs := [], stalls := [] }

/-- CHANNEL_DRAIN_EXPIRY (R119, R120): at DRAINLIM the ACTIVE channels of a saved team are squashed. -/
def execChannelDrainExpiry (t : TeamId) (s : State) : Res :=
  match s.team? t with
  | none => .next s
  | some tm =>
    if !s.drainOver tm then .next s
    else .next { s.updTeam t fun x => { x with chans := x.chans.map Channel.squash } with
                 copyReqs := s.copyReqs.filter fun r => r.1 != t }

/-- CHANNEL_RESUME (R119): a SAVED channel is ACTIVE again and replays from its watermark, its operands translated again; a
check that fails marks the copy with kind 2 at the first position concerned. Where the page that fails lies wholly below the
watermark, no replayed position is concerned: DESIGN CHOICE, the copy is marked at the first position of the replay (log 86). -/
def resumeChannel (t : TeamId) (ch : Nat) (s : State) : State :=
  match s.team? t, s.chan? t ch with
  | some tm, some c =>
    if c.state ≠ .saved then s
    else
      let ag := chanAgent tm c
      let first := match c.src with | .gather _ _ e _ => c.wm / e | _ => c.wm / 4
      let (list, n, e) := match c.src with
        | .flat src => (src, c.len, 4)
        | .gather l _ e _ => (l, 4 * (c.len / e), e)
        | .none => (0, 0, 4)
      let redo := fun (va : Word) (n : Nat) (k : AccKind) (s : State) =>
        (operandPages va n).foldl (fun (r : State × List Acc × Option Word) p =>
          match walkNow ag p k r.1 with
          | (s1, .ok a) => (s1, r.2.1 ++ [a], r.2.2)
          | (s1, .error _) => (s1, r.2.1, some (r.2.2.getD p)))
          (s, [], if window va = 0xFE ∧ (copyScratch s tm va n).isNone ∧ n ≠ 0 then some va else none)
      let (s1, td, bd) := if c.vdst then (s, [], none) else redo c.base c.len .store s
      let (s2, ts, bs) := redo list n .load s1
      let posD := bd.map fun p => max first ((p - c.base).toNat / e)
      let posS := bs.map fun p => max first ((p - list).toNat / 4)
      let c1 := [posD, posS].foldl (fun c p => match p with | none => c | some j => c.bad j 2) c
      { s2.updChan t ch fun _ =>
          { c1 with state := .active, tdst := td, tsrc := ts, sent := [], moved := [], bm := 0, runs := [] } with
        copyReqs := s2.copyReqs ++ [(t, ch)] }
  | _, _ => s

end Sys2Proof.Machine
end

