-- ==== Sys2Proof/Machine/Message.lean ====
section
/-! DEFINITION. Messages: `send`, `done`, `bind` (R301 to R305), inboxes and arrivals (R163, R164), the end of a trap message
(R381), pushes between neighbours (R277). -/

namespace Sys2Proof.Machine

/-! ## Inboxes -/

/-- The state in which a handler starts on a message (R303, R380). -/
def Thread.startMsg (t : Thread) (m : Msg) : Thread :=
  { t with
    x := mkX fun i =>
      if i < 8 then t.getX i
      else if i < 16 then ⟨m.payload.getD (i - 8) 0, true⟩
      else if i = 16 then ⟨m.folio, true⟩
      else if i = 17 then ⟨m.loc, true⟩
      else if i = 18 then ⟨m.sender, true⟩
      else if i = 19 then ⟨m.senderTeam, true⟩
      else XReg.zero
    outer := [], spilled := 0, winOp := none, depth := 0, pc := t.entry, line := none, state := .ready, msg := some m }

/-- The bound context takes the next message in arrival order, the oldest spilled one moving up, or becomes IDLEMSG (R163,
R164, R304). -/
def Thread.takeNext (t : Thread) : Thread :=
  match t.inbox with
  | [] =>
    { t with msg := none, state := .idleMsg, outer := [], spilled := 0, winOp := none, depth := 0, line := none }
  | m :: ms => { t with inbox := ms ++ t.spillbox.take 1, spillbox := t.spillbox.drop 1 }.startMsg m

/-- A bound context after a change of message: nothing fills its windows any more. -/
def nextMessage (c : CtxId) (s : State) : State := (cutFills c Dst.windowed s).updThread c Thread.takeNext

/-- A message taken by the context that binds its class: it starts the handler of an IDLEMSG context, or waits in the inbox
or its spill region; none when there is no room (R163, R164). A message ends a sleep (R242). -/
def Thread.accept (t : Thread) (m : Msg) (resident : Bool) : Option Thread :=
  if t.state = .idleMsg ∧ resident then some (t.startMsg m)
  else
    let t1 := match t.state with
      | .sleeping _ => { t with state := .ready }
      | _ => t
    if t.inbox.length < 8 ∧ t.spillbox = [] then some { t1 with inbox := t.inbox ++ [m] }
    else if t.spillbox.length < 32 then some { t1 with spillbox := t.spillbox ++ [m] }
    else none

/-- The team and context to which a message can be delivered now. -/
def State.receiver (s : State) (m : Msg) : Option (Team × Thread) :=
  (s.teams.find? fun t => t.state != .ended && t.state != .placing && m.isFor t).bind fun t =>
    (t.bound m.cls).bind fun b => (s.thread? b.ctx).map fun th => (t, th)

/-- A message delivered, or held at its sender by its class's channel when there is no room or no binding, or an earlier one
is held (R164, R302). The lanes of a gang send in ascending order, each when the one before has been accepted; trap messages of a
team are taken in the order in which its gangs trapped (R380). -/
def deliver (m : Msg) (s : State) : State :=
  let hold := { s with msgs := s.msgs.map fun x => if x.id = m.id then { x with held := true } else x }
  let before := s.msgs.takeWhile fun x => x.id != m.id
  let trapBefore := fun (x : Msg) => m.cls == 15 && x.cls == 15 && x.part == m.part && x.launch == m.launch && x.team == m.team
  if (before.any fun x => x.heldAt.isSome && x.heldAt == m.heldAt) || before.any trapBefore then s
  else if before.any fun x => x.held && x.cls == m.cls && x.part == m.part && x.team == m.team then hold
  else
    match s.receiver m with
    | none => hold
    | some (t, th) =>
      match th.accept m (t.state != .saved) with
      | none => hold
      | some th1 =>
        let s1 := if th.state = .idleMsg then cutFills th.id Dst.windowed s else s
        let s2 := (s1.updThread th.id fun u => { th1 with monitors := u.monitors })
        acceptMsg m { s2 with msgs := s2.msgs.filter fun x => x.id != m.id }

/-- MESSAGE_ARRIVAL (R163, R164). -/
def execMessageArrival (id : Nat) (s : State) : Res :=
  match s.msgs.find? fun m => m.id == id with
  | none => .next s
  | some m => if m.held || m.dev.isSome then .next s else .next (deliver m s)

/-- SENDER_HELD_ACCEPT (R164): a message held at its sender is accepted once there is room. -/
def execSenderHeldAccept (id : Nat) (s : State) : Res :=
  match s.msgs.find? fun m => m.id == id with
  | none => .next s
  | some m => if m.held && m.dev.isNone then .next (deliver m s) else .next s

/-- Whether an operation is a push of a context to another (R277). -/
def Op.pushes (o : Op) (c target : CtxId) : Bool :=
  match o.kind with
  | .push t _ => o.owner == c && t == target
  | _ => false

/-- QUEUE_PUSH_ARRIVAL (R277): a push reaches its target's receive queue, after those that its sender made before it. -/
def execQueuePushArrival (op : Nat) (s : State) : Res :=
  match s.op? op with
  | none => .next s
  | some o =>
    match o.kind with
    | .push target _ =>
      .next (((s.ops.takeWhile fun x => x.id != op).filter fun x => x.pushes o.owner target).foldl (fun s x => performOp x s) s
        |> performOp o)
    | _ => .next s

/-! ## `send` -/

/-- DEAD_CHANNEL (R139, R151). -/
def deadChannel (f : Word) (e reason : Nat) : TrapInfo := ⟨0x0D, f, folioInfo e 0 reason⟩

/-- FOLIO_RANGE (R151). -/
def folioRange (tval : Word) (index clevel reason : Nat) : TrapInfo := ⟨0x0E, tval, folioInfo index clevel reason⟩

/-- Where a message goes (R302). -/
structure SendDest where
  dev : Option Nat
  launch : Option Nat
  team : Nat
  cluster : Option Nat
  scope : Scope

/-- The running launch of a partition that binds a class (R302). -/
def State.classLaunch (s : State) (part cls : Nat) : Option Nat :=
  (s.teams.find? fun t => t.part == part && t.state != .ended && t.binds.any fun b => b.cls == cls).map (·.id.launch)

/-- The destination that a register names, within the sender's instance (R301, R302); none where the send traps. -/
def State.sendDest (s : State) (ag : Agent) (level cls : Nat) (d : Word) : Option SendDest :=
  let team := bits d.toNat 15 0
  let dev := bits d.toNat 27 16
  if bits d.toNat 63 28 ≠ 0 ∨ (level ≠ 3 ∧ dev ≠ 0) then none
  else if level = 0 then ag.team.map fun i => ⟨none, some i.launch, i.team, none, .tm⟩
  else if level = 3 ∧ dev ≠ s.jobDevice then some ⟨some dev, none, team, none, .sy⟩
  else
    let cl := if level = 1 then some ag.id.cluster else none
    let wide := if level = 1 then Scope.cl else .dv
    match s.classLaunch ag.part cls with
    | none => some ⟨none, none, team, cl, wide⟩
    | some u =>
      match s.team? ⟨u, team⟩ with
      | some t =>
        if t.state = .ended ∨ (level = 1 ∧ t.home ≠ ag.id.cluster) then none
        else some ⟨none, none, team, cl,
          if some t.id = ag.team then .tm else if t.home = ag.id.cluster then .cl else .dv⟩
      | none => if team < (s.launch? u).elim 0 (·.teams) then some ⟨none, none, team, cl, wide⟩ else none

/-- A message that passed its checks. -/
structure SendPlan where
  pt : CountPt
  cls : Nat
  dest : SendDest
  payload : List Word
  /-- The folio that it carries from. -/
  src : Word

/-- What the checks of a send give. -/
inductive SendChk where
  | trap (t : TrapInfo)
  | park
  | ok (p : SendPlan)

/-- Whether a walk that deletes the node of a location is in progress, so that sends to it wait (R138). -/
def Partition.deleting (p : Partition) (loc : Nat) : Bool :=
  match p.walk with
  | none => false
  | some w => w.op == 2 && (p.graph.locs[loc]?).elim false fun l => l.node == w.node

/-- The checks of R302 from the count point (loc, f) on. The spec does not order DEAD_EDGE and NO_EDGE of an edge that is both dead
and not the location's own: the model reports NO_EDGE (log 91, DESIGN CHOICE). -/
def sendFrom (s : State) (ag : Agent) (e : Nat) (loc : Nat) (f d : Word) (payload : List Word) : SendChk :=
  match s.part? ag.part with
  | none => .trap (deadChannel f e 0x29)
  | some p =>
    match p.graph.edges[e]? with
    | none => .trap (deadChannel f e 0x29)
    | some ed =>
      if ed.src ≠ loc then .trap (deadChannel f e 0x29)
      else if ed.dead then .trap (deadChannel f e 0x28)
      else if p.deleting ed.dst then .park
      else
        let level := p.graph.level ed.dst
        let cls := (p.graph.locs[ed.dst]?).elim 0 (·.cls)
        match s.sendDest ag level cls d with
        | none => .trap (deadChannel f e 0x29)
        | some dest =>
          let sm := ed.summary (p.graph.depth ed.src)
          match sm.apply f with
          | none => .trap (folioRange f e ((sm.overflow f).getD 0) 0x20)
          | some g =>
            let pt : CountPt := ⟨instAt level ag.part ag.id.cluster ag.team, ed.dst, g⟩
            .ok ⟨pt, cls, dest, payload, f⟩

/-- The count point that a send carries from: the current message for handle 0, or a capability (R302). -/
def sendPoint (bad : TrapInfo) (cur : Option Msg) (caps : List Cap) (e : Nat) (hv : Word) : Except TrapInfo (Nat × Word) :=
  if hv = 0 then
    match cur with
    | none => .error bad
    | some m => .ok (m.loc.toNat, m.folio)
  else
    match caps.find? fun k => w64 k.handle == hv with
    | none => .error (folioRange hv e 0 0x24)
    | some k => .ok (k.pt.loc, k.pt.folio)

/-- A message sent (R140, R164, R302): its count, then the message on its way, held by its sender's `send`. -/
def sendOne (ag : Agent) (q : SendPlan) (s : State) : State :=
  let level := ((s.part? ag.part).elim 0 (·.graph.level q.pt.loc))
  let m : Msg :=
    { id := s.nextId, cls := q.cls, part := ag.part, launch := q.dest.launch, team := q.dest.team, cluster := q.dest.cluster,
      pt := some q.pt, loc := w64 q.pt.loc, folio := q.pt.folio, payload := q.payload, sender := ag.id.word,
      senderTeam := w64 ((ag.team.elim 0 (·.team)) + (if level = 3 then s.jobDevice else 0) * 2 ^ 16),
      heldAt := some ag.id, held := false, gang := none, dev := q.dest.dev, origin := none }
  let s1 := s.addChange ag.id.cluster ag.id.tile q.pt 1 [ag.id]
  { s1 with
    msgs := s1.msgs ++ [m], nextId := s1.nextId + 1
    out := match q.dest.dev with | none => s1.out | some d => s1.out ++ [.message d m] }

/-- The wider of two scopes. -/
def widerScope (a b : Scope) : Scope :=
  let n := fun (x : Scope) => match x with | .th => 0 | .tm => 1 | .cl => 2 | .dv => 3 | .sy => 4
  if n a ≤ n b then b else a

/-- The capabilities that a lane holds (R307). -/
def Gang.laneCaps (g : Gang) (l : Nat) : List Cap := (g.caps.filter fun k => k.1 == l).map (·.2)

/-- The registers of a send (R301): the handle, the destination, the payload. -/
def sendRegs (n : BitVec 4) (xd xa : Reg) : List Nat := xa.toNat :: xd.toNat :: (List.range n.toNat).map (· + 24)

/-- The sends of a gang's lanes after their release: the count limit, then the counts and the messages (R302). A lane fault of a
grid gang leaves everything undone (R382). -/
def sendLanes (g : Gang) (e : Nat) (plans : List (Nat × SendPlan)) (bad : List (Nat × TrapInfo)) (s : State) : Res :=
  let past := s.overLimit g.part [] (plans.map fun x => (x.1, x.2.pt))
  let full := plans.filterMap fun x =>
    if past.contains x.1 then some (x.1, folioRange x.2.src e 0 0x23) else none
  let go := plans.filter fun x => !past.contains x.1
  let bad1 := mergeFaults bad full
  let s2 := go.foldl (fun s x => sendOne g.agent x.2 s) s
  if go.isEmpty || (!bad1.isEmpty && !g.galley) then gangFaults g.id bad1 false s (s.updGang g.id Gang.next)
  else gangFaults g.id bad1 false s (s2.updGang g.id fun g => { g with state := .parked .accept })

/-- `send` (R301, R302). -/
def execSend (h : Hd) (e : BitVec 12) (n : BitVec 4) (xd xa : Reg) (s : State) : Res :=
  withCur s
    (fun t =>
      if !t.guard h then endT t.id s
      else
        match t.readXs (sendRegs n xd xa) with
        | none => parkT t.id .retry s
        | some (vs, t1) =>
          match s.regErr t.id ((sendRegs n xd xa).map t.dst) with
          | some x => trapT t.id (machineTrap x.st x.va) false s
          | none =>
            match sendPoint (illegalOp t.pc t.line rVariant) t.msg t.caps e.toNat (vs.getD 0 0) with
            | .error ti => trapT t.id ti false s
            | .ok (loc, f) =>
              match sendFrom s t.agent e.toNat loc f (vs.getD 1 0) (vs.drop 2) with
              | .trap ti => trapT t.id ti false s
              | .park => parkT t.id .retry s
              | .ok q =>
                if !s.room t.part [q.pt] then parkT t.id .retry s
                else
                  match releaseThread t.id q.dest.scope (settleLoads t.id s) with
                  | .refused s1 ti => trapT t.id ti false s1
                  | .wait s1 => parkT t.id .retry s1
                  | .ok s1 =>
                    if !(s1.overLimit t.part [] [(0, q.pt)]).isEmpty then trapT t.id (folioRange f e.toNat 0 0x23) false s1
                    else parkT t.id .accept (sendOne t.agent q (s1.updThread t.id fun u => { u with recvq := t1.recvq })))
    fun g =>
      if !g.xOk (sendRegs n xd xa) then trapG g.id (illegalOp g.pc g.line rRegister) false s
      else
        let act := g.active h
        if act.isEmpty then endG g.id s
        else
          match act.mapM fun l => (g.readXs (sendRegs n xd xa) l).map fun vs => (l, vs) with
          | none => parkG g.id .retry s
          | some rows =>
            let res := rows.map fun (r : Nat × List Word) =>
              match s.regErr g.id ((sendRegs n xd xa).map fun (x : Nat) => xDst x r.1) with
              | some x => (r.1, SendChk.trap (machineTrap x.st x.va))
              | none =>
                match sendPoint (illegalOp g.pc g.line rVariant) none
                    (g.laneCaps r.1) e.toNat (r.2.getD 0 0) with
                | .error ti => (r.1, .trap ti)
                | .ok (loc, f) => (r.1, sendFrom s g.agent e.toNat loc f (r.2.getD 1 0) (r.2.drop 2))
            let bad := res.filterMap fun r => match r.2 with | .trap t => some (r.1, t) | _ => none
            if !bad.isEmpty && !g.galley then gangFaults g.id bad false s s
            else if res.any fun r => match r.2 with | .park => true | _ => false then parkG g.id .retry s
            else
              let plans := res.filterMap fun r => match r.2 with | .ok q => some (r.1, q) | _ => none
              if !s.room g.part (plans.map (·.2.pt)) then parkG g.id .retry s
              else
                match releaseGang g.id (plans.foldl (fun a (x : Nat × SendPlan) => widerScope a x.2.dest.scope) .tm)
                    (settleLoads g.id s) with
                | .refused s1 ti => refusedG g.id act ti s1
                | .wait s1 => parkG g.id .retry s1
                | .ok s1 => sendLanes g e.toNat plans bad s1

/-! ## `done` and `bind` -/

/-- The scope of the release that retires a count (R94, R101); a trap message retires none and releases at .tm (R381). -/
def msgScope (s : State) (part : Nat) (m : Msg) : Scope :=
  match m.pt with
  | none => .tm
  | some pt => levelScope ((s.part? part).elim 0 (·.graph.level pt.loc))

/-- The end of a trap message (R381): with x8 = 0 the gang resumes at x10 with the lanes of x13 and x14, an acquire at .tm;
otherwise it is killed. -/
def resumeGang (g : CtxId) (vs : List Word) (m : Msg) (s : State) : State :=
  match s.gang? g with
  | none => s
  | some gg =>
    if gg.state ≠ .parked .trapService then s
    else if vs.getD 0 0 = 0 then
      (acquire g .tm s).updGang g fun x =>
        { x with
          pc := vs.getD 1 0
          lanes := (vs.getD 2 0).zeroExtend 128 ||| ((vs.getD 3 0).zeroExtend 128 <<< 64)
          line := none, state := .ready }.merge
    else
      match gg.team with
      | none => s
      | some i =>
        killLaunch i.launch (some (⟨(m.payload.getD 0 0).toNat, m.payload.getD 1 0, m.payload.getD 3 0⟩,
          m.payload.getD 2 0, g.word)) s

/-- What the `done` of a trap message reads (R381): x8, and with x8 = 0 also x10, x13 and x14; the values and the registers. -/
def Thread.resumeWords (t : Thread) (m : Msg) : Option (List Word × List Nat) :=
  if m.gang.isNone then some ([], [])
  else
    match t.readX 8 with
    | none => none
    | some (v, _) =>
      if v ≠ 0 then some ([v], [8]) else (t.readXs [8, 10, 13, 14]).map fun r => (r.1, [8, 10, 13, 14])

/-- `done` (R304, R381). -/
def execDone (h : Hd) (s : State) : Res :=
  withCur s
    (fun t =>
      if !t.guard h then endT t.id s
      else
        match t.msg with
        | none => trapT t.id (illegalOp t.pc t.line rVariant) false s
        | some m =>
          match t.resumeWords m with
          | none => parkT t.id .retry s
          | some (vs, srcs) =>
            match s.regErr t.id (srcs.map t.dst) with
            | some e => trapT t.id (machineTrap e.st e.va) false s
            | none =>
              if s.copying t.id then parkT t.id .retry s
              else
                match releaseThread t.id (msgScope s t.part m) (settleLoads t.id s) with
                | .refused s1 ti => trapT t.id ti false s1
                | .wait s1 => parkT t.id .retry s1
                | .ok s1 =>
                  if (s1.thread? t.id).elim false fun u => u.unacked != 0 then parkT t.id .retry s1
                  else
                    let s2 := retireMsg t.id.cluster t.id.tile m s1
                    let s3 := nextMessage t.id (s2.updThread t.id fun u => { u with issued := u.issued + 1 })
                    match m.gang with
                    | none => .next s3
                    | some g => .next (resumeGang g vs m s3))
    fun g => notForGang g h [] (illegalOp g.pc g.line rVariant) s

/-- Whether a `bind` is refused (R305): the class is bound in the team, or, below 15, in another running launch of the
partition, or the context is already bound. -/
def bindRefused (s : State) (t : Thread) (cls : Nat) : Bool :=
  t.cls.isSome || s.teams.any fun x => x.state != .ended && (x.binds.any fun b => b.cls == cls) &&
    (x.id == t.team || (cls != 15 && x.part == t.part && x.id.launch != t.team.launch))

/-- `bind` (R305): the context is bound, its windows are discarded and it becomes IDLEMSG. One bound to class 15 no longer
keeps its team RUNNING (R156). -/
def execBind (h : Hd) (cls : BitVec 4) (xa : Reg) (s : State) : Res :=
  withCur s
    (fun t =>
      if !t.guard h then endT t.id s
      else
        match t.readX xa.toNat with
        | none => parkT t.id .retry s
        | some (v, t1) =>
          match s.regErr t.id [t.dst xa.toNat] with
          | some e => trapT t.id (machineTrap e.st e.va) false s
          | none =>
            if bindRefused s t cls.toNat then trapT t.id (illegalOp t.pc t.line rVariant) false s
            else
              match releaseThread t.id .tm (settleLoads t.id s) with
              | .refused s1 ti => trapT t.id ti false s1
              | .wait s1 => parkT t.id .retry s1
              | .ok s1 =>
                let s2 := (s1.updTeam t.team fun x => { x with binds := x.binds ++ [⟨cls.toNat, t.id, v⟩] }).updThread t.id
                  fun u => { u with cls := some cls.toNat, entry := v, issued := u.issued + 1, recvq := t1.recvq,
                                    keepsTeam := u.keepsTeam && cls != 15 }
                .next (teamCheck t.team (nextMessage t.id s2)))
    fun g => notForGang g h [xa.toNat] (illegalOp g.pc g.line rVariant) s

end Sys2Proof.Machine
end

