-- ==== Sys2Proof/Machine/Folio.lean ====
section
/-! DEFINITION. Folios and capabilities: `fenter`, `fleave`, `fhold`, `finc`, `fdrop`, `fwait`, `fprobe` (R306 to R309), and
the steps of the counting units (R144 to R147, R150). -/

namespace Sys2Proof.Machine

/-! ## Folio values -/

/-- A register instruction whose effect can trap: a thread, each active lane, or once for the gang. -/
def trapReg (h : Hd) (gbit : Bool) (xa xd : Reg) (f : Word → Except TrapInfo Word) (s : State) : Res :=
  withCur s
    (fun t =>
      if !t.guard h then endT t.id s
      else
        match t.readX xa.toNat with
        | none => parkT t.id .retry s
        | some (v, t1) =>
          match s.regErr t.id [t.dst xa.toNat] with
          | some e => trapT t.id (machineTrap e.st e.va) false s
          | none =>
            match f v with
            | .error ti => trapT t.id ti false s
            | .ok w =>
              if s.busy t.id [t.dst xd.toNat] || s.pushBlocked t [xd.toNat] then parkT t.id .retry s
              else endT t.id (writeX t.id xd.toNat w (s.setThread t1)))
    fun g =>
      if gbit then
        if !g.sOk [xa.toNat, xd.toNat] then trapG g.id (illegalOp g.pc g.line rRegister) false s
        else
          match s.regErr g.id [.s xa.toNat] with
          | some e => trapG g.id (machineTrap e.st e.va) false s
          | none =>
            match f (g.getS xa.toNat) with
            | .error ti => trapG g.id ti false s
            | .ok w => endG g.id (s.putDst g.id (if xd = 0 then .none else .s xd.toNat) w)
      else if !g.xOk [xa.toNat, xd.toNat] then trapG g.id (illegalOp g.pc g.line rRegister) false s
      else
        match (g.active h).mapM fun l => (g.readX xa.toNat l).map fun v => (l, v) with
        | none => parkG g.id .retry s
        | some rows =>
          if s.busy g.id ((g.active h).map fun l => if xd = 0 then .none else .pair xd.toNat l) then parkG g.id .retry s
          else
            let mach := laneErrs s g.id (fun l => [xDst xa.toNat l]) (g.active h)
            let res := rows.map fun (r : Nat × Word) => (r.1, f r.2)
            let bad := mergeFaults mach (res.filterMap fun r => match r.2 with | .error t => some (r.1, t) | .ok _ => none)
            let s1 := res.foldl (fun s r => match r.2 with
              | .ok w => if bad.any fun b => b.1 == r.1 then s
                  else s.putDst g.id (if xd = 0 then .none else .pair xd.toNat r.1) w
              | .error _ => s) s
            gangFaults g.id bad false s (s1.updGang g.id Gang.next)

/-- `fenter` on a folio value (R306). INDEX of its FOLIO_RANGE is 0: DESIGN CHOICE, as R151's location number does not exist
for an instruction that names no location (log 99). -/
def enterFolio (v : Nat) (f : Word) : Except TrapInfo Word :=
  if !folioOk f then .error (folioRange f 0 0 0x22)
  else if folioDepth f = 3 then .error (folioRange f 0 0 0x21)
  else if maxCtr (folioDepth f + 1) < v then .error (folioRange f 0 (folioDepth f + 1) 0x20)
  else .ok (mkFolio (folioCtrs f ++ [v]))

/-- `fleave` on a folio value (R306). INDEX of its FOLIO_RANGE is 0: DESIGN CHOICE (R151, log 99). -/
def leaveFolio (f : Word) : Except TrapInfo Word :=
  if !folioOk f then .error (folioRange f 0 0 0x22)
  else if folioDepth f = 0 then .error (folioRange f 0 0 0x21)
  else .ok (mkFolio (folioCtrs f).dropLast)

/-- `fenter` (R306). -/
def execFenter (h : Hd) (r : RI) (s : State) : Res := trapReg h r.g r.xa r.xd (enterFolio r.imm.toNat) s

/-- `fleave` (R306). -/
def execFleave (h : Hd) (r : R2) (s : State) : Res := trapReg h r.g r.xa r.xd leaveFolio s

/-! ## Capabilities -/

/-- The lowest free handle, when fewer than 8 are held (R140, R307). -/
def freeHandle (caps : List Cap) : Option Nat :=
  (List.range 8).findSome? fun i => if caps.any fun k => k.handle == i + 1 then none else some (i + 1)

/-- Whether an agent has an instance at a counting level: a galley gang belongs to no team (R152, log 20). -/
def hasInst (level : Nat) (team : Option TeamId) : Bool := level != 0 || team.isSome

/-- What the checks of a capability instruction give. -/
inductive CapChk where
  | trap (t : TrapInfo)
  | ok (pt : CountPt) (handle : Nat)

/-- The checks of `fhold` (R307), in their order, up to the count limit. -/
def holdCheck (s : State) (ag : Agent) (caps : List Cap) (loc : Nat) (f : Word) : CapChk :=
  match s.part? ag.part with
  | none => .trap (folioRange f loc 0 0x22)
  | some p =>
    let pt := s.pointFor ag loc f
    match folioCheck p pt.inst loc f with
    | some t => .trap t
    | none =>
      if !hasInst (p.graph.level loc) ag.team then .trap (folioRange f loc 0 0x22)
      else
        match freeHandle caps with
        | none => .trap (folioRange f loc 0 0x24)
        | some k => .ok pt k

/-- The checks of `finc` to a folio (R307), in their order, up to the count limit. INDEX of HOLDS is 0: DESIGN CHOICE, as a
handle that is not held names no location (R151, log 99). -/
def incCheck (s : State) (ag : Agent) (caps : List Cap) (hv g : Word) : CapChk :=
  match caps.find? fun k => w64 k.handle == hv with
  | none => .trap (folioRange hv 0 0 0x24)
  | some k =>
    match s.part? ag.part with
    | none => .trap (folioRange g k.pt.loc 0 0x22)
    | some p =>
      let loc := k.pt.loc
      if k.moving.isSome then .ok k.pt k.handle
      else if !folioOk g then .trap (folioRange g loc 0 0x22)
      else if folioDepth g ≠ p.graph.depth loc then .trap (folioRange g loc 0 0x21)
      else if folioLt g k.pt.folio then .trap (folioRange g loc 0 0x25)
      else if (p.graph.locs[loc]?).elim true (·.deleted) || p.closed k.pt.inst loc g then .trap (folioRange g loc 0 0x26)
      else .ok k.pt k.handle

/-- The check of `fdrop` (R307). INDEX of HOLDS is 0: DESIGN CHOICE (R151, log 99). -/
def dropCheck (caps : List Cap) (hv : Word) : CapChk :=
  match caps.find? fun k => w64 k.handle == hv with
  | none => .trap (folioRange hv 0 0 0x24)
  | some k => .ok k.pt k.handle

/-- `fhold` (R307). -/
def execFhold (h : Hd) (xd xa : Reg) (loc : BitVec 10) (s : State) : Res :=
  withCur s
    (fun t =>
      if !t.guard h then endT t.id s
      else
        match t.readX xa.toNat with
        | none => parkT t.id .retry s
        | some (f, t1) =>
          match s.regErr t.id [t.dst xa.toNat] with
          | some e => trapT t.id (machineTrap e.st e.va) false s
          | none =>
            match holdCheck s t.agent t.caps loc.toNat f with
            | .trap ti => trapT t.id ti false s
            | .ok pt k =>
              if !(s.overLimit t.part [] [(0, pt)]).isEmpty then trapT t.id (folioRange f loc.toNat 0 0x23) false s
              else if !s.room t.part [pt] || s.busy t.id [t.dst xd.toNat] || s.pushBlocked t [xd.toNat] then parkT t.id .retry s
              else
                let s1 := (s.addChange t.id.cluster t.id.tile pt 1 [t.id]).updThread t.id fun u =>
                  { u with caps := u.caps ++ [⟨k, pt, none⟩], recvq := t1.recvq }
                endT t.id (writeX t.id xd.toNat (w64 k) s1))
    fun g =>
      if !g.xOk [xa.toNat, xd.toNat] then trapG g.id (illegalOp g.pc g.line rRegister) false s
      else
        match (g.active h).mapM fun l => (g.readX xa.toNat l).map fun v => (l, v) with
        | none => parkG g.id .retry s
        | some rows =>
          let mach := laneErrs s g.id (fun l => [xDst xa.toNat l]) (g.active h)
          let res := rows.map fun (r : Nat × Word) => (r.1, r.2, holdCheck s g.agent (g.laneCaps r.1) loc.toNat r.2)
          let bad := mergeFaults mach (res.filterMap fun r => match r.2.2 with | .trap t => some (r.1, t) | _ => none)
          let todo := res.filterMap fun r => match r.2.2 with
            | .ok pt k => if bad.any fun b => b.1 == r.1 then none else some (r.1, r.2.1, pt, k)
            | _ => none
          let past := s.overLimit g.part [] (todo.map fun d => (d.1, d.2.2.1))
          let bad1 := mergeFaults bad (todo.filterMap fun d =>
            if past.contains d.1 then some (d.1, folioRange d.2.1 loc.toNat 0 0x23) else none)
          let go := todo.filter fun d => !past.contains d.1
          if !bad1.isEmpty && !g.galley then gangFaults g.id bad1 false s s
          else if !s.room g.part (go.map (·.2.2.1)) ||
              s.busy g.id ((g.active h).map fun l => if xd = 0 then .none else .pair xd.toNat l) then parkG g.id .retry s
          else
            let s1 := go.foldl (fun s d =>
              ((s.addChange g.id.cluster g.id.tile d.2.2.1 1 [g.id]).updGang g.id fun u =>
                { u with caps := u.caps ++ [(d.1, ⟨d.2.2.2, d.2.2.1, none⟩)] }).putDst g.id
                (if xd = 0 then .none else .pair xd.toNat d.1) (w64 d.2.2.2)) s
            gangFaults g.id bad1 false s (s1.updGang g.id Gang.next)

/-- A capability that is about to be retired or moved waits for its agent's copies, and its release comes first (R101). -/
def capRelease (c : CtxId) (part : Nat) (locs : List Nat) (s : State) : Rel :=
  let lv := (s.part? part).elim 0 fun p => locs.foldl (fun m l => max m (p.graph.level l)) 0
  release c (levelScope lv) (settleLoads c s)

/-- `finc` of a thread's capability: +1 at the new folio, then, acknowledged, −1 at the old one (R307); q is the receive queue
once its sources are read. -/
def incThread (t : Thread) (k : Nat) (g : Word) (q : List Pushed) (s : State) : Res :=
  match t.caps.find? fun x => x.handle == k with
  | none => endT t.id s
  | some x =>
    match x.moving with
    | none =>
      let new := { x.pt with folio := g }
      if !(s.overLimit t.part [] [(0, new)]).isEmpty then trapT t.id (folioRange g x.pt.loc 0 0x23) false s
      else if !s.room t.part [new] || s.copying t.id then parkT t.id .retry s
      else
        match capRelease t.id t.part [x.pt.loc] s with
        | .refused s1 ti => trapT t.id ti false s1
        | .wait s1 => parkT t.id .retry s1
        | .ok s1 =>
          parkT t.id .retry ((s1.addChange t.id.cluster t.id.tile new 1 [t.id]).updThread t.id fun u =>
            { u with caps := u.caps.map fun y => if y.handle = k then { y with moving := some g } else y })
    | some g1 =>
      if t.unacked ≠ 0 then parkT t.id .retry s
      else
        endT t.id ((retire t.id.cluster t.id.tile x.pt s).updThread t.id fun u =>
          { u with
            recvq := q
            caps := u.caps.map fun y =>
              if y.handle = k then { y with pt := { y.pt with folio := g1 }, moving := none } else y })

/-- `finc` (R307). -/
def execFinc (h : Hd) (xa xb : Reg) (s : State) : Res :=
  withCur s
    (fun t =>
      if !t.guard h then endT t.id s
      else
        match t.readXs [xa.toNat, xb.toNat] with
        | none => parkT t.id .retry s
        | some (vs, t1) =>
          match s.regErr t.id [t.dst xa.toNat, t.dst xb.toNat] with
          | some e => trapT t.id (machineTrap e.st e.va) false s
          | none =>
            match incCheck s t.agent t.caps (vs.getD 0 0) (vs.getD 1 0) with
            | .trap ti => trapT t.id ti false s
            | .ok _ k => incThread t k (vs.getD 1 0) t1.recvq s)
    fun g =>
      if !g.xOk [xa.toNat, xb.toNat] then trapG g.id (illegalOp g.pc g.line rRegister) false s
      else
        let act := g.active h
        match act.mapM fun l => (g.readXs [xa.toNat, xb.toNat] l).map fun vs => (l, vs) with
        | none => parkG g.id .retry s
        | some rows =>
          let mach := laneErrs s g.id (fun l => [xDst xa.toNat l, xDst xb.toNat l]) act
          let res := rows.map fun (r : Nat × List Word) =>
            (r.1, r.2.getD 1 0, incCheck s g.agent (g.laneCaps r.1) (r.2.getD 0 0) (r.2.getD 1 0))
          let bad := mergeFaults mach (res.filterMap fun r => match r.2.2 with | .trap t => some (r.1, t) | _ => none)
          let all := res.filterMap fun r => match r.2.2 with
            | .ok pt k => if bad.any fun b => b.1 == r.1 then none else some (r.1, r.2.1, pt, k)
            | _ => none
          -- the increments still to be made
          let fresh := all.filter fun d => g.caps.any fun x => x.1 == d.1 && x.2.handle == d.2.2.2 && x.2.moving.isNone
          let past := s.overLimit g.part [] (fresh.map fun d => (d.1, { d.2.2.1 with folio := d.2.1 }))
          let bad := mergeFaults bad (fresh.filterMap fun d =>
            if past.contains d.1 then some (d.1, folioRange d.2.1 d.2.2.1.loc 0 0x23) else none)
          if !bad.isEmpty && !g.galley then gangFaults g.id bad false s s
          else
            let todo := all.filter fun d => !past.contains d.1
            let new := fresh.filter fun d => !past.contains d.1
            let mine := fun (x : Nat × Cap) => todo.any fun d => d.1 == x.1 && d.2.2.2 == x.2.handle
            if todo.isEmpty then gangFaults g.id bad false s (s.updGang g.id Gang.next)
            else if !new.isEmpty then
              if s.copying g.id || !s.room g.part (new.map fun d => { d.2.2.1 with folio := d.2.1 }) then parkG g.id .retry s
              else
                match capRelease g.id g.part (todo.map (·.2.2.1.loc)) s with
                | .refused s1 ti => refusedG g.id act ti s1
                | .wait s1 => parkG g.id .retry s1
                | .ok s1 =>
                  let s2 := new.foldl (fun s d => s.addChange g.id.cluster g.id.tile { d.2.2.1 with folio := d.2.1 } 1 [g.id]) s1
                  let mark := fun (x : Nat × Cap) =>
                    match new.find? fun d => d.1 == x.1 && d.2.2.2 == x.2.handle with
                    | some d => (x.1, { x.2 with moving := some d.2.1 })
                    | none => x
                  parkG g.id .retry (s2.updGang g.id fun u => { u with caps := u.caps.map mark })
            else if g.unacked ≠ 0 then parkG g.id .retry s
            else
              let s1 := (g.caps.filter mine).foldl (fun s x => retire g.id.cluster g.id.tile x.2.pt s) s
              let move := fun (x : Nat × Cap) =>
                if mine x then (x.1, { x.2 with pt := { x.2.pt with folio := x.2.moving.getD x.2.pt.folio }, moving := none })
                else x
              let s2 := s1.updGang g.id fun u => { u with caps := u.caps.map move }
              gangFaults g.id bad false s (s2.updGang g.id Gang.next)

/-- `fdrop` (R307). -/
def execFdrop (h : Hd) (xa : Reg) (s : State) : Res :=
  withCur s
    (fun t =>
      if !t.guard h then endT t.id s
      else
        match t.readX xa.toNat with
        | none => parkT t.id .retry s
        | some (v, t1) =>
          match s.regErr t.id [t.dst xa.toNat] with
          | some e => trapT t.id (machineTrap e.st e.va) false s
          | none =>
            match dropCheck t.caps v with
            | .trap ti => trapT t.id ti false s
            | .ok pt k =>
              if s.copying t.id then parkT t.id .retry s
              else
                match capRelease t.id t.part [pt.loc] s with
                | .refused s1 ti => trapT t.id ti false s1
                | .wait s1 => parkT t.id .retry s1
                | .ok s1 =>
                  if (s1.thread? t.id).elim false fun u => u.unacked != 0 then parkT t.id .retry s1
                  else
                    endT t.id ((retire t.id.cluster t.id.tile pt s1).updThread t.id fun u =>
                      { u with caps := u.caps.filter fun x => x.handle != k, recvq := t1.recvq }))
    fun g =>
      if !g.xOk [xa.toNat] then trapG g.id (illegalOp g.pc g.line rRegister) false s
      else
        let act := g.active h
        match act.mapM fun l => (g.readX xa.toNat l).map fun v => (l, v) with
        | none => parkG g.id .retry s
        | some rows =>
          let mach := laneErrs s g.id (fun l => [xDst xa.toNat l]) act
          let res := rows.map fun (r : Nat × Word) => (r.1, dropCheck (g.laneCaps r.1) r.2)
          let bad := mergeFaults mach (res.filterMap fun r => match r.2 with | .trap t => some (r.1, t) | _ => none)
          if !bad.isEmpty && !g.galley then gangFaults g.id bad false s s
          else
            let todo := res.filterMap fun r => match r.2 with
              | .ok pt k => if bad.any fun b => b.1 == r.1 then none else some (r.1, pt, k)
              | _ => none
            if todo.isEmpty then gangFaults g.id bad false s (s.updGang g.id Gang.next)
            else if s.copying g.id then parkG g.id .retry s
            else
              match capRelease g.id g.part (todo.map (·.2.1.loc)) s with
              | .refused s1 ti => refusedG g.id act ti s1
              | .wait s1 => parkG g.id .retry s1
              | .ok s1 =>
                if (s1.gang? g.id).elim false fun u => u.unacked != 0 then parkG g.id .retry s1
                else
                  let s2 := todo.foldl (fun s d => retire g.id.cluster g.id.tile d.2.1 s) s1
                  let keep := fun (x : Nat × Cap) => !todo.any fun d => d.1 == x.1 && d.2.2 == x.2.handle
                  gangFaults g.id bad false s1
                    ((s2.updGang g.id fun u => { u with caps := u.caps.filter keep }).updGang g.id Gang.next)

/-! ## Waiting and probing -/

/-- What `fwait` finds (R139, R143, R308). -/
inductive WaitChk where
  | trap (t : TrapInfo)
  | wait
  | free
  | closed (sc : Scope)

/-- The checks of `fwait` on one folio (R308). -/
def waitCheck (s : State) (ag : Agent) (loc : Nat) (f : Word) : WaitChk :=
  match s.part? ag.part with
  | none => .trap (folioRange f loc 0 0x22)
  | some p =>
    match p.graph.locs[loc]? with
    | none => .trap (folioRange f loc 0 0x22)
    | some l =>
      if !folioOk f then .trap (folioRange f loc 0 0x22)
      else if folioDepth f ≠ l.depth then .trap (folioRange f loc 0 0x21)
      else
        let inst := (s.pointFor ag loc f).inst
        if l.deleted then .closed (levelScope l.eff)
        else if !hasInst l.eff ag.team || !p.opened.contains inst then .free
        else if p.toldClosed inst loc f || (p.walk.isNone && belowFrontier f (s.shown p inst loc)) then .closed (levelScope l.eff)
        else .wait

/-- `fwait` (R308). -/
def execFwait (h : Hd) (xa : Reg) (loc : BitVec 10) (gbit : Bool) (s : State) : Res :=
  withCur s
    (fun t =>
      if !t.guard h then endT t.id s
      else
        match t.readX xa.toNat with
        | none => parkT t.id .retry s
        | some (f, t1) =>
          match s.regErr t.id [t.dst xa.toNat] with
          | some e => trapT t.id (machineTrap e.st e.va) false s
          | none =>
            let s1 := s.updThread t.id fun u => { u with recvq := t1.recvq }
            match waitCheck s t.agent loc.toNat f with
            | .trap ti => trapT t.id ti false s
            | .wait => parkT t.id .retry s
            | .free => endT t.id s1
            | .closed sc =>
              match s.relAwait t.id with
              | some s2 => parkT t.id .retry s2
              | none => endT t.id (acquire t.id sc (settleLoads t.id s1)))
    fun g =>
      if gbit then
        if !g.sOk [xa.toNat] then trapG g.id (illegalOp g.pc g.line rRegister) false s
        else
          match s.regErr g.id [.s xa.toNat] with
          | some e => trapG g.id (machineTrap e.st e.va) false s
          | none =>
            match waitCheck s g.agent loc.toNat (g.getS xa.toNat) with
            | .trap ti => trapG g.id ti false s
            | .wait => parkG g.id .retry s
            | .free => endG g.id s
            | .closed sc =>
              match s.relAwait g.id with
              | some s1 => parkG g.id .retry s1
              | none => endG g.id (acquire g.id sc s)
      else if !g.xOk [xa.toNat] then trapG g.id (illegalOp g.pc g.line rRegister) false s
      else
        match (g.active h).mapM fun l => (g.readX xa.toNat l).map fun v => (l, v) with
        | none => parkG g.id .retry s
        | some rows =>
          let mach := laneErrs s g.id (fun l => [xDst xa.toNat l]) (g.active h)
          let res := rows.map fun (r : Nat × Word) => (r.1, waitCheck s g.agent loc.toNat r.2)
          let bad := mergeFaults mach (res.filterMap fun r => match r.2 with | .trap t => some (r.1, t) | _ => none)
          if !bad.isEmpty && !g.galley then gangFaults g.id bad false s s
          else if res.any fun r => match r.2 with | .wait => true | _ => false then parkG g.id .retry s
          else
            match s.relAwait g.id with
            | some s1 => parkG g.id .retry s1
            | none =>
              let s1 := res.foldl (fun s r => match r.2 with
                | .closed sc => acquire g.id sc s
                | _ => s) s
              gangFaults g.id bad false s (s1.updGang g.id Gang.next)

/-- What `fprobe` returns (R309). -/
def probeFrontier (s : State) (ag : Agent) (loc : Nat) : Word :=
  let inf := ~~~ (0 : Word)
  match s.part? ag.part with
  | none => inf
  | some p =>
    match p.graph.locs[loc]? with
    | none => inf
    | some l =>
      let inst := (s.pointFor ag loc 0).inst
      if l.deleted || !hasInst l.eff ag.team || !p.opened.contains inst then inf else (s.shown p inst loc).getD inf

/-- What `fprobe.info` returns (R309). -/
def probeInfo (s : State) (ag : Agent) (loc : Nat) : Word :=
  match (s.part? ag.part).bind fun p => p.graph.locs[loc]? with
  | none => w64 (2 ^ 62)
  | some l =>
    w64 (b2n l.deleted * 2 ^ 63 + l.cls * 2 ^ 18 + l.eff * 2 ^ 16 + l.depth * 2 ^ 14 + l.port * 2 ^ 10 + l.node)

/-- `fprobe` and `fprobe.info`: a value of the location for a thread, each active lane, or the gang (R309). -/
def probeInstr (h : Hd) (xd : Reg) (gbit : Bool) (f : Agent → Word) (s : State) : Res :=
  withCur s (fun t => regT false false h [] [xd.toNat] (fun i => ([.x xd (f t.agent)], i.seed)) t s)
    fun g =>
      if gbit then regS false h [] [xd.toNat] (fun i => ([.x xd (f g.agent)], i.seed)) g s
      else regG false false h [] [xd.toNat] (fun i => ([.x xd (f g.agent)], i.seed)) g s

/-- `fprobe` (R309). -/
def execFprobe (h : Hd) (xd : Reg) (loc : BitVec 10) (g : Bool) (s : State) : Res :=
  probeInstr h xd g (fun ag => probeFrontier s ag loc.toNat) s

/-- `fprobe.info` (R309). -/
def execFprobeInfo (h : Hd) (xd : Reg) (loc : BitVec 10) (g : Bool) (s : State) : Res :=
  probeInstr h xd g (fun ag => probeInfo s ag loc.toNat) s

/-! ## Counting units -/

/-- Whether a count point lies in a TEAM instance (R144). -/
def CountPt.isTeam (p : CountPt) : Bool := match p.inst with | .team _ => true | _ => false

def CountPt.isCluster (p : CountPt) : Bool := match p.inst with | .cluster _ _ => true | _ => false

def CountPt.isDevice (p : CountPt) : Bool := match p.inst with | .device _ => true | _ => false

/-- The longest prefix of changes that names at most n count points: what one batch holds (R144). -/
def batchPrefix (n : Nat) : List CountPt → List Change → List Change
  | _, [] => []
  | seen, c :: cs =>
    if seen.contains c.pt then c :: batchPrefix n seen cs
    else if seen.length < n then c :: batchPrefix n (c.pt :: seen) cs
    else []

/-- TILE_BATCH_SEND (R144): the tile's changes of wider instances, netted, go to the cluster unit. -/
def execTileBatchSend (cl rank : Nat) (s : State) : Res :=
  let mine := fun (x : Nat × Nat × Change) => x.1 == cl && x.2.1 == rank && !x.2.2.pt.isTeam
  let out := (s.tileOut.filter mine).map (·.2.2)
  let pre := batchPrefix 32 [] out
  if pre.isEmpty then .next s
  else
    .next { s with
      tileOut := (s.tileOut.filter fun x => !mine x) ++ (out.drop pre.length).map fun c => (cl, rank, c)
      clusterIn := s.clusterIn ++ [(cl, netBatch pre)] }

/-- CLUSTER_BATCH_FORWARD (R144). -/
def execClusterBatchForward (cl : Nat) (s : State) : Res :=
  let out := (s.clusterOut.filter fun x => x.1 == cl).map (·.2)
  let pre := batchPrefix 128 [] out
  if pre.isEmpty then .next s
  else
    .next { s with
      clusterOut := (s.clusterOut.filter fun x => x.1 != cl) ++ (out.drop pre.length).map fun c => (cl, c)
      devIn := s.devIn ++ [netBatch pre] }

/-- DEVICE_BATCH_FORWARD (R144): SYSTEM changes go to the job's aggregating device. -/
def execDeviceBatchForward (s : State) : Res :=
  if s.devOut.isEmpty then .next s
  else
    let b := netBatch s.devOut
    .next (if s.aggregator = s.jobDevice then { s with devOut := [], aggIn := s.aggIn ++ [b] }
      else
        { s with
          devOut := [], nextId := s.nextId + 1, sentBatches := s.sentBatches ++ [(s.nextId, b)]
          out := s.out ++ [.counts s.aggregator s.nextId b] })

/-- JOB_START (R144): system software names the device's index in the job and the aggregating device. -/
def execJobStart (device aggregator : Nat) (s : State) : Res :=
  .next { s with jobDevice := device, aggregator := aggregator, jobFaulted := false, faultedDevices := [] }

/-- A unit's changes applied, with what their acknowledgements set going (R145, R146). -/
def applyUnit (b : Batch) (s : State) : State := finishWaiting (s.applyChanges b)

/-- BATCH_APPLY (R144, R145): a unit applies the changes of its own instances and passes the rest on. -/
def execBatchApply (u : Unit4) (s : State) : Res :=
  match u with
  | .tile cl rank =>
    let mine := fun (x : Nat × Nat × Change) => x.1 == cl && x.2.1 == rank && x.2.2.pt.isTeam
    let b := netBatch ((s.tileOut.filter mine).map (·.2.2))
    if b.isEmpty then .next s else .next (applyUnit b { s with tileOut := s.tileOut.filter fun x => !mine x })
  | .cluster cl =>
    match s.clusterIn.find? fun x => x.1 == cl with
    | none => .next s
    | some x =>
      let s1 := { s with clusterIn := s.clusterIn.erase x
                         clusterOut := s.clusterOut ++ (x.2.filter fun c => !c.pt.isCluster).map fun c => (cl, c) }
      .next (applyUnit (x.2.filter fun c => c.pt.isCluster) s1)
  | .device =>
    match s.devIn with
    | [] => .next s
    | b :: bs =>
      .next (applyUnit (b.filter fun c => c.pt.isDevice)
        { s with devIn := bs, devOut := s.devOut ++ b.filter fun c => !c.pt.isDevice })
  | .aggregator =>
    match s.aggIn with
    | [] => .next s
    | b :: bs => .next (applyUnit b { s with aggIn := bs })

/-- A frontier set as announced, and its waiters try again (R147). -/
def setAnnounced (part : Nat) (i : Inst) (loc : Nat) (f : Option Word) (s : State) : State :=
  (s.updPart part fun p =>
    { p with announced := (p.announced.filter fun a => !(a.inst == i && a.loc == loc)) ++ [⟨i, loc, f⟩] })

/-- FRONTIER_ANNOUNCE (R142, R143, R147): a frontier that has grown is announced to its waiters. -/
def execFrontierAnnounce (i : Inst) (loc : Nat) (s : State) : Res :=
  match s.part? (s.instPart i) with
  | none => .next s
  | some p =>
    let new := p.frontier i loc
    if s.canAnnounce p i && loc < p.graph.locs.length && (p.told? i loc).any (fun a => frontierGrew a.folio new) then
      let s1 := setAnnounced p.cfg.num i loc new s
      .next (match i with
        | .system _ => { s1 with out := s1.out ++ [.frontier p.cfg.num loc new] }
        | _ => s1)
    else .next s

end Sys2Proof.Machine
end

