-- ==== Sys2Proof/Machine/Galley.lean ====
section
/-! DEFINITION. Kernel headers (R225, R226), fetching a line (R21, R57), fresh contexts (R388), gang calls and their return
(R310, R311, R46), and the steps of the galley (R170 to R172). -/

namespace Sys2Proof.Machine

/-! ## Kernel headers -/

/-- The fields of a header's 64 bytes (R225). -/
def headerOf (b : List Byte) : KHdr :=
  let f := fun (o n : Nat) => leNat ((b.drop o).take n)
  { kind := f 6 1, width := f 7 1, vregs := f 8 2, sregs := f 10 1, acc := f 11 1, scratch := f 12 4, timeout := f 16 4,
    progress := f 20 1, place := f 21 1, windows := f 22 1, entry := f 23 1, cls := f 24 1, corows := f 25 1, cocols := f 26 1,
    flags := f 27 1 }

/-- Whether a header is valid (R225, R226). -/
def headerValid (b : List Byte) : Bool :=
  let h := headerOf b
  let gang := h.kind == 1 || h.kind == 2
  leNat (b.take 4) == 0x3353_4946 && leNat ((b.drop 4).take 2) == 3 && ((b.drop 28).take 36).all (· == 0) &&
    h.kind ≤ 3 && (if gang then 1 ≤ h.width && h.width ≤ 4 else h.width == 0) &&
    h.vregs % 16 == 0 && (if gang then h.vregs ≤ (if h.width = 4 then 256 else 512) else h.vregs == 0) &&
    (h.kind != 2 || 32 ≤ h.vregs) &&
    (if gang then h.sregs ≤ 31 && h.acc ≤ 8 else h.sregs == 0 && h.acc == 0) && (h.kind == 2 || h.timeout == 0) &&
    h.scratch % 256 == 0 && (if h.kind = 2 then h.scratch == 0 else h.scratch ≤ 2 ^ 20) &&
    (if gang then h.progress ≤ 1 else h.progress == 0) && (if h.kind = 2 then h.place == 0 else h.place ≤ 1) &&
    (if gang then h.windows == 0 else 1 ≤ h.windows && h.windows ≤ 64) && h.entry ≤ 29 &&
    (if h.kind = 3 then h.cls ≤ 15 else h.cls == 0) &&
    ((h.corows == 0 && h.cocols == 0) ||
      (h.kind < 2 && 1 ≤ h.corows && h.corows ≤ 8 && 1 ≤ h.cocols && h.cocols ≤ 8)) &&
    (if h.kind = 2 then h.flags == 0 else h.flags ≤ 1)

/-- The physical vector registers that a gang takes (R220). -/
def KHdr.physRegs (h : KHdr) : Nat := if h.width = 4 then 2 * h.vregs else h.vregs

/-! ## Fetching -/

/-- What a fetch comes to: what was fetched, a trap, or a wait for its translation. -/
inductive FetchRes (α : Type) where
  | ok (s : State) (x : α)
  | trap (s : State) (t : TrapInfo)
  | wait (s : State)

/-- A kernel header fetched under a context's translation context (R21, R27): its 64 bytes. -/
def fetchBytes (c : CtxId) (part : Nat) (ptbase va : Word) (s : State) : FetchRes (List Byte) :=
  if window va ≠ 0 then .trap s ⟨0x06, va, memInfo 0 .fetch rBadWindow⟩
  else
    match translateFor c part ptbase va .fetch s with
    | .wait s1 => .wait s1
    | .fault s1 e => .trap s1 (e.trap va .fetch)
    | .ok s1 e =>
      match s1.errAt .mem (e.pa va.toNat) 64 with
      | some m => .trap s1 (machineTrap m.st va)
      | none => .ok s1 (rdBytes s1.mem (e.pa va.toNat) 64)

/-- A line put into a tile's instruction cache of 64 KiB (R57); the line replaced is open (log 9). -/
def State.putICLine (s : State) (l : ICLine) : State :=
  let there := s.icache.filter fun x => x.cluster == l.cluster && x.tile == l.tile
  let s1 :=
    if there.length < 1024 then s
    else match there[Config.freePick s.fresh % there.length]? with
      | none => s
      | some v => { s.bump 1 with icache := s.icache.erase v }
  { s1 with icache := s1.icache ++ [l] }

/-- A line fetched through the tile's instruction cache, which keeps what it holds; the stores of a kernel into its own code are
not fetched during the launch (R57). -/
def fetchLine (c : CtxId) (part : Nat) (ptbase pc : Word) (s : State) : FetchRes Nat :=
  let va := w64 (pc.toNat / 64 * 64)
  if window va ≠ 0 then .trap s ⟨0x06, va, memInfo 0 .fetch rBadWindow⟩
  else
    match translateFor c part ptbase va .fetch s with
    | .wait s1 => .wait s1
    | .fault s1 e => .trap s1 (e.trap va .fetch)
    | .ok s1 e =>
      let pa := e.pa va.toNat
      match s1.icache.find? fun l => l.part == part && l.cluster == c.cluster && l.tile == c.tile && l.pa == pa with
      | some l => .ok s1 l.bits
      | none =>
        match s1.errAt .mem pa 64 with
        | some m => .trap s1 (machineTrap m.st va)
        | none =>
          let b := leNat (s1.codeBytes pa 64)
          .ok (s1.putICLine ⟨part, c.cluster, c.tile, pa, b⟩) b

/-! ## Fresh contexts -/

/-- A gang in the fresh state of R388. -/
def freshGang (id : CtxId) (part : Nat) (team : Option TeamId) (num : Nat) (h : KHdr) (entry ptbase : Word)
    (lanes : Mask) : Gang :=
  { id := id, part := part, team := team, num := num, state := .ready, width := h.lanes, vregs := h.vregs, sregs := h.sregs,
    accs := h.acc, pc := entry, lanes := lanes, line := none, stack := [], timer := 0, modeNone := h.progress == 1,
    period := 0x100, switchDue := false, yieldDue := false, v := [], empty := [], s := mkW fun _ => 0,
    preds := Vector.replicate 16 0, acc := [], flags := Vector.replicate 12 0, issued := 0, srseed := 1, lutlo := 0,
    luthi := 0, ptbase := ptbase, pend := 0, notBefore := 0, all := lanes, exitedLanes := 0, masked := 0, returned := 0,
    exitCodes := [], callers := [], caps := [], unacked := 0, matOps := [], matSeq := 0, written := [],
    arrivalW := none, arrivalN := none, awaitW := [], awaitN := [], pendingSends := [], njoin := 0, inJoin := false, joinDone := false, dueMachine := [],
    reenter := false }

/-- The lanes 0 to n − 1. -/
def firstLanes (n : Nat) : Mask := BitVec.ofNat 128 (2 ^ n - 1)

/-! ## `gcall` -/

/-- A gathering key whose timer has expired launches with the callers present (R170). -/
def fireKey (key : Nat) (s : State) : State :=
  match s.keys.find? fun k => k.id == key with
  | none => s
  | some k =>
    if k.hdr.timeout = 0 ∨ s.ac < k.since + k.hdr.timeout ∨ k.callers = [] then s
    else
      keysFreed k.part k.cluster { s with
        keys := s.keys.filter fun x => x.id != key
        launchRecs := s.launchRecs ++ [⟨k.part, k.cluster, k.entry, k.ptbase, k.hdr, k.callers⟩] }

/-- A caller arrives at its cluster's galley (R170): keys whose timers have expired by now launch without it. -/
def arriveGalley (w : KeyWaiter) (s : State) : State :=
  let s1 := (s.keys.filter fun k => k.part == w.part && k.cluster == w.cluster).foldl (fun s k => fireKey k.id s) s
  keysFreed w.part w.cluster (galleyJoin w s1)

/-- Whether a leaf's registers or tiles exceed the partition's pool on one wide core (R227). -/
def leafTooBig (s : State) (t : Thread) (h : KHdr) : Bool :=
  let q := (s.quarters t.part t.id.cluster).length
  512 * q < h.physRegs || 2 * q < h.acc

/-- The calling part of `gcall` (R310): header, arguments, release, and the caller in the galley; q is the receive queue once
the target is read. -/
def gcallTo (t : Thread) (target : Word) (q : List Pushed) (s : State) : Res :=
  match fetchBytes t.id t.part t.ptbase (w64 (target.toNat / 64 * 64) - 64) s with
  | .trap s1 ti => trapT t.id ti false s1
  | .wait s1 => parkT t.id .retry s1
  | .ok s1 b =>
    let hd := headerOf b
    if target.toNat % 64 ≠ hd.entry || !headerValid b || hd.kind ≠ 2 || leafTooBig s1 t hd then
      trapT t.id (badHeader t.pc target t.line) false s1
    else
      let args := (List.range 8).map (· + 24)
      match t.readXs args with
      | none => parkT t.id .retry s1
      | some (vs, _) =>
        match s1.regErr t.id (args.map t.dst) with
        | some e => trapT t.id (machineTrap e.st e.va) false s1
        | none =>
          match releaseThread t.id .cl (settleLoads t.id s1) with
          | .refused s2 ti => trapT t.id ti false s2
          | .wait s2 => parkT t.id .retry s2
          | .ok s2 =>
            let s3 := (args.map t.dst).foldl (fun s d => s.markEmpty t.id d) s2
            let s4 := s3.updThread t.id fun u => { u with args := vs, recvq := q, state := .parked .gcall }
            .next (arriveGalley ⟨t.part, t.id.cluster, target, t.ptbase, hd, t.id⟩ s4)

/-- `gcall label` (R310). -/
def execGcallLabel (h : Hd) (t : Target) (s : State) : Res :=
  withCur s (fun th => if th.guard h then gcallTo th (Target.pc t th.pc) th.recvq s else endT th.id s)
    fun g => notForGang g h [] (illegalOp g.pc g.line rVariant) s

/-- `gcall xa` (R310). -/
def execGcallReg (h : Hd) (xa : Reg) (s : State) : Res :=
  withCur s
    (fun t =>
      if !t.guard h then endT t.id s
      else
        match t.readX xa.toNat with
        | none => parkT t.id .retry s
        | some (v, t1) =>
          match s.regErr t.id [t.dst xa.toNat] with
          | some e => trapT t.id (machineTrap e.st e.va) false s
          | none => gcallTo t v t1.recvq s)
    fun g => notForGang g h [xa.toNat] (illegalOp g.pc g.line rVariant) s

/-! ## `gret` -/

/-- The results of a lane given to its caller, whose `gcall` ends (R97, R310). -/
def returnTo (k : CtxId) (vs : List Word) (s : State) : State :=
  match s.thread? k with
  | none => s
  | some t =>
    if t.state ≠ .parked .gcall then s
    else
      let s1 := (List.range 8).foldl (fun s i => s.putDst k (t.dst (24 + i)) (vs.getD i 0)) s
      (acquire k .cl s1).updThread k fun t => { t.next with args := [] }

/-- Lanes of a galley gang end; their capabilities are retired (log 21). -/
def endGalleyLanes (g : Gang) (ls : List Nat) (s : State) : State :=
  let m := maskOf ls
  let s1 := (g.caps.filter fun k => ls.contains k.1).foldl (fun s k => retireCap g.id.cluster g.id.tile k.2 s) s
  let s2 := s1.updGang g.id fun g =>
    { g with
      returned := g.returned ||| m, caps := g.caps.filter fun k => !ls.contains k.1
      callers := (List.range g.callers.length).map fun i => if ls.contains i then none else g.callers[i]?.join }
  gangSettle g.id (s2.updGang g.id fun g =>
    if g.lanes &&& ~~~ m = 0 then { g with lanes := 0, issued := g.issued + 1, state := .ready }
    else { g with lanes := g.lanes &&& ~~~ m }.next)

/-- The lines that a refused `gret` leaves, bound to the callers of the lanes that it returns (R46). -/
def bindLines (g : Gang) (cs : List CtxId) (s : State) : State :=
  (gangDirty s g.id g.part).foldl (fun s p => s.modWline p.1 fun x => x.regroup { p.2 with heldFor := cs, told := true }) s

/-- `gret` (R311, R46). -/
def execGret (h : Hd) (s : State) : Res :=
  withCur s
    (fun t => if t.guard h then trapT t.id (illegalOp t.pc t.line rVariant) false s else endT t.id s)
    fun g =>
      let act := g.active h
      if act.isEmpty then endG g.id s
      else if !g.galley then
        gangFaults g.id (act.map fun l => (l, illegalOp g.pc g.line rVariant)) false s (s.updGang g.id Gang.next)
      else
        let regs := (List.range 8).map (· + 8)
        match act.mapM fun l => (g.readXs regs l).map fun vs => (l, vs) with
        | none => parkG g.id .retry s
        | some rows =>
          let mach := laneErrs s g.id (fun l => regs.map fun r => xDst r l) act
          let good := rows.filter fun r => !mach.any fun b => b.1 == r.1
          match releaseGang g.id .cl (settleLoads g.id s) with
          | .refused s1 ti =>
            let cs := act.filterMap fun l => g.callers[l]?.join
            refusedG g.id act ti (if ti.cause = 0x0A then bindLines g cs s1 else s1)
          | .wait s1 => parkG g.id .retry s1
          | .ok s1 =>
            let s2 := mach.foldl (fun s f => maskLane g.id f.1 f.2 s) s1
            let s3 := good.foldl (fun s r => match g.callers[r.1]?.join with
              | none => s
              | some k => returnTo k r.2 s) s2
            .next (endGalleyLanes g (good.map (·.1)) s3)

/-! ## The galley's steps -/

/-- GALLEY_TIMEOUT (R170): a gathering key whose timer has expired launches with the callers present. -/
def execGalleyTimeout (key : Nat) (s : State) : Res := .next (fireKey key s)

/-- Mesh hops between two tiles of a cluster (R172). -/
def hops (a b : Nat) : Nat :=
  let d := fun (x y : Nat) => if x ≤ y then y - x else x - y
  d (a / 8) (b / 8) + d (a % 8) (b % 8)

/-- The gang contexts of a partition's quarters on a wide core that are free (R153). -/
def State.freeGangCtx (s : State) (part cl tile : Nat) : List CtxId :=
  (((s.quarters part cl).flatMap fun q => (List.range 4).map fun i => 4 * q + i).map fun n =>
    (⟨cl, tile, true, 0, n⟩ : CtxId)).filter fun c => (s.gang? c).isNone

/-- The registers and tiles of a partition's pool on a wide core that are in use (R153). -/
def State.poolUsed (s : State) (part cl tile : Nat) : Nat × Nat :=
  (s.gangs.filter fun g => g.part == part && g.id.cluster == cl && g.id.tile == tile).foldl
    (fun u g => (u.1 + (if g.width = 128 then 2 * g.vregs else g.vregs), u.2 + g.accs)) (0, 0)

/-- Whether a pool has room for n gangs of a header (R153, R172). -/
def State.poolFits (s : State) (part cl tile n : Nat) (h : KHdr) : Bool :=
  let q := (s.quarters part cl).length
  let u := s.poolUsed part cl tile
  n ≤ (s.freeGangCtx part cl tile).length && u.1 + n * h.physRegs ≤ 512 * q && u.2 + n * h.acc ≤ 2 * q

/-- Whether a tile is excluded from placement (R175) or retired. -/
def State.excluded (s : State) (cl tile : Nat) : Bool :=
  (s.thermal.any fun x => x.cluster == cl && x.tile == tile && x.excluded) || s.retired.contains (cl, tile)

/-- The callers of a gang in lane order (R171). -/
def laneOrder (cs : List CtxId) : List CtxId :=
  let k := fun (c : CtxId) => c.tile * 1024 + c.core * 32 + c.ctx
  sortBy (fun a b => decide (k a ≤ k b)) cs

/-- The free wide core nearest to the median caller (R172). -/
def galleyTile (s : State) (r : LaunchRec) : Option Nat :=
  let cs := laneOrder r.callers
  let mid := (cs[(cs.length - 1) / 2]?).elim 0 (·.tile)
  let ok := (List.range 64).filter fun t => s.poolFits r.part r.cluster t 1 r.hdr && !s.excluded r.cluster t
  ok.foldl (fun best t => match best with
    | none => some t
    | some b => if hops t mid < hops b mid then some t else some b) none

/-- GANG_PLACEMENT (R171, R172, R97): the oldest launch record that waits is placed as a gang; its first instruction is an
acquire at .cl. -/
def execGangPlacement (part cl : Nat) (s : State) : Res :=
  match s.launchRecs.find? fun r => r.part == part && r.cluster == cl with
  | none => .next s
  | some r =>
    match galleyTile s r with
    | none => .next s
    | some tile =>
      match (s.freeGangCtx part cl tile).head? with
      | none => .next s
      | some c =>
        let cs := laneOrder r.callers
        let g0 := { freshGang c part none 0 r.hdr r.entry r.ptbase (firstLanes cs.length) with callers := cs.map some }
        let g1 := (List.range cs.length).foldl (fun g l =>
          match (cs[l]?).bind s.thread? with
          | none => g
          | some t => (List.range 8).foldl (fun g i => g.setPair (8 + i) l (t.args.getD i 0)) g) g0
        .next (acquire c .cl { s with gangs := s.gangs ++ [{ g1 with written := [] }], launchRecs := s.launchRecs.erase r })

end Sys2Proof.Machine
end

