-- ==== Sys2Proof/Machine/Issue.lean ====
section
/-! DEFINITION. Issue: the passing of time (R2), the slots of the scalar cores (R65, R157) and of the wide cores (R165, R166),
entering a line (R208, R209), the head checks of R223 steps 1 to 6, and what a turn comes to. -/

namespace Sys2Proof.Machine

/-! ## Time -/

/-- A sleeping thread at a cc: it is READY when its own cc has come (R242). -/
def Thread.wakeAt (cc : Nat) (t : Thread) : Thread :=
  match t.state with
  | .sleeping (some w) => if t.id.onDevice && decide (w ≤ cc) then { t with state := .ready } else t
  | _ => t

/-- Whether a partition is resident on its tiles: a team of it stands on the device and no pre-emption of it is under way
(R387). -/
def State.resident (s : State) (part : Nat) : Bool :=
  (s.teams.any fun t => t.part == part && t.cluster < 12 && t.state != .ended) &&
    !s.preReqs.any fun r => r.part == part && r.raised && r.team.isNone

/-- The time moves to a later cc: sleeping threads wake (R242), gangs hold their wide cores (R168), resident partitions use up
their slices (R387), and the nominal time goes on, faster than the cc while the clocks are throttled (R120). -/
def State.passTo (s : State) (cc : Nat) : State :=
  if cc ≤ s.cc then s
  else
    let d := cc / 2 - s.cc / 2
    { s with
      cc := cc
      threads := s.threads.map (Thread.wakeAt cc)
      gangs := s.gangs.map fun g => if g.id.onDevice && g.state != .exited then { g with timer := g.timer + d } else g
      time := s.time + (cc - s.cc) + if s.throttled then Config.throttleExtra s.cc else 0
      parts := s.parts.map fun p => if s.resident p.cfg.num then { p with sliceLeft := p.sliceLeft - (cc - s.cc) } else p }

/-- The first cc from n on in which a barrel context can issue (R65, R157): its own slot, not reserved. -/
def slotFrom (ctx n : Nat) : Nat → Nat
  | 0 => n
  | k + 1 => if n % 16 = ctx ∧ n % 257 ≠ 0 then n else slotFrom ctx (n + 1) k

/-- The first ac from n on whose slot belongs to one of a partition's quarters (R165). -/
def wideSlotFrom (qs : List Nat) (n : Nat) : Nat → Nat
  | 0 => n
  | k + 1 => if qs.contains (n % 4) then n else wideSlotFrom qs (n + 1) k

/-- The ac after the k-th of a partition's slots from n on (R166). -/
def wideAfter (qs : List Nat) (n : Nat) : Nat → Nat
  | 0 => n
  | k + 1 => wideAfter qs (wideSlotFrom qs n 4 + 1) k

/-- How many times as many passes an element type takes (R166, R321). -/
def tyPasses (ty : Ety) : Nat := if ty == .f64 then 4 else if ty.is64 then 2 else 1

/-- The same for a source format of `vcvt`. -/
def xfmtPasses (f : XFmt) : Nat :=
  match f with
  | .f64 => 4
  | .i64 => 2
  | .n64 => 2
  | _ => 1

/-- A register pair counts as a 64-bit integer type (R321). -/
def pairPasses (n64 : Bool) : Nat := if n64 then 2 else 1

/-- The parts that one register holds of a narrow format (R332). -/
def pfmtParts (f : PFmt) : Nat :=
  match f with
  | .f16 => 2 | .bf16 => 2 | .i16 => 2 | .n16 => 2 | .i8 => 4 | .n8 => 4 | .e4m3 => 4 | .e5m2 => 4 | .e4m3z => 4
  | .e2m1 => 8 | .i4 => 8

/-- The parts that a register holds in an `mrd` or `mwr` (R366). -/
def mrdParts (k : MrdKind) : Nat :=
  match k with
  | .raw => 1
  | .fp f _ _ => 32 / f.width
  | .i8 _ => 4

/-- The parts of `mwr`'s source (R367). -/
def mwrParts (conv : Option MFmt) : Nat :=
  match conv with
  | none => 1
  | some f => 32 / f.width

/-- An `.f64` instruction of the scalar kind in lanes (R232). -/
def dblPasses (dbl : Bool) : Nat := if dbl then 4 else 1

/-- The occupancy of an instruction in units of the pass count of R166 (R321). -/
def occupancy : Instr → Nat
  | .vadd _ r => tyPasses r.ty
  | .vsub _ r => tyPasses r.ty
  | .vmul _ r => tyPasses r.ty
  | .vfma _ _ r _ => tyPasses r.ty
  | .vmin _ ty _ => tyPasses ty
  | .vmax _ ty _ => tyPasses ty
  | .vmulh _ ty _ => tyPasses ty
  | .vdiv _ ty _ _ _ => tyPasses ty
  | .vsqrt _ ty _ _ _ => tyPasses ty
  | .vrcp _ ty _ _ _ => 2 * tyPasses ty
  | .vrsq _ ty _ _ _ => 2 * tyPasses ty
  | .vexp2 _ ty _ _ _ => 2 * tyPasses ty
  | .vlog2 _ ty _ _ _ => 2 * tyPasses ty
  | .vsgnCp _ ty _ => tyPasses ty
  | .vsgnNcp _ ty _ => tyPasses ty
  | .vsgnXor _ ty _ => tyPasses ty
  | .vsgnAbs _ ty _ _ => tyPasses ty
  | .vsgnNeg _ ty _ _ => tyPasses ty
  | .vmov _ n64 _ _ => pairPasses n64
  | .vshl _ ty _ _ _ => tyPasses ty
  | .vshr _ ty _ _ _ => tyPasses ty
  | .vsar _ ty _ _ _ => tyPasses ty
  | .vclz _ ty _ _ => tyPasses ty
  | .vcmp _ ty _ _ _ _ _ => tyPasses ty
  | .vsel _ n64 _ _ => pairPasses n64
  | .vcvt _ ty src _ _ _ _ => max (tyPasses ty) (xfmtPasses src)
  | .vpack _ f _ _ _ _ => pfmtParts f
  | .vunpk _ f _ _ _ _ _ => pfmtParts f
  | .vlutL4 _ _ _ => 2
  | .vlutTab _ _ => 16
  | .vshfIdx _ n64 _ => pairPasses n64
  | .vshfXor _ n64 _ _ _ => pairPasses n64
  | .vshfUp _ n64 _ _ _ => pairPasses n64
  | .vshfDn _ n64 _ _ _ => pairPasses n64
  | .vsplat _ n64 _ _ => pairPasses n64
  | .vbcast _ n64 _ _ _ => pairPasses n64
  | .vrot _ n64 _ _ _ => pairPasses n64
  | .vred _ _ ty _ _ _ _ => 4 * tyPasses ty
  | .vscan _ _ ty _ _ _ _ _ => 4 * tyPasses ty
  | .vseg _ _ ty _ _ _ => 4 * tyPasses ty
  | .vconf _ n64 _ _ _ => 4 * pairPasses n64
  | .vtopk _ _ _ _ _ => 8
  | .vmrgk _ _ _ _ _ => 8
  | .vld _ z _ _ _ _ => pairPasses (z == .n64)
  | .vst _ z _ _ _ _ => pairPasses (z == .n64)
  | .vldc _ n1 _ _ _ => n1.toNat + 1
  | .vstc _ n1 _ _ _ => n1.toNat + 1
  | .vamo _ _ ty _ _ => tyPasses ty
  | .vrdm _ _ sz8 _ _ _ _ _ => pairPasses sz8
  | .fadd _ d _ _ => dblPasses d
  | .fsub _ d _ _ => dblPasses d
  | .fmul _ d _ _ => dblPasses d
  | .ffma _ _ d _ _ _ => dblPasses d
  | .fmin _ d _ => dblPasses d
  | .fmax _ d _ => dblPasses d
  | .fcmp _ d _ _ _ _ _ => dblPasses d
  | .fcvt _ d f _ _ _ => dblPasses (d == .f64 || f == .f64)
  | .frcp _ d _ _ => dblPasses d
  | .frsq _ d _ _ => dblPasses d
  | .fsgn _ d _ _ => dblPasses d
  | .fclass _ d _ => dblPasses d
  | .mrd _ _ _ _ _ k => 16 / mrdParts k
  | .mwr _ _ _ _ _ f => 16 / mwrParts f
  | .mtrn _ _ _ => 16
  | _ => 1

/-- Instructions that occupy one slot at every width (R362, R364). -/
def oneSlot : Instr → Bool
  | .mzero _ _ => true
  | .mready _ => true
  | _ => false

/-- The passes of a gang's instruction (R166, R321); one slot under G = 1 (R232). -/
def passes (width : Nat) (once : Bool) (i : Instr) : Nat :=
  if once || oneSlot i then 1 else (if width = 128 then 2 else 1) * occupancy i

/-- Whether the head at a PC has G = 1 (R217); in a head that decodes the bit is G wherever it may be set. -/
def gAt (pc : Word) (line : Nat) : Bool :=
  match opInfo (bits (lineHead line (pc.toNat % 64)) 13 6) with
  | some i => tailG i.cls (lineTail line (pc.toNat % 64))
  | none => false

/-- The slot record of a partition on a wide core. -/
def State.wideSlot (s : State) (c : CtxId) (part : Nat) : WideSlot :=
  match s.wide.find? fun w => w.cluster == c.cluster && w.tile == c.tile && w.part == part with
  | some w => w
  | none => ⟨c.cluster, c.tile, part, 15, 0⟩

/-- The slot record replaced. -/
def State.setWideSlot (s : State) (w : WideSlot) : State :=
  { s with wide := w :: s.wide.filter fun x => !(x.cluster == w.cluster && x.tile == w.tile && x.part == w.part) }

/-- A result that no register holds and that the instruction waits for: a privileged instruction with xd = x0 (R312). -/
def State.waitsResult (s : State) (c : CtxId) : Bool :=
  s.ops.any fun o => o.owner == c && (match o.kind with
    | .tlbinv _ .none => true
    | .restore _ .none => true
    | .graph .none => true
    | _ => false)

/-- The teams that are saved together with a team: the whole of a co-resident launch (R177, R374). -/
def State.saveGroup (s : State) (t : Team) : List Team :=
  match s.launch? t.id.launch with
  | none => [t]
  | some l => if l.coresident then s.teams.filter fun x => x.id.launch == l.uid && x.state == .running else [t]

/-- The RUNNING teams that a pre-emption concerns (R177, R384, R386). -/
def PreReq.teams (s : State) (r : PreReq) : List Team :=
  (s.teams.filter fun (t : Team) => t.state == .running && match r.team with
    | some x => t.id == x.1
    | none => t.part == r.part && r.tiles.contains (t.cluster, t.tile)).flatMap s.saveGroup

/-- Whether a pre-emption under way stops the contexts of a team (R384). -/
def State.stopping (s : State) (i : TeamId) : Bool := s.preReqs.any fun r => r.raised && (r.teams s).any fun t => t.id == i

/-- Whether a context's `ctxsave` waits for the save that it has asked for (R314). -/
def State.asksSave (s : State) (c : CtxId) : Bool := s.preReqs.any fun r => r.team.any fun x => x.2 == c

/-- Whether a thread can issue (R154, R157): not at an instruction boundary of a team that is being pre-empted (R384). -/
def State.canIssueT (s : State) (t : Thread) : Bool :=
  t.id.onDevice && t.state == .ready && !s.waitsResult t.id && !s.stopping t.team

/-- Whether a gang can issue (R155, R165): one that is being pre-empted goes on to its next line boundary (R384). -/
def State.canIssueG (s : State) (g : Gang) : Bool :=
  g.id.onDevice && g.state == .ready && !(g.line.isNone && g.team.any s.stopping)

/-- The gang of a partition that issues next on the wide core of a context: round-robin, from the one after the gang that
issued last (R165). -/
def State.nextGang (s : State) (c : CtxId) (part : Nat) : Option Gang :=
  let last := (s.wideSlot c part).last
  let gs := s.gangs.filter fun g =>
    g.id.cluster == c.cluster && g.id.tile == c.tile && g.part == part && s.canIssueG g
  let key := fun (g : Gang) => (g.id.ctx + 15 - last) % 16
  gs.foldl (fun b g => match b with
    | none => some g
    | some x => if key g < key x then some g else some x) none

/-! ## The torus (R369, R373) -/

/-- TORUS (R373). -/
def torusTrap (g : Gang) (ntile dir reason : Nat) : TrapInfo :=
  ⟨0x14, w64 g.num, w64 (ntile * 2 ^ 16 + dir * 2 ^ 8 + reason)⟩

/-- A gang's co-resident launch with its team's number, if it has one (R369, R176). -/
def State.torus (s : State) (g : Gang) : Option (Launch × Nat) :=
  match g.team with
  | none => none
  | some i =>
    match s.launch? i.launch with
    | none => none
    | some l => if l.coresident then some (l, i.team) else none

/-- The team numbers of the west and north neighbours, and of those from which arrivals come, the east and the south
(R369). -/
def Launch.west (l : Launch) (n : Nat) : Nat := n / l.hdr.cocols * l.hdr.cocols + (n % l.hdr.cocols + l.hdr.cocols - 1) % l.hdr.cocols
def Launch.east (l : Launch) (n : Nat) : Nat := n / l.hdr.cocols * l.hdr.cocols + (n % l.hdr.cocols + 1) % l.hdr.cocols
def Launch.north (l : Launch) (n : Nat) : Nat := (n / l.hdr.cocols + l.hdr.corows - 1) % l.hdr.corows * l.hdr.cocols + n % l.hdr.cocols
def Launch.south (l : Launch) (n : Nat) : Nat := (n / l.hdr.cocols + 1) % l.hdr.corows * l.hdr.cocols + n % l.hdr.cocols

/-- The participant of a gang in team n: the gang of the same number there, unless it has exited (R369, R373). -/
def State.participant (s : State) (l : Launch) (num n : Nat) : Option Gang :=
  s.gangs.find? fun x => x.team == some ⟨l.uid, n⟩ && x.num == num && x.state != .exited

/-- The tile rank of a team of a launch. -/
def State.rankOf (s : State) (l : Launch) (n : Nat) : Nat := (s.team? ⟨l.uid, n⟩).elim 0 (·.tile)

/-- A receiver of a pending block that is gone (R373), among the blocks that sel chooses. -/
def State.receiverGone (s : State) (g : Gang) (sel : Arrival → Bool) : Option TrapInfo :=
  match s.torus g with
  | none => none
  | some (l, n) =>
    (g.pendingSends.filter fun x => sel x.2).findSome? fun x =>
      let m := if x.1 then l.north n else l.west n
      if (s.participant l g.num m).isNone then some (torusTrap g (s.rankOf l m) (if x.1 then 1 else 0) 0x42) else none

/-- What the cover of operations meets first (R357): a receiver of their blocks that is gone (R373), or an uncorrectable error
(R361), which is raised once and leaves its tile undefined. -/
def coverTrap (g : Gang) (sel : MatOp → Bool) (blocks : Arrival → Bool) (s : State) : State × Option TrapInfo :=
  match s.receiverGone g blocks with
  | some ti => (s, some ti)
  | none =>
    match (g.matOps.filter sel).findSome? (·.err) with
    | some ti => (s.updGang g.id fun g => { g with
        matOps := g.matOps.map fun o => if sel o && o.err.isSome then { o with err := none, accDirty := true } else o }, some ti)
    | none => (s, none)

/-- A line entered after the flags of its wait mask reached zero covers the operations that set them, as their `mwait` would
(R357). -/
def coverByWait (c : CtxId) (mask : Nat) (s : State) : State × Option TrapInfo :=
  match s.gang? c with
  | none => (s, none)
  | some g =>
    let sel := fun (o : MatOp) => o.ended && o.flag.any fun k => bitAt mask k
    if !g.matOps.any sel then (s, none)
    else
      match coverTrap g sel (fun a => g.matOps.any fun o => sel o && o.seq == a.seq) s with
      | (s1, some ti) => (s1, some ti)
      | (s1, none) => (coverOps c sel s1, none)

/-! ## Entering a line -/


/-- ILLEGAL_LINE (R208, R224). -/
def lineTrap (line : Nat) (pc : Word) (e : LineErr) : TrapInfo :=
  let hdr := w64 (line % 2 ^ 32)
  let i := pc.toNat % 64
  match e with
  | .header => ⟨0x01, hdr, headInfo 0 i 0x30⟩
  | .count => ⟨0x01, hdr, headInfo 0 i 0x31⟩
  | .target => ⟨0x01, pc, headInfo 0 i 0x32⟩
  | .flag => ⟨0x01, hdr, headInfo 0 i 0x33⟩
  | .overflow => ⟨0x01, hdr, headInfo 0 i 0x34⟩
  | .gap => ⟨0x01, hdr, headInfo 0 i 0x35⟩
  | .tailLen h => ⟨0x01, hdr, headInfo (bits (lineHead line h) 13 6) h 0x36⟩

/-- What entering a line comes to (R35, R208, R209): a trap, a wait for its translation or its flags, or its start. -/
inductive Entry where
  | trap (s : State) (t : TrapInfo)
  | wait (s : State)
  | start (s : State) (line : Nat)

/-- A line fetched and checked for a context (R21, R208, R209). -/
def enterLine (c : CtxId) (part : Nat) (ptbase pc : Word) (fl : Flags) (s : State) : Entry :=
  match fetchLine c part ptbase pc s with
  | .trap s1 t => .trap s1 t
  | .wait s1 => .wait s1
  | .ok s1 line =>
    match lineCheck line (pc.toNat % 64) with
    | some e => .trap s1 (lineTrap line pc e)
    | none => if waitHolds fl (lineWait line) then .start s1 line else .wait s1

/-- A thread's line entered when none is (R208): its line, or the state in which it waits or has trapped. -/
def enterT (t : Thread) (s : State) : State × Option Nat :=
  match t.line with
  | some l => (s, some l)
  | none =>
    match enterLine t.id t.part t.ptbase t.pc t.flags s with
    | .trap s1 ti => (takeTrap t.id ti t.pc s1, none)
    | .wait s1 => (s1.updThread t.id fun t => { t with state := .parked .retry }, none)
    | .start s1 l => (s1.updThread t.id fun t => { t with line := some l, state := .ready }, some l)

/-- Every lane of a gang's current group faults at a line entry (R224). -/
def lineFaults (g : Gang) (ti : TrapInfo) (s : State) : State :=
  if g.galley then gangSettle g.id ((lanesOf g.lanes).foldl (fun s l => maskLane g.id l ti s) s)
  else trapGrid g.id ti ((lanesOf g.lanes).headD 0) g.pc s

/-- Every lane of a gang, current or stacked. -/
def Gang.allLanes (g : Gang) : List Nat := lanesOf (g.stack.foldl (fun m x => m ||| x.lanes) g.lanes)

/-- A fault at a line entry that every lane of the gang consumes (R361, R382). -/
def allFault (g : Gang) (ti : TrapInfo) (s : State) : State :=
  if g.galley then gangSettle g.id (g.allLanes.foldl (fun s l => maskLane g.id l ti s) s)
  else trapGrid g.id ti (g.allLanes.headD 0) g.pc s

/-- Whether the fairness timer has expired for the current group (R168, R169). -/
def Gang.timeUp (g : Gang) : Bool := !g.modeNone && !g.stack.isEmpty && max 1 g.period ≤ g.timer

/-- A gang's line entered when none is (R208); a switch that is due is made first (R168). -/
def enterG (g0 : Gang) (s0 : State) : State × Option (Gang × Nat) :=
  match g0.line with
  | some l => (s0, some (g0, l))
  | none =>
    let g := if g0.switchDue || g0.yieldDue || g0.timeUp then { g0.switch with switchDue := false, yieldDue := false } else g0
    let s := s0.setGang g
    match g.line with
    | some l => (s, some (g, l))
    | none =>
    match enterLine g.id g.part g.ptbase g.pc g.flags s with
    | .trap s1 ti => (lineFaults g ti s1, none)
    | .wait s1 => (s1.updGang g.id fun g => { g with state := .parked .retry }, none)
    | .start s1 l =>
      match coverByWait g.id (lineWait l) s1 with
      | (s2, some ti) => (allFault g ti s2, none)
      | (s2, none) =>
        let s3 := s2.updGang g.id fun g => { g with line := some l, state := .ready }
        (s3, (s3.gang? g.id).map fun g => (g, l))

/-! ## Head checks -/

/-- The reason of a decoder's refusal (R223 steps 3 to 6). -/
def decReason : DecErr → Nat
  | .opcode => rOpcode
  | .tailLen => rOpcode
  | .gBit => rGBit
  | .flagSelect => rFlagSelect
  | .reservedBits => rReserved
  | .variant => rVariant

/-- Whether an opcode runs only on a wide core, or only on a scalar core (R222). -/
def wideOnly (opc : Nat) : Bool := 0x80 ≤ opc && opc ≤ 0xC8
def scalarOnly (opc : Nat) : Bool := opc == 0x05 || opc == 0x06 || opc == 0x07 || opc == 0x0F

/-- Steps 1 to 6 of R223: the instruction, or the trap. A reserved opcode is the step RESERVED_OPCODE. -/
def headCheck (wide : Bool) (pc : Word) (line : Nat) : Except TrapInfo Instr :=
  let h := lineHead line (pc.toNat % 64)
  let t := lineTail line (pc.toNat % 64)
  let opc := bits h 13 6
  match opInfo opc with
  | none => .ok (.reservedOpcode h t)
  | some i =>
    if (if wide then scalarOnly opc else wideOnly opc) then .error (notOnCore pc (some line))
    else if !wide && tailG i.cls t then .error (illegalOp pc (some line) rGBit)
    else
      match decode h t with
      | .ok i => .ok i
      | .error e => .error (illegalOp pc (some line) (decReason e))

/-! ## A turn -/

/-- What a turn comes to: a state that is reached, a head that executes in one, or the head of a parked context that is tried in
one (R11). -/
inductive Issue where
  | done (s : State)
  | run (i : Instr) (s : State)
  | tryHead (c : CtxId) (i : Instr) (s : State)

/-- The result of a head that has trapped, as an issue. -/
def Issue.ofRes (d : State) : Res → Issue
  | .next s => .done s
  | _ => .done d

/-- Counters of a partition and of the function whose queue started the launch (R412). -/
def State.account (s : State) (part : Nat) (team : Option TeamId) (f : Counters → Counters) : State :=
  let q : Option QueueId := (team.bind fun i => s.launch? i.launch).map (·.queue)
  { s.updPart part fun p => { p with counters := f p.counters } with
    vfs := s.vfs.map fun v => if q.any fun q => q.part == v.part && q.vf == v.num then { v with counters := f v.counters } else v }

/-- The counters of slots granted (R412). -/
def State.grant (s : State) (part : Nat) (team : Option TeamId) (sc wd : Nat) : State :=
  s.account part team fun c =>
    { c with
      issueScalar := c.issueScalar + sc, issueWide := c.issueWide + wd, energy := c.energy + Config.energyOf s.cc
      memb := c.memb + Config.quireBytes s.cc, hostb := c.hostb + Config.hostBytes s.cc }

/-- The first cc in which a thread, or a gang, can issue now (R157, R165). -/
def State.slotT (s : State) (t : Thread) : Nat := slotFrom t.id.ctx (max s.cc t.notBefore) 40
def State.slotG (s : State) (g : Gang) : Nat :=
  2 * wideSlotFrom (s.quarters g.part g.id.cluster) (max s.ac (s.wideSlot g.id g.part).free) 4

/-- A thread issues in its next slot (R157): its line is entered first when it must be. -/
def issueT (t : Thread) (s : State) : Issue :=
  match enterT t s with
  | (s1, none) => .done s1
  | (s1, some l) =>
    let cc := s.slotT t
    let s2 := { ((s1.passTo cc).updThread t.id fun t => { t with notBefore := cc + 1 }).grant t.part (some t.team) 1 0 with
      cur := some t.id }
    match headCheck false t.pc l with
    | .ok i => .run i s2
    | .error ti => .ofRes s2 (trapT t.id ti false s2)

/-- A gang issues in its partition's next slot on its wide core (R165, R166). -/
def issueG (g0 : Gang) (s : State) : Issue :=
  match enterG g0 s with
  | (s1, none) => .done s1
  | (s1, some (g, l)) =>
    let qs := s.quarters g.part g.id.cluster
    let ac := wideSlotFrom qs (max s.ac (s.wideSlot g.id g.part).free) 4
    match headCheck true g.pc l with
    | .ok i =>
      let n := passes g.width (gAt g.pc l) i
      let s2 := (s1.passTo (2 * ac)).setWideSlot ⟨g.id.cluster, g.id.tile, g.part, g.id.ctx, wideAfter qs ac n⟩
      .run i { s2.grant g.part g.team 0 n with cur := some g.id }
    | .error ti =>
      let s2 := (s1.passTo (2 * ac)).setWideSlot ⟨g.id.cluster, g.id.tile, g.part, g.id.ctx, ac + 1⟩
      let s3 := { s2.grant g.part g.team 0 1 with cur := some g.id }
      .ofRes s3 (trapG g.id ti false s3)

/-- Whether a context is parked on the condition of its own head or line (R11), and no pre-emption holds it there (R384). -/
def State.waits (s : State) (c : CtxId) : Bool :=
  c.onDevice && (((s.thread? c).any fun t => t.state == .parked .retry && (!s.stopping t.team || s.asksSave c)) ||
    (s.gang? c).any fun g => g.state == .parked .retry && !(g.line.isNone && g.team.any s.stopping))

/-- The head of a parked thread tried: its slot stays idle until its condition holds (R11). A line at which it waits is
entered once its flags are down (R209). -/
def tryT (t : Thread) (s : State) : Issue :=
  match enterT t s with
  | (s1, none) => .done s1
  | (s1, some l) =>
    match headCheck false t.pc l with
    | .ok i => .tryHead t.id i { s1.wake t.id with cur := some t.id }
    | .error _ => .done (s1.wake t.id)

/-- The head of a parked gang tried. -/
def tryG (g0 : Gang) (s : State) : Issue :=
  match enterG g0 s with
  | (s1, none) => .done s1
  | (s1, some (g, l)) =>
    match headCheck true g.pc l with
    | .ok i => .tryHead g.id i { s1.wake g.id with cur := some g.id }
    | .error _ => .done (s1.wake g.id)

/-- The due delivery with the lowest address (R379). -/
def firstDue : List TrapInfo → Option TrapInfo
  | [] => none
  | t :: ts =>
    match firstDue ts with
    | none => some t
    | some u => if u.tval.toNat < t.tval.toNat then some u else some t

/-- An asynchronous MACHINE taken at an instruction boundary (R77, R379): none when nothing is due, when the context is inside an
atomic, or when the thread is inside a handler, whose `eret` it waits for. -/
def deliverDue (c : CtxId) (s : State) : Option State :=
  match s.thread? c with
  | some t =>
    (if t.state = .ready ∧ !t.inTrap ∧ c.onDevice ∧ !s.amoHeld c then firstDue t.dueMachine else none).map fun ti =>
      takeTrap c ti t.pc (s.updThread c fun t => { t with dueMachine := t.dueMachine.erase ti })
  | none =>
    (s.gang? c).bind fun g =>
      (if g.state = .ready ∧ c.onDevice ∧ !s.amoHeld c then firstDue g.dueMachine else none).map fun ti =>
        lineFaults g ti (s.updGang c fun g => { g with dueMachine := g.dueMachine.erase ti })

/-- A context that is READY issues, or takes an error that is due at this boundary first (R379). -/
def issueOr (c : CtxId) (issue : State → Issue) (s : State) : Issue :=
  match deliverDue c s with
  | some s1 => .done s1
  | none => issue s

/-- A turn of a context: a thread issues, or the gang of that partition whose turn it is on that wide core; a parked one is
tried. -/
def turnOf (c : CtxId) (s : State) : Issue :=
  match s.thread? c with
  | some t => if s.canIssueT t then issueOr c (issueT t) s else if s.waits c then tryT t s else .done s
  | none =>
    match s.gang? c with
    | none => .done s
    | some g =>
      if s.waits c then tryG g s
      else
        match s.nextGang c g.part with
        | none => .done s
        | some x => issueOr x.id (issueG x) s

/-- The context that issues next when nothing is on the agenda: of those that can issue, the one whose slot comes first. -/
def State.readyNext (s : State) : Option CtxId :=
  let xs := (s.threads.filter fun t => s.canIssueT t).map (fun t => (t.id, s.slotT t)) ++
    (s.gangs.filter fun g => s.canIssueG g).map fun g => (g.id, s.slotG g)
  (xs.foldl (fun b x => match b with
    | none => some x
    | some y => if x.2 < y.2 then some x else some y) (none : Option (CtxId × Nat))).map (·.1)

/-- The contexts whose heads can be tried. -/
def State.waiting (s : State) : List CtxId :=
  ((s.threads.map (·.id)) ++ s.gangs.map (·.id)).filter s.waits

end Sys2Proof.Machine
end

