-- ==== Sys2Proof/Machine/Fills.lean ====
section
/-! DEFINITION. The steps of lines, flags, fills, windows, sleeping and late errors (R51, R77, R95, R161, R208 to R211, R221,
R242, R379). An event whose subject is not in the situation that it ends changes nothing. -/

namespace Sys2Proof.Machine

/-- SLEEP_EXPIRY (R242): the cc of a sleeping thread has come. -/
def execSleepExpiry (c : CtxId) (s : State) : Res :=
  match (s.thread? c).map (·.state) with
  | some (TState.sleeping (some w)) =>
    let s1 := s.passTo w
    .next (s1.updThread c (Thread.wakeAt s1.cc))
  | _ => .next s

/-- LINE_ENTRY (R208): a ready context enters the line at its PC. -/
def execLineEntry (c : CtxId) (s : State) : Res :=
  match s.thread? c with
  | some t => .next (if s.canIssueT t then (enterT t s).1 else s)
  | none =>
    match s.gang? c with
    | some g => .next (if s.canIssueG g then (enterG g s).1 else s)
    | none => .next s

/-- Whether a context waits at the entry of its line and the wait is over (R209). -/
def lineReady (c : CtxId) (part : Nat) (ptbase pc : Word) (line : Option Nat) (fl : Flags) (s : State) : Bool :=
  line.isNone && (match enterLine c part ptbase pc fl s with
    | .start _ _ => true
    | _ => false)

/-- LINE_WAIT_RELEASE (R209): a context parked at a line starts it once every flag of its wait mask is zero. -/
def execLineWaitRelease (c : CtxId) (s : State) : Res :=
  match s.thread? c with
  | some t =>
    .next (if t.state == .parked .retry && lineReady c t.part t.ptbase t.pc t.line t.flags s then s.wake c else s)
  | none =>
    match s.gang? c with
    | some g =>
      .next (if g.state == .parked .retry && lineReady c g.part g.ptbase g.pc g.line g.flags s then s.wake c else s)
    | none => .next s

/-- FLAG_COMPLETION (R210, R211): the operation has reached its completion point. -/
def execFlagCompletion (op : Nat) (s : State) : Res :=
  match s.op? op with
  | none => .next s
  | some o => .next (if o.kind = .flagDue then (s.dropOp op).lower o.owner o.flag else s)

/-- REGISTER_FILL (R51, R95): the late values of an operation arrive; a load takes its values then, once the lines it needs are
there, which are asked for until then (R61). DESIGN CHOICE: a fill of the global x6 or x7 that was pending before QBIND.EN was
set lands in the kept register while EN = 1 (R277, log 101). -/
def execRegisterFill (op : Nat) (s : State) : Res :=
  match s.op? op with
  | none => .next s
  | some o =>
    match o.kind with
    | .fills fs => .next (if o.acq then s else (fs.foldl (fun s f => s.fillReply o.owner f.1 f.2) s).endOp o)
    | .load es =>
      match opAwait o s with
      | some asking => .next asking
      | none =>
        let (s1, es1) := takeLoads o.owner es (loadRoom o.owner o.part es s).1
        .next ((fillElts o.owner es1 s1).endOp o)
    | _ => .next s

/-- WINDOW_SPILL (R161): the oldest resident window of the context whose need is the oldest of its core goes into its record,
which `Thread.outer` is. -/
def execWindowSpill (c : CtxId) (s : State) : Res :=
  match s.windowTurn c with
  | some (.spill, t) =>
    if t.id = c then
      .next (s.updThread c fun t => { t with spilled := min (t.spilled + 1) t.outer.length, winOp := none })
    else .next s
  | _ => .next s

/-- WINDOW_RELOAD (R161): the youngest spilled window comes back, in the same order. -/
def execWindowReload (c : CtxId) (s : State) : Res :=
  match s.windowTurn c with
  | some (.reload, t) =>
    if t.id = c then .next (s.updThread c fun t => { t with spilled := t.spilled - 1, winOp := none })
    else .next s
  | _ => .next s

/-- ASYNC_MACHINE_DELIVERY (R77, R379). -/
def execAsyncMachineDelivery (c : CtxId) (s : State) : Res := .next ((deliverDue c s).getD s)

/-- QUIRE_PATROL_READ (R77): a sector found uncorrectable is logged to the firmware; nothing is raised. -/
def execQuirePatrolRead (pa : Nat) (s : State) : Res :=
  match s.errAt .mem (pa / 32 * 32) 32 with
  | none => .next s
  | some _ =>
    .next ({ s with fw := { s.fw with log := s.fw.log ++ [pa / 32 * 32] } }.countErr ErrStruct.quire.code)

/-- RESERVED_OPCODE (R221): a head whose opcode is reserved or illegal traps ILLEGAL_OP with reason OPCODE. -/
def execReservedOpcode (head tail : Nat) (s : State) : Res :=
  let tr := fun (pc : Word) => (⟨0x02, w64 (head % 2 ^ 16 + tail * 2 ^ 16),
    headInfo (bits head 13 6) (pc.toNat % 64) rOpcode⟩ : TrapInfo)
  withCur s (fun t => trapT t.id (tr t.pc) false s) fun g => trapG g.id (tr g.pc) false s

end Sys2Proof.Machine
end

