-- ==== Sys2Proof/Machine/Placement.lean ====
section
/-! DEFINITION. Fresh threads (R388), the resources of a team (R50, R153, R164), the work distributor (R174), co-resident
launches (R176), and the heat and droop of tiles (R2, R175). -/

namespace Sys2Proof.Machine

/-! ## Fresh contexts -/

/-- A thread in the fresh state of R388. -/
def freshThread (id : CtxId) (part : Nat) (team : TeamId) (d : Nat) (entry ptbase : Word) (priv : Bool) : Thread :=
  { id := id, part := part, team := team, state := .ready, pc := entry, line := none, x := mkX fun _ => XReg.zero,
    outer := [], spilled := 0, winOp := none, depth := 0, maxDepth := d, trapDepth := 0, preds := 0, shadow := 0,
    flags := Vector.replicate 12 0, issued := 0, priv := priv, inTrap := false, tr := ⟨0, 0, 0, 0, 0, 0⟩, srseed := 1,
    lutlo := 0, luthi := 0, qbind := 0, ptbase := ptbase, notBefore := 0, sb := [], pend := 0, monitors := [], recvq := [],
    ipiPending := false, cls := none, entry := entry, msg := none, inbox := [], spillbox := [], caps := [], unacked := 0,
    exitCode := 0, args := [], dueMachine := [], keepsTeam := true, sleepLeft := none, reenter := false }

/-- A thread bound to a message class, which starts IDLEMSG (R163, R401). -/
def handlerThread (id : CtxId) (part : Nat) (team : TeamId) (d : Nat) (entry ptbase : Word) (priv keeps : Bool) (cls : Nat) :
    Thread :=
  { freshThread id part team d entry ptbase priv with state := .idleMsg, cls := some cls, keepsTeam := keeps }

/-! ## Resources -/

/-- The bytes of a window-stack region (R50). -/
def regionBytes (d : Nat) : Nat := (72 + (d + 1) * 136 + 255) / 256 * 256

/-- The barrel contexts that each team of a launch starts, by kind (R401). -/
def Launch.barrels (l : Launch) : Nat := if l.hdr.kind = 0 then l.threads else if l.hdr.kind = 3 then 1 else 0

/-- The scratchpad bytes of a team's window-stack and inbox regions (R50, R164). -/
def Launch.regBytes (l : Launch) : Nat :=
  l.barrels * (regionBytes l.hdr.windows + 2048) + (if l.trapsvc = 0 then 0 else regionBytes l.trapD + 2048)

/-- The barrel contexts of a partition on a tile that are free (R153), in ascending (core, context) order. -/
def State.freeBarrels (s : State) (part cl tile : Nat) : List CtxId :=
  ((List.range 4).flatMap fun core => (s.quarters part cl).flatMap fun q =>
    (List.range 4).map fun i => (⟨cl, tile, false, core, 4 * q + i⟩ : CtxId)).filter fun c => (s.thread? c).isNone

/-- The runs of scratchpad bytes that a partition's teams hold on a tile, in ascending order (R50). -/
def State.scrUsed (s : State) (part cl tile : Nat) : List (Nat × Nat) :=
  sortBy (fun a b => decide (a.1 ≤ b.1))
    (((s.teams.filter fun t => t.part == part && t.cluster == cl && t.tile == tile && t.placed).flatMap fun t =>
      [(t.scrBase, t.scrSize), (t.regBase, t.regSize)]).filter fun r => r.2 != 0)

/-- The free runs between used ones, from lo up to hi. -/
def freeRuns (lo hi : Nat) : List (Nat × Nat) → List (Nat × Nat)
  | [] => if lo < hi then [(lo, hi - lo)] else []
  | (b, n) :: us => (if lo < b then [(lo, b - lo)] else []) ++ freeRuns (max lo (b + n)) hi us

/-- The two runs of a team (R50): its regions at the top of the highest free run that holds them, its allocation at the
bottom of the lowest. -/
def State.scrRuns (s : State) (part cl tile alloc regs : Nat) : Option (Nat × Nat) :=
  let hi := 2 ^ 18 * (s.quarters part cl).length
  let used := s.scrUsed part cl tile
  let reg := if regs = 0 then some 0 else (((freeRuns 0 hi used).filter fun r => regs ≤ r.2).getLast?).map fun r => r.1 + r.2 - regs
  match reg with
  | none => none
  | some rb =>
    let used2 := if regs = 0 then used else sortBy (fun a b => decide (a.1 ≤ b.1)) (used ++ [(rb, regs)])
    if alloc = 0 then some (0, rb)
    else ((freeRuns 0 hi used2).find? fun r => alloc ≤ r.2).map fun r => (r.1, rb)

/-- Whether a tile is eligible for a team of a launch (R174). -/
def State.eligible (s : State) (l : Launch) (cl tile : Nat) : Bool :=
  !(s.quarters l.part cl).isEmpty && !s.excluded cl tile && (s.teamOn l.uid cl tile).isNone &&
    l.barrels + (if l.trapsvc = 0 then 0 else 1) ≤ (s.freeBarrels l.part cl tile).length &&
    (l.gangs == 0 || s.poolFits l.part cl tile l.gangs l.hdr) &&
    (s.scrRuns l.part cl tile l.hdr.scratch l.regBytes).isSome

/-! ## The order of tiles -/

/-- HilbertIndex (R174), from the step of size s on, n steps at most. -/
def hilbertFrom (x y s d : Nat) : Nat → Nat
  | 0 => d
  | n + 1 =>
    if s = 0 then d
    else
      let rx := if x &&& s = 0 then 0 else 1
      let ry := if y &&& s = 0 then 0 else 1
      let d1 := d + s * s * ((3 * rx) ^^^ ry)
      if ry = 0 then
        let x1 := if rx = 1 then 7 - x else x
        let y1 := if rx = 1 then 7 - y else y
        hilbertFrom y1 x1 (s / 2) d1 n
      else hilbertFrom x y (s / 2) d1 n

/-- HilbertIndex of a tile rank (R174). -/
def hilbert (tile : Nat) : Nat := hilbertFrom (tile % 8) (tile / 8) 4 0 3

/-- A tile's junction temperature; 50 °C where none has been reported (log 3). -/
def State.tempOf (s : State) (cl tile : Nat) : Nat :=
  match s.thermal.find? fun x => x.cluster == cl && x.tile == tile with
  | some x => x.temp
  | none => 50

/-- The tile on which the distributor places a launch's next team (R174). -/
def State.placeTile (s : State) (l : Launch) : Option (Nat × Nat) :=
  let all := (List.range 12).flatMap fun cl => (List.range 64).map fun t => (cl, t)
  let ok := all.filter fun p => s.eligible l p.1 p.2
  let key := fun (p : Nat × Nat) => if l.hdr.place = 1 then s.tempOf p.1 p.2 else 64 * p.1 + hilbert p.2
  ok.foldl (fun b p => match b with
    | none => some p
    | some x => if key p < key x then some p else some x) none

/-- The tile rank of team n of a rectangle with this origin (R417). -/
def Launch.tileAt (l : Launch) (origin n : Nat) : Nat :=
  8 * (origin / 8 + n / l.hdr.cocols) + origin % 8 + n % l.hdr.cocols

/-- Whether a rectangle with this origin lies in the cluster and all its tiles are eligible (R176). -/
def State.rectOk (s : State) (l : Launch) (cl origin : Nat) : Bool :=
  origin / 8 + l.hdr.corows ≤ 8 && origin % 8 + l.hdr.cocols ≤ 8 &&
    (List.range l.teams).all fun n => s.eligible l cl (l.tileAt origin n)

/-- The lowest cluster and origin at which a rectangle fits (R176). -/
def State.rectangle (s : State) (l : Launch) : Option (Nat × Nat) :=
  ((List.range 12).flatMap fun cl => (List.range 64).map fun o => (cl, o)).find? fun p => s.rectOk l p.1 p.2

/-! ## Placing a team -/

/-- The contexts of a team (R388, R401): its threads, or its handler, or its gangs, and its trap-service context. -/
def teamContexts (s : State) (l : Launch) (id : TeamId) (cl tile : Nat) : List Thread × List Gang × List Binding :=
  let fb := s.freeBarrels l.part cl tile
  let ths :=
    if l.hdr.kind = 0 then (fb.take l.threads).map fun c => freshThread c l.part id l.hdr.windows l.entry l.ptbase l.priv
    else if l.hdr.kind = 3 then
      (fb.take 1).map fun c => handlerThread c l.part id l.hdr.windows l.entry l.ptbase l.priv true l.hdr.cls
    else []
  let svc := if l.trapsvc = 0 then []
    else ((fb.drop l.barrels).take 1).map fun c => handlerThread c l.part id l.trapD l.trapsvc l.ptbase l.priv false 15
  let gs := if l.hdr.kind = 1 then
      (((s.freeGangCtx l.part cl tile).take l.gangs).zipIdx).map fun x =>
        freshGang x.1 l.part (some id) x.2 l.hdr l.entry l.ptbase (firstLanes l.hdr.lanes)
    else []
  let all := ths ++ svc
  (all, gs, all.filterMap fun t => t.cls.map fun k => ⟨k, t.id, t.entry⟩)

/-- A team put on a tile with all its resources reserved; its contexts wait until it starts (R156, R176). -/
def reserveTeam (l : Launch) (cl tile : Nat) (s : State) : State :=
  let id : TeamId := ⟨l.uid, l.placed⟩
  match s.scrRuns l.part cl tile l.hdr.scratch l.regBytes with
  | none => s
  | some (sb, rb) =>
    let (ths, gs, bs) := teamContexts s l id cl tile
    let tm : Team :=
      { id := id, part := l.part, cluster := cl, tile := tile, state := .placing, scrBase := sb, scrSize := l.hdr.scratch,
        regBase := rb, regSize := l.regBytes, home := cl, chans := Vector.replicate 16 Channel.idle, binds := bs,
        savedAt := 0 }
    { s.updLaunch l.uid fun l => { l with placed := l.placed + 1 } with
      threads := s.threads ++ ths.map fun t => { t with state := .parked .placing }
      gangs := s.gangs ++ gs.map fun g => { g with state := .parked .placing }
      teams := s.teams ++ [tm] }

/-- A team enters RUNNING: ARG is written and its contexts are made READY or IDLEMSG at once (R156, R401). -/
def startTeam (l : Launch) (id : TeamId) (s : State) : State :=
  match s.team? id with
  | none => s
  | some t =>
    let s1 := match l.arg with
      | none => s
      | some arg =>
        if 8 ≤ l.hdr.scratch then
          writeSpace .scratch (scratchKey s t.part t.cluster t.tile t.scrBase) (toBytes 8 arg.toNat) s
        else s
    { s1.updTeam id fun t => { t with state := .running } with
      threads := s1.threads.map fun x =>
        if x.team = id ∧ x.state = .parked .placing then { x with state := if x.cls.isSome then .idleMsg else .ready } else x
      gangs := s1.gangs.map fun g =>
        if g.team = some id ∧ g.state = .parked .placing then { g with state := .ready } else g }

/-- An unfinished co-resident placement releases every reservation, and the launch returns to the head of its queue (R176). -/
def rollBack (launch : Nat) (s : State) : State :=
  { s.updLaunch launch fun l => { l with state := .waiting, placed := 0 } with
    threads := s.threads.filter fun t => t.team.launch != launch
    gangs := s.gangs.filter fun g => g.team.all fun i => i.launch != launch
    teams := s.teams.filter fun t => t.id.launch != launch }

/-- Whether a seed of a launch is still on its way to the device that aggregates the job: every seed is counted before a team of
the launch issues its first instruction (R401). -/
def State.seedsPending (s : State) (l : Launch) : Bool :=
  l.seeds.any fun x => s.underWay.any fun c => c.pt == ⟨.system l.part, x.1, x.2.2⟩ && decide (0 < c.delta)

/-- TEAM_PLACEMENT (R174, R176): the next team of a launch is placed and starts; the teams of a rectangle are reserved one by
one and start together, within 6,400 cc of the start of the placement or not at all. -/
def execTeamPlacement (launch : Nat) (s : State) : Res :=
  match s.launch? launch with
  | none => .next s
  | some l =>
    if (l.state ≠ .placing ∧ l.state ≠ .started) ∨ l.teams ≤ l.placed ∨ s.seedsPending l ∨
      (s.part? l.part).all (fun p => p.held || p.stopped)
    then .next s
    else if l.coresident then
      if l.startedAt + 6400 ≤ s.cc then .next (rollBack launch s)
      else
      match (match l.origin with | some o => some o | none => s.rectangle l) with
      | none => .next s
      | some (cl, o) =>
        if !s.eligible l cl (l.tileAt o l.placed) then .next s
        else
          let s1 := reserveTeam l cl (l.tileAt o l.placed) (s.updLaunch launch fun l => { l with origin := some (cl, o) })
          if l.placed + 1 < l.teams then .next s1
          else .next ((List.range l.teams).foldl (fun s n => startTeam l ⟨launch, n⟩ s)
            (s1.updLaunch launch fun l => { l with state := .started }))
    else
      match s.placeTile l with
      | none => .next s
      | some (cl, tile) =>
        .next (startTeam l ⟨launch, l.placed⟩
          ((reserveTeam l cl tile s).updLaunch launch fun l => { l with state := .started }))

/-- CORESIDENT_PLACEMENT_TIMEOUT (R176): 6,400 cc after its start an unfinished placement is rolled back. -/
def execCoresidentPlacementTimeout (launch : Nat) (s : State) : Res :=
  match s.launch? launch with
  | none => .next s
  | some l =>
    if l.state = .placing ∧ l.coresident ∧ l.startedAt + 6400 ≤ s.cc then
      .next (rollBack launch s)
    else .next s

/-! ## Heat and droop -/

/-- A tile's thermal record. -/
def State.thermalOf (s : State) (cl tile : Nat) : Thermal :=
  match s.thermal.find? fun x => x.cluster == cl && x.tile == tile with
  | some x => x
  | none => ⟨cl, tile, 50, [], none, false⟩

/-- A tile's thermal record replaced. -/
def State.setThermal (s : State) (x : Thermal) : State :=
  { s with thermal := x :: s.thermal.filter fun y => !(y.cluster == x.cluster && y.tile == x.tile) }

/-- The cc of 1 ms (R2). -/
def ccPerMs : Nat := 1_600_000

/-- Whether more than 8 of these events lie within some 1 ms (R175). -/
def manyDroops (ds : List Nat) : Bool :=
  ds.any fun a => 8 < (ds.filter fun b => decide (a ≤ b ∧ b < a + ccPerMs)).length

/-- THERMAL_EXCLUSION (R175): the tile is at this temperature; above 95 °C it is excluded. -/
def execThermalExclusion (cl tile temp : Nat) (s : State) : Res :=
  let x := s.thermalOf cl tile
  .next (s.setThermal { x with
    temp := temp, excluded := x.excluded || decide (95 < temp), coolSince := if 88 ≤ temp then none else x.coolSince })

/-- DROOP_EVENT (R175): more than 8 within any 1 ms exclude the tile. -/
def execDroopEvent (cl tile : Nat) (s : State) : Res :=
  let x := s.thermalOf cl tile
  let ds := (x.droops.filter fun d => s.cc < d + ccPerMs) ++ [s.cc]
  .next (s.setThermal { x with
    droops := ds, excluded := x.excluded || manyDroops ds, coolSince := if manyDroops ds then none else x.coolSince })

/-- THERMAL_REINSTATEMENT (R175): the tile is at this temperature; after 5 ms below 88 °C without a break it is eligible
again. -/
def execThermalReinstatement (cl tile temp : Nat) (s : State) : Res :=
  let x := s.thermalOf cl tile
  if 88 ≤ temp then .next (s.setThermal { x with temp := temp, coolSince := none, excluded := x.excluded || decide (95 < temp) })
  else
    let since := x.coolSince.getD s.cc
    .next (s.setThermal { x with
      temp := temp, coolSince := some since, excluded := x.excluded && decide (s.cc < since + 5 * ccPerMs) })

/-- THERMAL_THROTTLE (R2): both clocks are lowered together; counts of cc are not changed by it. -/
def execThermalThrottle (s : State) : Res := .next { s with throttled := true }

/-- THERMAL_THROTTLE_END (R2). -/
def execThermalThrottleEnd (s : State) : Res := .next { s with throttled := false }

end Sys2Proof.Machine
end

