-- ==== Sys2Proof/Machine/Integer.lean ====
section
/-! DEFINITION. Integer arithmetic, shifts, fields and selection (R244 to R255). -/

namespace Sys2Proof.Machine

/-- A three-register operation (R244). -/
def op3 (h : Hd) (r : R3) (f : Word → Word → Word) (s : State) : Res :=
  pureOp h r.g [r.xa, r.xb] r.xd (fun i => f (i.v 0) (i.v 1)) s

/-- A one-source operation (R245). -/
def op2 (h : Hd) (r : R2) (f : Word → Word) (s : State) : Res := pureOp h r.g [r.xa] r.xd (fun i => f (i.v 0)) s

/-- An immediate operation (R246). -/
def opI (h : Hd) (r : RI) (f : Word → Word) (s : State) : Res := pureOp h r.g [r.xa] r.xd (fun i => f (i.v 0)) s

/-- Leading zeros of the low n bits. -/
def clzBits (w : Word) : Nat → Nat
  | 0 => 0
  | n + 1 => if w.getLsbD n then 0 else clzBits w n + 1

/-- Trailing zeros, from bit k on, among n bits. -/
def ctzBits (w : Word) (k : Nat) : Nat → Nat
  | 0 => 0
  | n + 1 => if w.getLsbD k then 0 else ctzBits w (k + 1) n + 1

/-- One bits among the low n. -/
def popBits (w : Word) : Nat → Nat
  | 0 => 0
  | n + 1 => popBits w n + b2n (w.getLsbD n)

/-- The bits of a word reversed (R245). -/
def revBits (w : Word) : Word := w64 ((List.range 64).foldl (fun a i => a + b2n (w.getLsbD i) * 2 ^ (63 - i)) 0)

/-- The bytes of a word reversed (R245). -/
def revBytes (w : Word) : Word := w64 (leNat (toBytes 8 w.toNat).reverse)

/-- A quotient and remainder (R249): by zero all ones and the dividend; the overflow of −2^63 by −1. -/
def divRem (uns : Bool) (a b : Word) : Word × Word :=
  if b = 0 then (~~~ 0, a)
  else if uns then (a / b, a % b)
  else if a = BitVec.intMin 64 ∧ b = ~~~ 0 then (a, 0)
  else (w64 (wrapInt 64 (a.toInt.tdiv b.toInt)), w64 (wrapInt 64 (a.toInt.tmod b.toInt)))

/-- The high half of a 128-bit product (R248). -/
def mulHigh (k : MulhKind) (a b : Word) : Word :=
  let x : Int := match k with | .ss => a.toInt | .uu => a.toNat | .su => a.toInt
  let y : Int := match k with | .ss => b.toInt | .uu => b.toNat | .su => b.toNat
  w64 (wrapInt 64 (x * y / 2 ^ 64))

/-- The field of n bits from bit lsb on; bits above 63 read as zero (R252). -/
def fieldOf (a : Word) (lsb n : Nat) : Nat := a.toNat / 2 ^ lsb % 2 ^ n

/-- A word with a field replaced; what would land above bit 63 is discarded (R252). -/
def insertField (d a : Word) (lsb n : Nat) : Word :=
  let m := BitVec.ofNat 64 ((2 ^ n - 1) * 2 ^ lsb)
  (d &&& ~~~ m) ||| (w64 (a.toNat % 2 ^ n * 2 ^ lsb) &&& m)

/-- The low n bits sign-extended (R252, R255). -/
def signField (v n : Nat) : Word := w64 (wrapInt 64 (intVal n true (v % 2 ^ n)))

/-- `add` (R244). -/
def execAdd (h : Hd) (r : R3) (s : State) : Res := op3 h r (· + ·) s
/-- `sub` (R244). -/
def execSub (h : Hd) (r : R3) (s : State) : Res := op3 h r (· - ·) s
/-- `mul` (R244). -/
def execMul (h : Hd) (r : R3) (s : State) : Res := op3 h r (· * ·) s
/-- `and` (R244). -/
def execAnd (h : Hd) (r : R3) (s : State) : Res := op3 h r (· &&& ·) s
/-- `or` (R244). -/
def execOr (h : Hd) (r : R3) (s : State) : Res := op3 h r (· ||| ·) s
/-- `xor` (R244). -/
def execXor (h : Hd) (r : R3) (s : State) : Res := op3 h r (· ^^^ ·) s
/-- `andn` (R244). -/
def execAndn (h : Hd) (r : R3) (s : State) : Res := op3 h r (fun a b => a &&& ~~~ b) s
/-- `orn` (R244). -/
def execOrn (h : Hd) (r : R3) (s : State) : Res := op3 h r (fun a b => a ||| ~~~ b) s
/-- `xnor` (R244). -/
def execXnor (h : Hd) (r : R3) (s : State) : Res := op3 h r (fun a b => ~~~ (a ^^^ b)) s

/-- `clz` (R245). -/
def execClz (h : Hd) (r : R2) (s : State) : Res := op2 h r (fun a => w64 (clzBits a 64)) s
/-- `ctz` (R245). -/
def execCtz (h : Hd) (r : R2) (s : State) : Res := op2 h r (fun a => w64 (ctzBits a 0 64)) s
/-- `popc` (R245). -/
def execPopc (h : Hd) (r : R2) (s : State) : Res := op2 h r (fun a => w64 (popBits a 64)) s
/-- `brev` (R245). -/
def execBrev (h : Hd) (r : R2) (s : State) : Res := op2 h r revBits s
/-- `bswap` (R245). -/
def execBswap (h : Hd) (r : R2) (s : State) : Res := op2 h r revBytes s
/-- `mov` (R245). -/
def execMov (h : Hd) (r : R2) (s : State) : Res := op2 h r (fun a => a) s

/-- `addi` (R246). -/
def execAddi (h : Hd) (r : RI) (s : State) : Res := opI h r (· + r.imm.signExtend 64) s
/-- `andi` (R246). -/
def execAndi (h : Hd) (r : RI) (s : State) : Res := opI h r (· &&& r.imm.signExtend 64) s
/-- `ori` (R246). -/
def execOri (h : Hd) (r : RI) (s : State) : Res := opI h r (· ||| r.imm.zeroExtend 64) s
/-- `xori` (R246). -/
def execXori (h : Hd) (r : RI) (s : State) : Res := opI h r (· ^^^ r.imm.zeroExtend 64) s

/-- `li` (R247). -/
def execLi (h : Hd) (xd : Reg) (imm : BitVec 32) (g : Bool) (s : State) : Res :=
  pureOp h g [] xd (fun _ => imm.signExtend 64) s
/-- `li.z` (R247). -/
def execLiZ (h : Hd) (xd : Reg) (imm : BitVec 32) (g : Bool) (s : State) : Res :=
  pureOp h g [] xd (fun _ => imm.zeroExtend 64) s
/-- `li.hi` (R247). -/
def execLiHi (h : Hd) (xd xa : Reg) (imm : BitVec 32) (g : Bool) (s : State) : Res :=
  pureOp h g [xa] xd (fun i => imm ++ (i.v 0).extractLsb' 0 32) s
/-- `addpc` (R247). -/
def execAddpc (h : Hd) (xd : Reg) (t : Target) (g : Bool) (s : State) : Res :=
  pureOp h g [] xd (fun i => Target.pc t i.pc) s

/-- `mulh` (R248). -/
def execMulh (h : Hd) (k : MulhKind) (r : R3) (s : State) : Res := op3 h r (mulHigh k) s

/-- `div` (R249): its result is filled late. -/
def execDiv (h : Hd) (uns : Bool) (r : R3) (s : State) : Res :=
  regInstr true true h r.g [r.xa, r.xb] [r.xd] (fun i => ([.x r.xd (divRem uns (i.v 0) (i.v 1)).1], i.seed)) s
/-- `rem` (R249): its result is filled late. -/
def execRem (h : Hd) (uns : Bool) (r : R3) (s : State) : Res :=
  regInstr true true h r.g [r.xa, r.xb] [r.xd] (fun i => ([.x r.xd (divRem uns (i.v 0) (i.v 1)).2], i.seed)) s

/-- A shift or rotate by an immediate or by a register's low six bits (R250). -/
def shiftOp (h : Hd) (r : R2) (amt : ShAmt) (f : Word → Nat → Word) (s : State) : Res :=
  match amt with
  | .imm n => pureOp h r.g [r.xa] r.xd (fun i => f (i.v 0) n.toNat) s
  | .reg xb => pureOp h r.g [r.xa, xb] r.xd (fun i => f (i.v 0) ((i.v 1).toNat % 64)) s

/-- `shl` (R250). -/
def execShl (h : Hd) (r : R2) (amt : ShAmt) (s : State) : Res := shiftOp h r amt (fun a n => a <<< n) s
/-- `shr` (R250). -/
def execShr (h : Hd) (r : R2) (amt : ShAmt) (s : State) : Res := shiftOp h r amt (fun a n => a >>> n) s
/-- `sar` (R250). -/
def execSar (h : Hd) (r : R2) (amt : ShAmt) (s : State) : Res := shiftOp h r amt (fun a n => a.sshiftRight n) s
/-- `rotr` (R250). -/
def execRotr (h : Hd) (r : R2) (amt : ShAmt) (s : State) : Res := shiftOp h r amt (fun a n => a.rotateRight n) s

/-- `shfi` (R251). -/
def execShfi (h : Hd) (r : R3) (amt : BitVec 6) (s : State) : Res :=
  op3 h r (fun a b => ((a ++ b : BitVec 128) >>> amt.toNat).extractLsb' 0 64) s

/-- `bfe` (R252): sign-extended from the top bit of the field. -/
def execBfe (h : Hd) (sgn : Bool) (r : R2) (lsb len1 : BitVec 6) (s : State) : Res :=
  op2 h r (fun a =>
    let v := fieldOf a lsb.toNat (len1.toNat + 1)
    if sgn then signField v (len1.toNat + 1) else w64 v) s
/-- `bfi` (R252): xd is a source too. -/
def execBfi (h : Hd) (r : R2) (lsb len1 : BitVec 6) (s : State) : Res :=
  pureOp h r.g [r.xd, r.xa] r.xd (fun i => insertField (i.v 0) (i.v 1) lsb.toNat (len1.toNat + 1)) s

/-- `min` (R253). -/
def execMin (h : Hd) (uns : Bool) (r : R3) (s : State) : Res :=
  op3 h r (fun a b => if (if uns then b.ult a else b.slt a) then b else a) s
/-- `max` (R253). -/
def execMax (h : Hd) (uns : Bool) (r : R3) (s : State) : Res :=
  op3 h r (fun a b => if (if uns then a.ult b else a.slt b) then b else a) s

/-- `sel` (R254). -/
def execSel (h : Hd) (xd xa xb : Reg) (pc : PReg) (s : State) : Res :=
  pureOp h false [xa, xb] xd (fun i => if i.p pc then i.v 0 else i.v 1) s

/-- `sext` (R255). -/
def execSext (h : Hd) (r : R2) (n1 : BitVec 6) (s : State) : Res :=
  op2 h r (fun a => signField a.toNat (n1.toNat + 1)) s
/-- `zext` (R255). -/
def execZext (h : Hd) (r : R2) (n1 : BitVec 6) (s : State) : Res :=
  op2 h r (fun a => w64 (a.toNat % 2 ^ (n1.toNat + 1))) s

end Sys2Proof.Machine
end

