-- ==== Sys2Proof/Machine/Vector.lean ====
section
/-! DEFINITION. Vector element instructions (R317 to R336): one shape for all of them, the arithmetic of each element type, and
one meaning per instruction. -/

namespace Sys2Proof.Machine

/-! ## Elements and parts -/

/-- The width of an element or part (R189, R318). -/
def etyWidth (ty : Ety) : Nat :=
  match ty with
  | .i32 => 32 | .n32 => 32 | .f32 => 32 | .f64 => 64 | .f16 => 16 | .bf16 => 16 | .i16 => 16 | .n16 => 16 | .i8 => 8
  | .n8 => 8 | .f16x2 => 16 | .bf16x2 => 16 | .i16x2 => 16 | .i8x4 => 8 | .i64 => 64 | .n64 => 64

/-- How many parts an element has. -/
def etyParts (ty : Ety) : Nat :=
  match ty with
  | .f16x2 => 2 | .bf16x2 => 2 | .i16x2 => 2 | .i8x4 => 4 | _ => 1

/-- Whether a part is a signed integer. -/
def etySigned (ty : Ety) : Bool :=
  match ty with
  | .i32 => true | .i16 => true | .i8 => true | .i16x2 => true | .i8x4 => true | .i64 => true | _ => false

/-- The floating-point format of a part. -/
def etyFF (ty : Ety) : Option FF :=
  match ty with
  | .f32 => some .f32 | .f64 => some .f64 | .f16 => some .f16 | .bf16 => some .bf16 | .f16x2 => some .f16
  | .bf16x2 => some .bf16 | _ => none

/-- Part n of an element. -/
def etyPart (ty : Ety) (v n : Nat) : Nat := v / 2 ^ (etyWidth ty * n) % 2 ^ etyWidth ty

/-- The register value of an element's parts: narrow signed integers sign-extended, the rest zero-extended (R318). -/
def etyJoin (ty : Ety) (ps : List Nat) : Nat :=
  match ty with
  | .i16 => wrapInt 32 (intVal 16 true (ps.headD 0))
  | .i8 => wrapInt 32 (intVal 8 true (ps.headD 0))
  | _ => ps.foldr (fun p a => p % 2 ^ etyWidth ty + a * 2 ^ etyWidth ty) 0

/-! ## Registers of a lane -/

/-- The registers of an operand: one, or a pair (R318). -/
def opRegs (pair : Bool) (r : Nat) : List Nat := if pair then [r, r + 1] else [r]

/-- Whether an operand lies in the allocation, an even register for a pair (R220, R318). -/
def Gang.okOp (g : Gang) (pair : Bool) (r : Nat) : Bool := (!pair || r % 2 == 0) && (opRegs pair r).all (· < g.vregs)

/-- An operand's value in a lane. -/
def Gang.getE (g : Gang) (pair : Bool) (r l : Nat) : Nat :=
  if pair then (g.getV r l).toNat + (g.getV (r + 1) l).toNat * 2 ^ 32 else (g.getV r l).toNat

/-- A gang with an operand written in a lane. -/
def Gang.setE (g : Gang) (pair : Bool) (r l v : Nat) : Gang :=
  if pair then (g.setV r l (BitVec.ofNat 32 v)).setV (r + 1) l (BitVec.ofNat 32 (v / 2 ^ 32))
  else g.setV r l (BitVec.ofNat 32 v)

/-- The destination of a fill to an operand. -/
def opDst (pair : Bool) (r l : Nat) : Dst := if pair then .pair (r / 2) l else .v r l

/-! ## The shape of a vector instruction -/

/-- What a vector instruction checks, reads and writes: whether its registers lie in the allocation; the registers that it
reads for each lane, as (register, lane); those that it writes when these lanes are active; its effect on the gang for the
lanes that do not fault; the s registers that it reads and writes. -/
structure VecSpec where
  ok : Gang → Bool
  reads : Gang → Nat → List (Nat × Nat)
  writes : Gang → List Nat → List (Nat × Nat)
  run : Gang → List Nat → Gang
  sreads : List Nat := []
  swrites : List Nat := []

/-- A vector instruction whose results are there for the next head (R317, R319, R321). -/
def vecRun (h : Hd) (v : VecSpec) (s : State) : Res :=
  withCur s (fun t => trapT t.id (notOnCore t.pc t.line) false s) fun g =>
    if !v.ok g then trapG g.id (illegalOp g.pc g.line rRegister) false s
    else
      let act := g.active h
      if act.isEmpty then endG g.id s
      else if !(act.all fun l => (v.reads g l).all fun x => g.fullV x.1 x.2) then parkG g.id .retry s
      else
        let ds := (v.writes g act).map fun x => Dst.v x.1 x.2
        if s.busy g.id ds then parkG g.id .retry s
        else
          let bad := laneErrs s g.id (fun l => ((v.reads g l).map fun x => Dst.v x.1 x.2) ++ v.sreads.map Dst.s) act
          let good := act.filter fun l => !bad.any fun b => b.1 == l
          let s1 := if s.errs.isEmpty then s else
            (((v.writes g good).map fun x => Dst.v x.1 x.2) ++ v.swrites.map Dst.s).foldl (fun s d => s.clearErr g.id d) s
          let g1 := if good.isEmpty then g else v.run g good
          gangFaults g.id bad false s ((s1.setGang g1).updGang g.id Gang.next)

/-- A vector instruction whose results are filled late, which may set a flag (R211, R321). -/
def vecLate (h : Hd) (ok : Gang → Bool) (reads : Nat → List (Nat × Nat)) (pair : Bool) (vd : Nat)
    (val : Gang → Nat → BitVec 32 → Nat × BitVec 32) (s : State) : Res :=
  withCur s (fun t => trapT t.id (notOnCore t.pc t.line) false s) fun g =>
    if !ok g then trapG g.id (illegalOp g.pc g.line rRegister) false s
    else
      let act := g.active h
      if act.isEmpty then endG g.id s
      else if !(act.all fun l => (reads l).all fun x => g.fullV x.1 x.2) then parkG g.id .retry s
      else if s.busy g.id (act.map fun l => opDst pair vd l) || flagFull g.flags (flagOf g.line h) then parkG g.id .retry s
      else
        let bad := laneErrs s g.id (fun l => (reads l).map fun x => Dst.v x.1 x.2) act
        let good := act.filter fun l => !bad.any fun b => b.1 == l
        let (fs, seed) := good.foldl (fun (a : List (Dst × Word) × BitVec 32) l =>
          let r := val g l a.2
          (a.1 ++ [(opDst pair vd l, w64 r.1)], r.2)) ([], g.srseed)
        let s1 := s.setGang { g with srseed := seed }
        let s2 := fs.foldl (fun s f => (s.markEmpty g.id f.1).clearErr g.id f.1) s1
        let s3 := if fs.isEmpty then s2 else (s2.raise g.id (flagOf g.line h)).addOp g.id (flagOf g.line h) (.fills fs)
        gangFaults g.id bad false s (s3.updGang g.id Gang.next)

/-- One element from its operands, part by part; the generator steps for each part that is rounded under .rs (R200). -/
def elemParts (ty : Ety) (steps : Bool) (f : List Nat → BitVec 32 → Nat) (vs : List Nat) :
    Nat → Nat → BitVec 32 → List Nat × BitVec 32
  | 0, _, seed => ([], seed)
  | k + 1, n, seed =>
    let seed1 := if steps then srStep seed else seed
    let c := f (vs.map fun v => etyPart ty v n) seed1
    let (rest, seed2) := elemParts ty steps f vs k (n + 1) seed1
    (c :: rest, seed2)

/-- One element in one lane. -/
def elemVal (ty : Ety) (steps : Bool) (srcs : List Nat) (f : List Nat → BitVec 32 → Nat) (g : Gang) (l : Nat)
    (seed : BitVec 32) : Nat × BitVec 32 :=
  let (ps, seed1) := elemParts ty steps f (srcs.map fun r => g.getE ty.is64 r l) (etyParts ty) 0 seed
  (etyJoin ty ps, seed1)

/-- A value computed lane by lane, in ascending lane order, all sources read first (R319). -/
def lanesRun (pair : Bool) (vd : Nat) (val : Gang → Nat → BitVec 32 → Nat × BitVec 32) (g : Gang) (act : List Nat) : Gang :=
  let (g1, seed) := act.foldl (fun (a : Gang × BitVec 32) l =>
    let r := val g l a.2
    (a.1.setE pair vd l r.1, r.2)) (g, g.srseed)
  { g1 with srseed := seed }

/-- The registers of several operands in a lane. -/
def opReads (pair : Bool) (srcs : List Nat) (l : Nat) : List (Nat × Nat) :=
  srcs.flatMap fun r => (opRegs pair r).map fun x => (x, l)

/-- An element instruction on one element type (R318, R323). -/
def elemInstr (h : Hd) (ty : Ety) (steps : Bool) (vd : VReg) (srcs : List VReg) (f : List Nat → BitVec 32 → Nat) (s : State) :
    Res :=
  let rs := srcs.map (·.toNat)
  vecRun h
    { ok := fun g => (vd.toNat :: rs).all fun r => g.okOp ty.is64 r
      reads := fun _ l => opReads ty.is64 rs l
      writes := fun _ act => act.flatMap fun l => opReads ty.is64 [vd.toNat] l
      run := lanesRun ty.is64 vd.toNat (elemVal ty steps rs f) } s

/-- An element instruction whose result is late. -/
def elemLate (h : Hd) (ty : Ety) (steps : Bool) (vd : VReg) (srcs : List VReg) (f : List Nat → BitVec 32 → Nat) (s : State) :
    Res :=
  let rs := srcs.map (·.toNat)
  vecLate h (fun g => (vd.toNat :: rs).all fun r => g.okOp ty.is64 r) (fun l => opReads ty.is64 rs l) ty.is64 vd.toNat
    (elemVal ty steps rs f) s

/-! ## Arithmetic (R323 to R326) -/

/-- Whether an element is rounded under .rs, so that the generator steps (R200). -/
def stepsRs (ty : Ety) (rm : Rnd) : Bool := !ty.isInt && rm == .rs

/-- An integer result, wrapped or saturated (R323). -/
def intResult (ty : Ety) (sat : Bool) (i : Int) : Nat :=
  wrapInt (etyWidth ty) (if sat then satInt (etyWidth ty) (etySigned ty) i else i)

/-- An integer operand. -/
def intOp (ty : Ety) (c : Nat) : Int := intVal (etyWidth ty) (etySigned ty) c

/-- An arithmetic operation: exact on integers, rounded once on floating values. -/
def arith (ty : Ety) (rm : Rnd) (sat : Bool) (i : List Int → Int) (f : List FVal → Exact) (cs : List Nat) (r : BitVec 32) :
    Nat :=
  match etyFF ty with
  | none => intResult ty sat (i (cs.map (intOp ty)))
  | some x => roundTo x rm sat (f (cs.map x.decode)) r

/-- An operand of a list. -/
def fv (vs : List FVal) (n : Nat) : FVal := vs.getD n .nan

/-- An integer operand of a list. -/
def iv (vs : List Int) (n : Nat) : Int := vs.getD n 0

/-- `vadd` (R323). -/
def execVadd (h : Hd) (r : VA) (s : State) : Res :=
  elemInstr h r.ty (stepsRs r.ty r.rm) r.vd [r.va, r.vb]
    (arith r.ty r.rm r.sat (fun v => iv v 0 + iv v 1) fun v => exactAdd r.rm (fv v 0) (fv v 1)) s

/-- `vsub` (R323). -/
def execVsub (h : Hd) (r : VA) (s : State) : Res :=
  elemInstr h r.ty (stepsRs r.ty r.rm) r.vd [r.va, r.vb]
    (arith r.ty r.rm r.sat (fun v => iv v 0 - iv v 1) fun v => exactAdd r.rm (fv v 0) (fv v 1).neg) s

/-- `vmul` (R323). -/
def execVmul (h : Hd) (r : VA) (s : State) : Res :=
  elemInstr h r.ty (stepsRs r.ty r.rm) r.vd [r.va, r.vb]
    (arith r.ty r.rm r.sat (fun v => iv v 0 * iv v 1) fun v => exactMul (fv v 0) (fv v 1)) s

/-- `vfma` (R323): a single rounding. -/
def execVfma (h : Hd) (neg : Bool) (r : VA) (vc : VReg) (s : State) : Res :=
  elemInstr h r.ty (stepsRs r.ty r.rm) r.vd [r.va, r.vb, vc]
    (arith r.ty r.rm r.sat (fun v => (if neg then -(iv v 0 * iv v 1) else iv v 0 * iv v 1) + iv v 2)
      fun v => exactFma r.rm neg (fv v 0) (fv v 1) (fv v 2)) s

/-- The smaller or larger element (R264, R323). -/
def minMax (ty : Ety) (isMax : Bool) (a b : Nat) : Nat :=
  match etyFF ty with
  | none => intResult ty false (if isMax then max (intOp ty a) (intOp ty b) else min (intOp ty a) (intOp ty b))
  | some x => fminmax x isMax a b

/-- `vmin` (R323). -/
def execVmin (h : Hd) (ty : Ety) (r : V3) (s : State) : Res :=
  elemInstr h ty false r.vd [r.va, r.vb] (fun c _ => minMax ty false (c.getD 0 0) (c.getD 1 0)) s

/-- `vmax` (R323). -/
def execVmax (h : Hd) (ty : Ety) (r : V3) (s : State) : Res :=
  elemInstr h ty false r.vd [r.va, r.vb] (fun c _ => minMax ty true (c.getD 0 0) (c.getD 1 0)) s

/-- `vmulh` (R323): the high half of the exact product. -/
def execVmulh (h : Hd) (ty : Ety) (r : V3) (s : State) : Res :=
  elemInstr h ty false r.vd [r.va, r.vb]
    (fun c _ => wrapInt (etyWidth ty) (intOp ty (c.getD 0 0) * intOp ty (c.getD 1 0) / 2 ^ etyWidth ty)) s

/-- Quotient and remainder at width w (R249, R326). -/
def intDivRem (ty : Ety) (a b : Nat) : Nat × Nat :=
  let w := etyWidth ty
  let x := intOp ty a
  let y := intOp ty b
  if y = 0 then (2 ^ w - 1, a)
  else if etySigned ty && x == -(2 ^ (w - 1)) && y == -1 then (a, 0)
  else (wrapInt w (x.tdiv y), wrapInt w (x.tmod y))

/-- `vdiv` (R326). -/
def execVdiv (h : Hd) (ty : Ety) (rm : Rnd) (rem : Bool) (r : V3) (s : State) : Res :=
  elemLate h ty (stepsRs ty rm) r.vd [r.va, r.vb]
    (fun c rnd => match etyFF ty with
      | none => if rem then (intDivRem ty (c.getD 0 0) (c.getD 1 0)).2 else (intDivRem ty (c.getD 0 0) (c.getD 1 0)).1
      | some x => roundTo x rm false (exactDiv (x.decode (c.getD 0 0)) (x.decode (c.getD 1 0))) rnd) s

/-- `vsqrt` (R326). -/
def execVsqrt (h : Hd) (ty : Ety) (rm : Rnd) (vd va : VReg) (s : State) : Res :=
  elemLate h ty (stepsRs ty rm) vd [va]
    (fun c rnd => match etyFF ty with
      | none => 0
      | some x => roundTo x rm false (exactSqrt (x.decode (c.getD 0 0))) rnd) s

/-- An estimate (R324): truncated onto the 10-bit grid for FP32, correctly rounded for the 16-bit types. -/
def estimate (h : Hd) (ty : Ety) (rm : Rnd) (vd va : VReg) (f : FVal → Exact) (s : State) : Res :=
  elemInstr h ty (stepsRs ty rm) vd [va]
    (fun c rnd => match etyFF ty with
      | none => 0
      | some x => if ty == .f32 then roundEst (f (x.decode (c.getD 0 0))) else roundTo x rm false (f (x.decode (c.getD 0 0))) rnd) s

/-- `vrcp` (R324). -/
def execVrcp (h : Hd) (ty : Ety) (rm : Rnd) (vd va : VReg) (s : State) : Res := estimate h ty rm vd va exactRcp s
/-- `vrsq` (R324). -/
def execVrsq (h : Hd) (ty : Ety) (rm : Rnd) (vd va : VReg) (s : State) : Res := estimate h ty rm vd va exactRsq s
/-- `vexp2` (R324). -/
def execVexp2 (h : Hd) (ty : Ety) (rm : Rnd) (vd va : VReg) (s : State) : Res := estimate h ty rm vd va exactExp2 s
/-- `vlog2` (R324). -/
def execVlog2 (h : Hd) (ty : Ety) (rm : Rnd) (vd va : VReg) (s : State) : Res := estimate h ty rm vd va exactLog2 s

/-- A sign operation: bits only (R325). -/
def signInstr (h : Hd) (ty : Ety) (vd : VReg) (srcs : List VReg) (neg : Bool → Bool → Bool) (s : State) : Res :=
  elemInstr h ty false vd srcs
    (fun c _ => match etyFF ty with
      | none => 0
      | some x => setSign x (c.getD 0 0) (neg (x.neg (c.getD 0 0)) (x.neg (c.getD 1 0)))) s

/-- `vsgn.cp` (R325). -/
def execVsgnCp (h : Hd) (ty : Ety) (r : V3) (s : State) : Res := signInstr h ty r.vd [r.va, r.vb] (fun _ b => b) s
/-- `vsgn.ncp` (R325). -/
def execVsgnNcp (h : Hd) (ty : Ety) (r : V3) (s : State) : Res := signInstr h ty r.vd [r.va, r.vb] (fun _ b => !b) s
/-- `vsgn.xor` (R325). -/
def execVsgnXor (h : Hd) (ty : Ety) (r : V3) (s : State) : Res := signInstr h ty r.vd [r.va, r.vb] (fun a b => a != b) s
/-- `vsgn.abs` (R325). -/
def execVsgnAbs (h : Hd) (ty : Ety) (vd va : VReg) (s : State) : Res := signInstr h ty vd [va] (fun _ _ => false) s
/-- `vsgn.neg` (R325). -/
def execVsgnNeg (h : Hd) (ty : Ety) (vd va : VReg) (s : State) : Res := signInstr h ty vd [va] (fun a _ => !a) s

/-! ## Logic, shifts and counts (R327, R328) -/

/-- A logic operation on 32 bits (R327). -/
def logicInstr (h : Hd) (r : V3) (f : Nat → Nat → Nat) (s : State) : Res :=
  elemInstr h .n32 false r.vd [r.va, r.vb] (fun c _ => f (c.getD 0 0) (c.getD 1 0)) s

/-- `vand` (R327). -/
def execVand (h : Hd) (r : V3) (s : State) : Res := logicInstr h r (· &&& ·) s
/-- `vor` (R327). -/
def execVor (h : Hd) (r : V3) (s : State) : Res := logicInstr h r (· ||| ·) s
/-- `vxor` (R327). -/
def execVxor (h : Hd) (r : V3) (s : State) : Res := logicInstr h r (· ^^^ ·) s
/-- `vandn` (R327). -/
def execVandn (h : Hd) (r : V3) (s : State) : Res := logicInstr h r (fun a b => a &&& (2 ^ 32 - 1 - b)) s

/-- `vpopc` (R327). -/
def execVpopc (h : Hd) (vd va : VReg) (s : State) : Res :=
  elemInstr h .n32 false vd [va] (fun c _ => popBits (w64 (c.getD 0 0)) 32) s

/-- `vmov` (R327). -/
def execVmov (h : Hd) (n64 : Bool) (vd va : VReg) (s : State) : Res :=
  elemInstr h (if n64 then .n64 else .n32) false vd [va] (fun c _ => c.getD 0 0) s

/-- A shift of each element or part (R328); f takes the element and an amount of at most its width. -/
def vshiftInstr (h : Hd) (ty : Ety) (vd va : VReg) (amt : VAmt) (f : Nat → Nat → Nat) (s : State) : Res :=
  match amt with
  | .reg vb => elemInstr h ty false vd [va, vb] (fun c _ => f (c.getD 0 0) (min (etyWidth ty) (c.getD 1 0))) s
  | .imm n => elemInstr h ty false vd [va] (fun c _ => f (c.getD 0 0) (min (etyWidth ty) n.toNat)) s

/-- `vshl` (R328). -/
def execVshl (h : Hd) (ty : Ety) (vd va : VReg) (amt : VAmt) (s : State) : Res :=
  vshiftInstr h ty vd va amt (fun a n => a * 2 ^ n % 2 ^ etyWidth ty) s
/-- `vshr` (R328). -/
def execVshr (h : Hd) (ty : Ety) (vd va : VReg) (amt : VAmt) (s : State) : Res :=
  vshiftInstr h ty vd va amt (fun a n => a / 2 ^ n) s
/-- `vsar` (R328): the sign bit of each element or part, whatever its type. -/
def execVsar (h : Hd) (ty : Ety) (vd va : VReg) (amt : VAmt) (s : State) : Res :=
  vshiftInstr h ty vd va amt (fun a n => wrapInt (etyWidth ty) (intVal (etyWidth ty) true a / 2 ^ n)) s

/-- `vclz` (R328). -/
def execVclz (h : Hd) (ty : Ety) (vd va : VReg) (s : State) : Res :=
  elemInstr h ty false vd [va] (fun c _ => clzBits (w64 (c.getD 0 0)) (etyWidth ty)) s

/-! ## Compare and select (R329, R330) -/

/-- A comparison of two elements (R329). -/
def elemCond (ty : Ety) (c : FCond) (a b : Nat) : Bool :=
  match etyFF ty with
  | some x => condHolds c (fcmpVal (x.decode a) (x.decode b))
  | none => condHolds c (some (if intOp ty a < intOp ty b then -1 else if intOp ty a = intOp ty b then 0 else 1))

/-- `vcmp` (R329). -/
def execVcmp (h : Hd) (ty : Ety) (c : FCond) (k : Comb) (pd : PReg) (va vb : VReg) (s : State) : Res :=
  vecRun h
    { ok := fun g => [va.toNat, vb.toNat].all fun r => g.okOp ty.is64 r
      reads := fun _ l => opReads ty.is64 [va.toNat, vb.toNat] l
      writes := fun _ _ => []
      run := fun g act => act.foldl (fun g1 l =>
        g1.setPred pd.toNat l (combine k (g.pred pd.toNat l)
          (elemCond ty c (etyPart ty (g.getE ty.is64 va.toNat l) 0) (etyPart ty (g.getE ty.is64 vb.toNat l) 0)))) g } s

/-- `vsel` (R330). -/
def execVsel (h : Hd) (n64 : Bool) (r : V3) (pc : PReg) (s : State) : Res :=
  vecRun h
    { ok := fun g => [r.vd.toNat, r.va.toNat, r.vb.toNat].all fun x => g.okOp n64 x
      reads := fun _ l => opReads n64 [r.va.toNat, r.vb.toNat] l
      writes := fun _ act => act.flatMap fun l => opReads n64 [r.vd.toNat] l
      run := lanesRun n64 r.vd.toNat fun g l seed =>
        (if g.pred pc.toNat l then g.getE n64 r.va.toNat l else g.getE n64 r.vb.toNat l, seed) } s

/-! ## Conversion, packing and lookup (R331 to R336) -/

/-- The conversion format of a lane element type (R331). -/
def etyXfmt (ty : Ety) : XFmt :=
  match ty with
  | .i32 => .i32 | .n32 => .n32 | .f32 => .f32 | .f64 => .f64 | .f16 => .f16 | .bf16 => .bf16 | .i16 => .i16
  | .n16 => .n16 | .i8 => .i8 | .n8 => .n8 | .i64 => .i64 | .n64 => .n64 | .f16x2 => .f16 | .bf16x2 => .bf16
  | .i16x2 => .i16 | .i8x4 => .i8

/-- Whether a conversion's source is a register pair (R331). -/
def xfmtPair (f : XFmt) : Bool :=
  match f with
  | .f64 => true | .i64 => true | .n64 => true | _ => false

/-- `vcvt` (R331). -/
def execVcvt (h : Hd) (dst : Ety) (src : XFmt) (rm : Rnd) (sat : Bool) (vd va : VReg) (s : State) : Res :=
  let steps := rm == .rs && !(dst.isInt && src.isInt)
  vecRun h
    { ok := fun g => g.okOp dst.is64 vd.toNat && g.okOp (xfmtPair src) va.toNat
      reads := fun _ l => opReads (xfmtPair src) [va.toNat] l
      writes := fun _ act => act.flatMap fun l => opReads dst.is64 [vd.toNat] l
      run := lanesRun dst.is64 vd.toNat fun g l seed =>
        let seed1 := if steps then srStep seed else seed
        (etyJoin dst [convert (etyXfmt dst) src rm sat (g.getE (xfmtPair src) va.toNat l) seed1], seed1) } s

/-- The conversion format of a narrow format; none for .i4 (R332). -/
def pfmtX (f : PFmt) : Option XFmt :=
  match f with
  | .f16 => some .f16 | .bf16 => some .bf16 | .i16 => some .i16 | .n16 => some .n16 | .i8 => some .i8 | .n8 => some .n8
  | .e4m3 => some .e4m3 | .e5m2 => some .e5m2 | .e4m3z => some .e4m3z | .e2m1 => some .e2m1 | .i4 => none

/-- The conversion format of a wide type. -/
def wtyX (ty : WTy) : XFmt :=
  match ty with
  | .f32 => .f32 | .i32 => .i32 | .n32 => .n32

/-- The width of a part. -/
def pfmtWidth (f : PFmt) : Nat := 32 / pfmtParts f

/-- The exact value of a source element, under a block scale (R188, R333). -/
def scaledExact (src : XFmt) (c sc : Nat) : Exact :=
  if sc = 0xFF then .nan else (xfmtExact src c).scale (127 - (sc : Int))

/-- One part packed (R198, R333). -/
def packPart (f : PFmt) (src : XFmt) (rm : Rnd) (sat : Bool) (sc c : Nat) (r : BitVec 32) : Nat :=
  match pfmtX f with
  | none =>
    match xfmtInt src with
    | some (ws, ss) => convertInt 4 true ws sat (intVal ws ss c)
    | none => wrapInt 4 (roundInt rm 4 true (xfmtExact src c) r)
  | some d => if sc = 127 then convert d src rm sat c r else roundTo (xfmtFF d) rm sat (scaledExact src c sc) r

/-- The parts of a packed register, from part n on, each rounded on its own (R200, R333). -/
def packParts (f : PFmt) (src : XFmt) (rm : Rnd) (sat steps : Bool) (sc : Nat) : List Nat → Nat → BitVec 32 → Nat × BitVec 32
  | [], _, seed => (0, seed)
  | c :: cs, n, seed =>
    let seed1 := if steps then srStep seed else seed
    let v := packPart f src rm sat sc c seed1 % 2 ^ pfmtWidth f
    let (rest, seed2) := packParts f src rm sat steps sc cs (n + 1) seed1
    (v * 2 ^ (pfmtWidth f * n) + rest, seed2)

/-- `vpack` (R333). -/
def execVpack (h : Hd) (f : PFmt) (ty : WTy) (rm : Rnd) (sat : Bool) (r : V3) (s : State) : Res :=
  let scaled := f.takesScale && r.vb != 0
  let srcs := ((List.range (pfmtParts f)).map fun n => r.va.toNat + n) ++ (if scaled then [r.vb.toNat] else [])
  let steps := rm == .rs && !(f.isInt && ty != .f32)
  vecRun h
    { ok := fun g => (r.vd.toNat :: srcs).all fun x => g.okOp false x
      reads := fun _ l => opReads false srcs l
      writes := fun _ act => act.map fun l => (r.vd.toNat, l)
      run := lanesRun false r.vd.toNat fun g l seed =>
        packParts f (wtyX ty) rm sat steps (if scaled then g.getE false r.vb.toNat l % 256 else 127)
          ((List.range (pfmtParts f)).map fun n => g.getE false (r.va.toNat + n) l) 0 seed } s

/-- One part unpacked (R198, R334): an integer part is extended by its own format. -/
def unpackPart (f : PFmt) (dst : XFmt) (rm : Rnd) (sat : Bool) (c : Nat) (r : BitVec 32) : Nat :=
  match pfmtX f with
  | some src => convert dst src rm sat c r
  | none =>
    match xfmtInt dst with
    | some (wd, sd) => convertInt wd sd 4 sat (intVal 4 true c)
    | none => roundTo (xfmtFF dst) rm sat (dyadic (intVal 4 true c) 0 false) r

/-- The registers that one lane's parts are unpacked into, from part n on. -/
def unpackLane (f : PFmt) (dst : XFmt) (rm : Rnd) (sat steps : Bool) (vd l v : Nat) :
    Nat → Nat → Gang × BitVec 32 → Gang × BitVec 32
  | 0, _, a => a
  | k + 1, n, a =>
    let seed1 := if steps then srStep a.2 else a.2
    let c := unpackPart f dst rm sat (v / 2 ^ (pfmtWidth f * n) % 2 ^ pfmtWidth f) seed1
    unpackLane f dst rm sat steps vd l v k (n + 1) (a.1.setE false (vd + n) l c, seed1)

/-- `vunpk` (R334). -/
def execVunpk (h : Hd) (f : PFmt) (ty : WTy) (rm : Rnd) (sat : Bool) (vd va : VReg) (s : State) : Res :=
  let dsts := (List.range (pfmtParts f)).map fun n => vd.toNat + n
  let steps := rm == .rs && !f.isInt && ty != .f32
  vecRun h
    { ok := fun g => (va.toNat :: dsts).all fun x => g.okOp false x
      reads := fun _ l => [(va.toNat, l)]
      writes := fun _ act => act.flatMap fun l => dsts.map fun r => (r, l)
      run := fun g act =>
        let (g1, seed) := act.foldl (fun a l =>
          unpackLane f (wtyX ty) rm sat steps vd.toNat l (g.getE false va.toNat l) (pfmtParts f) 0 a) (g, g.srseed)
        { g1 with srseed := seed } } s

/-- Entry i of the L4 table (R193). -/
def l4Entry (lo hi : Word) (i : Nat) : Nat := bits (if i < 8 then lo.toNat else hi.toNat) (8 * (i % 8) + 7) (8 * (i % 8))

/-- Four L4 codes of a register, from code n on, decoded into bytes (R335). -/
def l4Bytes (lo hi : Word) (v n : Nat) : Nat :=
  (List.range 4).foldl (fun a j => a + l4Entry lo hi (v / 2 ^ (4 * (n + j)) % 16) * 2 ^ (8 * j)) 0

/-- `vlut.l4` (R335). -/
def execVlutL4 (h : Hd) (vd va : VReg) (s : State) : Res :=
  vecRun h
    { ok := fun g => [vd.toNat, vd.toNat + 1, va.toNat].all fun x => g.okOp false x
      reads := fun _ l => [(va.toNat, l)]
      writes := fun _ act => act.flatMap fun l => [(vd.toNat, l), (vd.toNat + 1, l)]
      run := fun g act => act.foldl (fun g1 l =>
        let v := g.getE false va.toNat l
        (g1.setE false vd.toNat l (l4Bytes g.lutlo g.luthi v 0)).setE false (vd.toNat + 1) l
          (l4Bytes g.lutlo g.luthi v 4)) g } s

/-- One byte looked up (R335). -/
def tabByte (g : Gang) (vb l i : Nat) : Nat :=
  if i < 64 then g.getE false (vb + i / 4) l / 2 ^ (8 * (i % 4)) % 256 else 0

/-- `vlut.tab` (R335). -/
def execVlutTab (h : Hd) (r : V3) (s : State) : Res :=
  let tab := (List.range 16).map fun n => r.vb.toNat + n
  vecRun h
    { ok := fun g => (r.vd.toNat :: r.va.toNat :: tab).all fun x => g.okOp false x
      reads := fun _ l => opReads false (r.va.toNat :: tab) l
      writes := fun _ act => act.map fun l => (r.vd.toNat, l)
      run := lanesRun false r.vd.toNat fun g l seed =>
        ((List.range 4).foldl (fun a j =>
          a + tabByte g r.vb.toNat l (g.getE false r.va.toNat l / 2 ^ (8 * j) % 256) * 2 ^ (8 * j)) 0, seed) } s

/-- The dot product of an element with its addend (R203, R336). -/
def dotVal (ty : Ety) (rm : Rnd) (sat : Bool) (a b c : Nat) (r : BitVec 32) : Nat :=
  let ns := List.range (etyParts ty)
  match etyFF ty with
  | none =>
    let i := ns.foldl (fun t n => t + intOp ty (etyPart ty a n) * intOp ty (etyPart ty b n)) (intVal 32 true c)
    wrapInt 32 (if sat then satInt 32 true i else i)
  | some x =>
    let t := ns.foldl (fun t n => t.add (mulVal (x.decode (etyPart ty a n)) (x.decode (etyPart ty b n)))) Sum.empty
    roundTo .f32 rm false ((t.add (FF.f32.decode c)).exact rm) r

/-- `vdot` (R336). -/
def execVdot (h : Hd) (r : VA) (vc : VReg) (s : State) : Res :=
  vecRun h
    { ok := fun g => [r.vd.toNat, r.va.toNat, r.vb.toNat, vc.toNat].all fun x => g.okOp false x
      reads := fun _ l => opReads false [r.va.toNat, r.vb.toNat, vc.toNat] l
      writes := fun _ act => act.map fun l => (r.vd.toNat, l)
      run := lanesRun false r.vd.toNat fun g l seed =>
        let seed1 := if stepsRs r.ty r.rm then srStep seed else seed
        (dotVal r.ty r.rm r.sat (g.getE false r.va.toNat l) (g.getE false r.vb.toNat l) (g.getE false vc.toNat l) seed1,
          seed1) } s

end Sys2Proof.Machine
end

