-- ==== Sys2Proof/Machine/VectorLane.lean ====
section
/-! DEFINITION. Moving values between lanes (R337 to R340), gang reductions, scans and conflicts (R341 to R343), top-k selection
and merging (R344 to R346). -/

namespace Sys2Proof.Machine

/-! ## Shuffles, splats, broadcasts, rotations -/

/-- A cross-lane move of one operand: lane l takes va of the lane that src names (R337). -/
def moveLanes (h : Hd) (n64 : Bool) (vd va : VReg) (idx : List VReg) (sr : List Nat) (src : Gang → Nat → Nat) (s : State) :
    Res :=
  vecRun h
    { ok := fun g => ([vd.toNat, va.toNat].all fun r => g.okOp n64 r) && (idx.all fun r => g.okOp false r.toNat) && g.sOk sr
      reads := fun g l => opReads false (idx.map (·.toNat)) l ++ opReads n64 [va.toNat] (src g l)
      writes := fun _ act => act.flatMap fun l => opReads n64 [vd.toNat] l
      run := lanesRun n64 vd.toNat fun g l seed => (g.getE n64 va.toNat (src g l), seed)
      sreads := sr } s

/-- `vshf.idx` (R338). -/
def execVshfIdx (h : Hd) (n64 : Bool) (r : V3) (s : State) : Res :=
  moveLanes h n64 r.vd r.va [r.vb] [] (fun g l => (g.getV r.vb.toNat l).toNat % g.width) s

/-- `vshf.xor` (R338). -/
def execVshfXor (h : Hd) (n64 : Bool) (vd va : VReg) (c : BitVec 7) (s : State) : Res :=
  moveLanes h n64 vd va [] [] (fun g l => (l ^^^ c.toNat) % g.width) s

/-- `vshf.up` (R338). -/
def execVshfUp (h : Hd) (n64 : Bool) (vd va : VReg) (c : BitVec 7) (s : State) : Res :=
  moveLanes h n64 vd va [] [] (fun _ l => if c.toNat ≤ l then l - c.toNat else l) s

/-- `vshf.dn` (R338). -/
def execVshfDn (h : Hd) (n64 : Bool) (vd va : VReg) (c : BitVec 7) (s : State) : Res :=
  moveLanes h n64 vd va [] [] (fun g l => if l + c.toNat < g.width then l + c.toNat else l) s

/-- `vsplat` (R339). -/
def execVsplat (h : Hd) (n64 : Bool) (vd : VReg) (src : SplatSrc) (s : State) : Res :=
  let sr := match src with | .imm _ => [] | .sreg r => [r.toNat]
  vecRun h
    { ok := fun g => g.okOp n64 vd.toNat && g.sOk sr
      reads := fun _ _ => []
      writes := fun _ act => act.flatMap fun l => opReads n64 [vd.toNat] l
      run := lanesRun n64 vd.toNat fun g _ seed =>
        ((match src with
          | .imm n => (n.signExtend 64).toNat
          | .sreg r => (g.getS r.toNat).toNat), seed)
      sreads := sr } s

/-- The lane number of `vbcast` and `vrot` before its reduction (R339). -/
def LaneSrc.num (x : LaneSrc) (g : Gang) : Nat :=
  match x with
  | .imm n => n.toNat
  | .sreg r => (g.getS r.toNat).toNat % 128

/-- The s register of a lane number. -/
def LaneSrc.regs (x : LaneSrc) : List Nat :=
  match x with
  | .imm _ => []
  | .sreg r => [r.toNat]

/-- `vbcast` (R339). -/
def execVbcast (h : Hd) (n64 : Bool) (vd va : VReg) (src : LaneSrc) (s : State) : Res :=
  moveLanes h n64 vd va [] (LaneSrc.regs src) (fun g _ => LaneSrc.num src g % g.width) s

/-- `vrot` (R339). -/
def execVrot (h : Hd) (n64 : Bool) (vd va : VReg) (src : LaneSrc) (s : State) : Res :=
  moveLanes h n64 vd va [] (LaneSrc.regs src) (fun g l => (l + LaneSrc.num src g) % g.width) s

/-- `vballot` (R340): the active lanes whose predicate is true. -/
def execVballot (h : Hd) (hi cnt : Bool) (sd : Reg) (pc : PReg) (s : State) : Res :=
  vecRun h
    { ok := fun g => g.sOk [sd.toNat]
      reads := fun _ _ => []
      writes := fun _ _ => []
      run := fun g act =>
        let ls := act.filter fun l => g.pred pc.toNat l
        g.setS sd.toNat (if cnt then w64 ls.length
          else w64 ((maskOf ls).toNat / (if hi then 2 ^ 64 else 1) % 2 ^ 64))
      swrites := [sd.toNat] } s

/-! ## Reductions, scans, conflicts -/

/-- One part of a combining step (R341): an element operation of R323. -/
def redPart (op : RedOp) (ty : Ety) (rm : Rnd) (sat : Bool) (c : List Nat) (rnd : BitVec 32) : Nat :=
  match op with
  | .add => arith ty rm sat (fun v => iv v 0 + iv v 1) (fun v => exactAdd rm (fv v 0) (fv v 1)) c rnd
  | .min => minMax ty false (c.getD 0 0) (c.getD 1 0)
  | .max => minMax ty true (c.getD 0 0) (c.getD 1 0)
  | .and => c.getD 0 0 &&& c.getD 1 0
  | .or => c.getD 0 0 ||| c.getD 1 0
  | .xor => c.getD 0 0 ^^^ c.getD 1 0

/-- One combining step on elements (R341, R342). -/
def redStep (op : RedOp) (ty : Ety) (rm : Rnd) (sat : Bool) (r a : Nat) (seed : BitVec 32) : Nat × BitVec 32 :=
  let (ps, seed1) := elemParts ty (op == .add && stepsRs ty rm) (redPart op ty rm sat) [r, a] (etyParts ty) 0 seed
  (etyJoin ty ps, seed1)

/-- An element as its type reads it from a register (R318). -/
def elemOf (ty : Ety) (v : Nat) : Nat := etyJoin ty ((List.range (etyParts ty)).map fun n => etyPart ty v n)

/-- The identity of an operation, part by part (R341). -/
def redIdentity (op : RedOp) (ty : Ety) : Nat :=
  let p := match etyFF ty with
    | some f =>
      match op with
      | .min => f.infCode
      | .max => f.signBit + f.infCode
      | _ => f.signBit
    | none =>
      match op with
      | .min => wrapInt (etyWidth ty) (intMax (etyWidth ty) (etySigned ty))
      | .max => wrapInt (etyWidth ty) (intMin (etyWidth ty) (etySigned ty))
      | .and => 2 ^ etyWidth ty - 1
      | _ => 0
  etyJoin ty (List.replicate (etyParts ty) p)

/-- The values of the active lanes. -/
def laneVals (ty : Ety) (g : Gang) (va : Nat) (act : List Nat) : List (Nat × Nat) :=
  act.map fun l => (l, elemOf ty (g.getE ty.is64 va l))

/-- Fold (R342): a left fold in ascending lane order. -/
def foldFrom (step : Nat → Nat → BitVec 32 → Nat × BitVec 32) : Nat → List (Nat × Nat) → BitVec 32 → Nat × BitVec 32
  | r, [], seed => (r, seed)
  | r, x :: xs, seed =>
    let (r1, seed1) := step r x.2 seed
    foldFrom step r1 xs seed1

/-- Fold over a list of lanes that is not empty (R342). -/
def foldLanes (step : Nat → Nat → BitVec 32 → Nat × BitVec 32) (xs : List (Nat × Nat)) (seed : BitVec 32) : Nat × BitVec 32 :=
  match xs with
  | [] => (0, seed)
  | x :: xs => foldFrom step x.2 xs seed

/-- The running fold that ends at each lane (R342). -/
def scanFrom (step : Nat → Nat → BitVec 32 → Nat × BitVec 32) :
    Nat → List (Nat × Nat) → BitVec 32 → List (Nat × Nat) × BitVec 32
  | _, [], seed => ([], seed)
  | r, x :: xs, seed =>
    let (r1, seed1) := step r x.2 seed
    let (rest, seed2) := scanFrom step r1 xs seed1
    ((x.1, r1) :: rest, seed2)

/-- `vscan` over the lanes m ≤ l. -/
def scanLanes (step : Nat → Nat → BitVec 32 → Nat × BitVec 32) (xs : List (Nat × Nat)) (seed : BitVec 32) :
    List (Nat × Nat) × BitVec 32 :=
  match xs with
  | [] => ([], seed)
  | x :: xs =>
    let (rest, seed1) := scanFrom step x.2 xs seed
    (x :: rest, seed1)

/-- `vscan` over the lanes m < l: each lane has the fold that ends at the lane before it. -/
def scanExcl (step : Nat → Nat → BitVec 32 → Nat × BitVec 32) (ident : Nat) (xs : List (Nat × Nat)) (seed : BitVec 32) :
    List (Nat × Nat) × BitVec 32 :=
  let (incl, seed1) := scanLanes step xs.dropLast seed
  ((xs.map (·.1)).zip (ident :: incl.map (·.2)), seed1)

/-- The folds of `vseg` (R342), key by key; lanes step in ascending order (R322). Each entry is a key, its first lane's place
and the fold so far. -/
def segFolds (step : Nat → Nat → BitVec 32 → Nat × BitVec 32) :
    List (Nat × Nat × Nat) → List (Nat × Nat) → BitVec 32 → List (Nat × Nat) × BitVec 32
  | [], acc, seed => (acc, seed)
  | (_, key, v) :: xs, acc, seed =>
    match acc.find? fun a => a.1 == key with
    | none => segFolds step xs (acc ++ [(key, v)]) seed
    | some a =>
      let (r, seed1) := step a.2 v seed
      segFolds step xs (acc.map fun b => if b.1 == key then (key, r) else b) seed1

/-- Results written lane by lane. -/
def putLanes (n64 : Bool) (vd : Nat) (rs : List (Nat × Nat)) (g : Gang) : Gang :=
  rs.foldl (fun g x => g.setE n64 vd x.1 x.2) g

/-- A combining instruction over one operand, with single registers beside it. -/
def gangFold (h : Hd) (ty : Ety) (vd va : VReg) (singles : List VReg)
    (f : Gang → List Nat → BitVec 32 → List (Nat × Nat) × BitVec 32) (s : State) : Res :=
  vecRun h
    { ok := fun g => ([vd.toNat, va.toNat].all fun r => g.okOp ty.is64 r) && (singles.all fun r => g.okOp false r.toNat)
      reads := fun _ l => opReads ty.is64 [va.toNat] l ++ opReads false (singles.map (·.toNat)) l
      writes := fun _ act => act.flatMap fun l => opReads ty.is64 [vd.toNat] l
      run := fun g act =>
        let (rs, seed) := f g act g.srseed
        { putLanes ty.is64 vd.toNat rs g with srseed := seed } } s

/-- `vred` (R342). -/
def execVred (h : Hd) (op : RedOp) (ty : Ety) (rm : Rnd) (sat : Bool) (vd va : VReg) (s : State) : Res :=
  gangFold h ty vd va [] (fun g act seed =>
    let (r, seed1) := foldLanes (redStep op ty rm sat) (laneVals ty g va.toNat act) seed
    (act.map fun l => (l, r), seed1)) s

/-- `vscan` (R342). -/
def execVscan (h : Hd) (op : RedOp) (ty : Ety) (rm : Rnd) (sat excl : Bool) (vd va : VReg) (s : State) : Res :=
  gangFold h ty vd va [] (fun g act seed =>
    if excl then scanExcl (redStep op ty rm sat) (redIdentity op ty) (laneVals ty g va.toNat act) seed
    else scanLanes (redStep op ty rm sat) (laneVals ty g va.toNat act) seed) s

/-- `vseg` (R342). -/
def execVseg (h : Hd) (op : RedOp) (ty : Ety) (rm : Rnd) (sat : Bool) (r : V3) (s : State) : Res :=
  gangFold h ty r.vd r.va [r.vb] (fun g act seed =>
    let key := fun l => (g.getV r.vb.toNat l).toNat
    let (fs, seed1) := segFolds (redStep op ty rm sat)
      ((laneVals ty g r.va.toNat act).map fun x => (x.1, key x.1, x.2)) [] seed
    (act.map fun l => (l, (fs.find? fun a => a.1 == key l).elim 0 (·.2)), seed1)) s

/-- `vconf` (R343). -/
def execVconf (h : Hd) (n64 : Bool) (vd va : VReg) (pc : PReg) (s : State) : Res :=
  vecRun h
    { ok := fun g => g.okOp false vd.toNat && g.okOp n64 va.toNat
      reads := fun _ l => opReads n64 [va.toNat] l
      writes := fun _ act => act.map fun l => (vd.toNat, l)
      run := fun g act => act.foldl (fun g1 l =>
        let m := (act.find? fun m => g.getE n64 va.toNat m == g.getE n64 va.toNat l).getD l
        (g1.setE false vd.toNat l m).setPred pc.toNat l (m == l)) g } s

/-! ## Top-k (R344 to R346) -/

/-- Whether a distance comes before another (R344): NaN above +∞. -/
def distLt (ty : Ety) (a b : Nat) : Bool :=
  match etyFF ty with
  | none => intOp ty a < intOp ty b
  | some f =>
    match f.decode a, f.decode b with
    | .nan, _ => false
    | _, .nan => true
    | x, y => fcmpVal x y == some (-1)

/-- Whether an entry goes before another (R344). -/
def entryLe (ty : Ety) (a b : Nat × Nat) : Bool := distLt ty a.1 b.1 || (!distLt ty b.1 a.1 && a.2 ≤ b.2)

/-- The padding entry (R344). -/
def padEntry (ty : Ety) : Nat × Nat :=
  ((match etyFF ty with
    | some f => f.infCode
    | none => wrapInt (etyWidth ty) (intMax (etyWidth ty) (etySigned ty))), 0xFFFF_FFFF)

/-- Entries written to lanes 0 to k − 1 of two registers, active or not (R345). -/
def putEntries (ty : Ety) (vd k : Nat) (es : List (Nat × Nat)) (g : Gang) : Gang :=
  (List.range k).foldl (fun g j =>
    let e := es.getD j (padEntry ty)
    (g.setE false vd j (etyJoin ty [etyPart ty e.1 0])).setE false (vd + 1) j e.2) g

/-- A top-k instruction: k outside 1 to W is a VARIANT trap before the registers are checked (R223, R345). -/
def topkInstr (h : Hd) (r : V3) (k : Nat) (sc : Reg) (regs : List Nat) (reads : Nat → List (Nat × Nat))
    (run : Gang → List Nat → Gang) (s : State) : Res :=
  withCur s (fun t => trapT t.id (notOnCore t.pc t.line) false s) fun g =>
    if k = 0 || g.width < k then trapG g.id (illegalOp g.pc g.line rVariant) false s
    else
      vecRun h
        { ok := fun g => ([r.vd.toNat, r.vd.toNat + 1] ++ regs).all (g.okOp false) && g.sOk [sc.toNat]
          reads := fun _ l => reads l
          writes := fun _ _ => (List.range k).flatMap fun j => [(r.vd.toNat, j), (r.vd.toNat + 1, j)]
          run := run
          swrites := [sc.toNat] } s

/-- `vtopk` (R345). -/
def execVtopk (h : Hd) (ty : Ety) (r : V3) (k : BitVec 9) (sc : Reg) (s : State) : Res :=
  topkInstr h r k.toNat sc [r.va.toNat, r.vb.toNat] (fun l => [(r.va.toNat, l), (r.vb.toNat, l)])
    (fun g act =>
      let es := (sortBy (entryLe ty) (act.map fun l => (g.getE false r.va.toNat l, g.getE false r.vb.toNat l))).take k.toNat
      (putEntries ty r.vd.toNat k.toNat es g).setS sc.toNat (w64 es.length)) s

/-- The entries of a list in two registers, lanes 0 to k − 1. -/
def listEntries (g : Gang) (v k : Nat) : List (Nat × Nat) :=
  (List.range k).map fun j => (g.getE false v j, g.getE false (v + 1) j)

/-- `vmrgk` (R346). -/
def execVmrgk (h : Hd) (ty : Ety) (r : V3) (k : BitVec 9) (sc : Reg) (s : State) : Res :=
  let regs := [r.va.toNat, r.va.toNat + 1, r.vb.toNat, r.vb.toNat + 1]
  topkInstr h r k.toNat sc regs (fun _ => (List.range k.toNat).flatMap fun j => regs.map fun v => (v, j))
    (fun g _ =>
      let es := (sortBy (entryLe ty) (listEntries g r.va.toNat k.toNat ++ listEntries g r.vb.toNat k.toNat)).take k.toNat
      (putEntries ty r.vd.toNat k.toNat es g).setS sc.toNat
        (w64 (es.filter fun e => e.2 != 0xFFFF_FFFF).length)) s

end Sys2Proof.Machine
end

