-- ==== Sys2Proof/Machine/VectorMem.lean ====
section
/-! DEFINITION. Vector memory instructions (R347 to R351): loads and stores of elements and of register rows, atomics in every
lane, and the gang-combined atomic. -/

namespace Sys2Proof.Machine

/-! ## Checks -/

/-- The separate accesses of one lane, each checked as R279 says: every translation is asked for, then the first fault counts,
then the stalls of all (R35, R117). -/
def checkSeq (ag : Agent) (align : Nat) (k : AccKind) (hostOk : Bool) : List (Word × Nat) → State → Chks
  | [], s => .ok s []
  | (va, n) :: ps, s =>
    match checkAccess ag va n align k hostOk s with
    | .trap s1 t => .trap s1 t
    | .stall s1 xs =>
      match checkSeq ag align k hostOk ps s1 with
      | .ok s2 _ => .stall s2 xs
      | .stall s2 ys => .stall s2 (xs ++ ys)
      | r => r
    | .wait s1 =>
      match checkSeq ag align k hostOk ps s1 with
      | .ok s2 _ => .wait s2
      | .stall s2 _ => .wait s2
      | .trap s2 _ => .wait s2
      | .wait s2 => .wait s2
    | .ok s1 a _ =>
      match checkSeq ag align k hostOk ps s1 with
      | .ok s2 as => .ok s2 (a :: as)
      | r => r

/-- The accesses of every lane, in ascending lane order (R36, R351). -/
def checkRows (ag : Agent) (align : Nat) (k : AccKind) (hostOk : Bool) : List (Nat × List (Word × Nat)) → State → LaneChk
  | [], s => ⟨s, [], [], [], false⟩
  | (l, ps) :: ls, s =>
    match checkSeq ag align k hostOk ps s with
    | .ok s1 as =>
      let r := checkRows ag align k hostOk ls s1
      { r with good := (l, as) :: r.good }
    | .trap s1 t =>
      let r := checkRows ag align k hostOk ls s1
      { r with bad := (l, t) :: r.bad }
    | .stall s1 xs =>
      let r := checkRows ag align k hostOk ls s1
      { r with stall := (xs.map fun x => { x with lane := l }) ++ r.stall }
    | .wait s1 => { checkRows ag align k hostOk ls s1 with wait := true }

/-- What a vector memory instruction needs: the s register of its base, the v registers that it reads in each lane, the
registers that it fills in a lane, and the accesses of a lane. -/
structure VMem where
  ok : Gang → Bool
  sreg : List Nat
  reads : Nat → List (Nat × Nat)
  dsts : Nat → List Dst
  kind : AccKind
  hostOk : Bool
  align : Nat
  at_ : Gang → Nat → List (Word × Nat)

/-- A vector memory instruction up to its checks (R319, R351); go carries it out for the lanes that passed, with the faults
of the others. -/
def vmemInstr (h : Hd) (v : VMem) (go : Gang → List Nat → LaneChk → List (Nat × TrapInfo) → Res) (s : State) : Res :=
  withCur s (fun t => trapT t.id (notOnCore t.pc t.line) false s) fun g =>
    if !(v.ok g && g.sOk v.sreg) then trapG g.id (illegalOp g.pc g.line rRegister) false s
    else
      let act := g.active h
      if act.isEmpty then endG g.id s
      else if !(act.all fun l => (v.reads l).all fun x => g.fullV x.1 x.2) then parkG g.id .retry s
      else if s.busy g.id (act.flatMap v.dsts) || flagFull g.flags (flagOf g.line h) then parkG g.id .retry s
      else
        let mach := laneErrs s g.id (fun l => ((v.reads l).map fun x => Dst.v x.1 x.2) ++ v.sreg.map Dst.s) act
        let r := checkRows g.agent v.align v.kind v.hostOk
          ((act.filter fun l => !mach.any fun b => b.1 == l).map fun l => (l, v.at_ g l)) s
        let bad := mergeFaults mach r.bad
        if r.wait then parkG g.id .retry r.s
        else if !bad.isEmpty && !g.galley then gangFaults g.id bad false r.s r.s
        else
          match r.stall with
          | x :: xs => parkG g.id (.stall (x :: xs)) r.s
          | [] => go g act r bad

/-! ## Loads and stores -/

/-- The address of lane l (R347). -/
def vmodeAddr (m : VMode) (base : Word) (imm : BitVec 16) (b : Nat) (g : Gang) (l : Nat) : Word :=
  match m with
  | .unit => base + imm.signExtend 64 + w64 (l * b)
  | .stride => base + w64 l * imm.signExtend 64
  | .index va sh => base + ((g.getV va.toNat l).signExtend 64) <<< sh.toNat + imm.signExtend 64

/-- The index register of a mode. -/
def vmodeRegs (m : VMode) : List Nat :=
  match m with
  | .index va _ => [va.toNat]
  | _ => []

/-- `vld` (R347). -/
def execVld (h : Hd) (sz : LdSize) (m : VMode) (vd : VReg) (sr : Reg) (imm : BitVec 16) (s : State) : Res :=
  let pair := sz == .n64
  vmemInstr h
    { ok := fun g => g.okOp pair vd.toNat && (vmodeRegs m).all (g.okOp false)
      sreg := [sr.toNat]
      reads := fun l => opReads false (vmodeRegs m) l
      dsts := fun l => [opDst pair vd.toNat l]
      kind := .load, hostOk := true, align := sz.bytes
      at_ := fun g l => [(vmodeAddr m (g.getS sr.toNat) imm sz.bytes g l, sz.bytes)] }
    (fun g _ r bad =>
      let es := r.good.flatMap fun x => x.2.map fun a =>
        ({ acc := a, size := sz, dst := opDst pair vd.toNat x.1, val := none } : LoadElt)
      let s1 := if es.isEmpty then r.s else startLoad g.id (flagOf g.line h) false none es r.s
      gangFaults g.id bad false r.s (s1.updGang g.id Gang.next)) s

/-- `vst` (R347). -/
def execVst (h : Hd) (sz : StSize) (m : VMode) (vd : VReg) (sr : Reg) (imm : BitVec 16) (s : State) : Res :=
  let pair := sz == .n64
  vmemInstr h
    { ok := fun g => g.okOp pair vd.toNat && (vmodeRegs m).all (g.okOp false)
      sreg := [sr.toNat]
      reads := fun l => opReads false (vmodeRegs m) l ++ opReads pair [vd.toNat] l
      dsts := fun _ => []
      kind := .store, hostOk := true, align := sz.bytes
      at_ := fun g l => [(vmodeAddr m (g.getS sr.toNat) imm sz.bytes g l, sz.bytes)] }
    (fun g _ r bad =>
      storeLanes h g .plain bad (r.good.flatMap fun x => x.2.map fun a =>
        (x.1, a, toBytes sz.bytes (g.getE pair vd.toNat x.1))) r.s) s

/-- The words of a lane in register rows (R348). -/
def rowAddrs (g : Gang) (base : Word) (imm : BitVec 16) (n l : Nat) : List (Word × Nat) :=
  (List.range n).map fun j => (base + imm.signExtend 64 + w64 (4 * (g.width * j + l)), 4)

/-- `vldc` (R348). -/
def execVldc (h : Hd) (n1 : BitVec 4) (vd : VReg) (sr : Reg) (imm : BitVec 16) (s : State) : Res :=
  let n := n1.toNat + 1
  let regs := (List.range n).map fun j => vd.toNat + j
  vmemInstr h
    { ok := fun g => regs.all (g.okOp false)
      sreg := [sr.toNat]
      reads := fun _ => []
      dsts := fun l => regs.map fun r => .v r l
      kind := .load, hostOk := true, align := 4
      at_ := fun g l => rowAddrs g (g.getS sr.toNat) imm n l }
    (fun g _ r bad =>
      let es := r.good.flatMap fun x => (regs.zip x.2).map fun y =>
        ({ acc := y.2, size := .n32, dst := .v y.1 x.1, val := none } : LoadElt)
      let s1 := if es.isEmpty then r.s else startLoad g.id (flagOf g.line h) false none es r.s
      gangFaults g.id bad false r.s (s1.updGang g.id Gang.next)) s

/-- `vstc` (R348). -/
def execVstc (h : Hd) (n1 : BitVec 4) (vd : VReg) (sr : Reg) (imm : BitVec 16) (s : State) : Res :=
  let n := n1.toNat + 1
  let regs := (List.range n).map fun j => vd.toNat + j
  vmemInstr h
    { ok := fun g => regs.all (g.okOp false)
      sreg := [sr.toNat]
      reads := fun l => opReads false regs l
      dsts := fun _ => []
      kind := .store, hostOk := true, align := 4
      at_ := fun g l => rowAddrs g (g.getS sr.toNat) imm n l }
    (fun g _ r bad =>
      storeLanes h g .plain bad (r.good.flatMap fun x => (regs.zip x.2).map fun y =>
        (x.1, y.2, toBytes 4 (g.getV y.1 x.1).toNat)) r.s) s

/-! ## Atomics -/

/-- The shared form of a `vamo` (R291, R349). -/
def vamoReq (op : VAmoOp) (ty : Ety) (dv : Bool) : AmoReq :=
  { op := (match op with
      | .op o => o
      | .cas _ => .swap)
    cas := (match op with
      | .op _ => false
      | .cas _ => true)
    red := false, sc := if dv then .dv else .cl, rel := false, acq := false, sz8 := ty.is64, off := 0, xd := 0, srcs := [] }

/-- The data registers of a `vamo`: vb, and vc for .cas. -/
def vamoData (op : VAmoOp) (vb : VReg) : List Nat :=
  match op with
  | .op _ => [vb.toNat]
  | .cas vc => [vb.toNat, vc.toNat]

/-- `vamo` (R349): one atomic in each active lane, in ascending lane order. -/
def execVamo (h : Hd) (op : VAmoOp) (ty : Ety) (dv : Bool) (r : V3) (s : State) : Res :=
  let q := vamoReq op ty dv
  let pair := ty.is64
  let data := vamoData op r.vb
  vmemInstr h
    { ok := fun g => g.okOp true r.va.toNat && (r.vd.toNat :: data).all (g.okOp pair)
      sreg := []
      reads := fun l => opReads true [r.va.toNat] l ++ opReads pair data l
      dsts := fun l => [opDst pair r.vd.toNat l]
      kind := .atomic, hostOk := q.hostOk, align := q.bytes
      at_ := fun g l => [(w64 (g.getE true r.va.toNat l), q.bytes)] }
    (fun g act x bad =>
      match drainAll g.id q.bytes (x.good.flatMap (·.2)) x.s with
      | .refused s1 ti => refusedG g.id act ti s1
      | .wait s1 => parkG g.id .retry s1
      | .ok s1 =>
        let es := x.good.flatMap fun y => y.2.map fun a =>
          q.elt a (opDst pair r.vd.toNat y.1) (a.va :: data.map fun v => w64 (g.getE pair v y.1))
        let s2 := if es.isEmpty then s1 else startAmo g.id q (flagOf g.line h) es s1
        gangFaults g.id bad false s1 (s2.updGang g.id Gang.next)) s

/-- `vrdm` (R350): the active lanes' values combined into one atomic, checked as an access of the lowest active lane (R351);
a fault is every active lane's (log 36). -/
def execVrdm (h : Hd) (op : AmoOp) (sz8 : Bool) (sc : Scope) (vd va : VReg) (sr : Reg) (imm : BitVec 16) (s : State) : Res :=
  let n := if sz8 then 8 else 4
  let q : AmoReq := { op := op, cas := false, red := false, sc := sc, rel := false, acq := false, sz8 := sz8, off := 0, xd := 0,
                      srcs := [] }
  vmemInstr h
    { ok := fun g => [vd.toNat, va.toNat].all (g.okOp sz8)
      sreg := [sr.toNat]
      reads := fun l => opReads sz8 [va.toNat] l
      dsts := fun l => [opDst sz8 vd.toNat l]
      kind := .atomic, hostOk := q.hostOk, align := n
      at_ := fun g _ => [(g.getS sr.toNat + imm.signExtend 64, n)] }
    (fun g act x bad =>
      match drainAll g.id n (x.good.flatMap (·.2)) x.s with
      | .refused s1 ti => refusedG g.id act ti s1
      | .wait s1 => parkG g.id .retry s1
      | .ok s1 =>
        let ls := x.good.map fun y => (opDst sz8 vd.toNat y.1, w64 (g.getE sz8 va.toNat y.1))
        match x.good.head?.bind fun y => y.2.head? with
        | none => gangFaults g.id bad false s1 (s1.updGang g.id Gang.next)
        | some a =>
          let s2 := ls.foldl (fun s f => (s.markEmpty g.id f.1).clearErr g.id f.1) s1
          let s3 := (s2.raise g.id (flagOf g.line h)).addOp g.id (flagOf g.line h)
            (.vrdm { near := a.cached && !sc.dvOrWider, acc := a, op := op, cmp := none, operand := 0, sz8 := sz8, dst := .none } ls)
          gangFaults g.id bad false s1 (s3.updGang g.id Gang.next)) s

end Sys2Proof.Machine
end

