-- ==== Sys2Proof/Machine/Matrix.lean ====
section
/-! DEFINITION. The matrix engine (R352 to R374): its queue and its products (R202 to R204, R356 to R361), `mready` and `mwait`
(R362, R363), the moves of accumulator tiles (R364 to R368), rotation and the join over the torus (R369 to R373), and what
R100 leaves undefined. -/

namespace Sys2Proof.Machine

/-! ## Values of operands -/

/-- An element under a block scale (R188). -/
def scaleVal (x : FVal) (s : Nat) : FVal :=
  if s = 0xFF then .nan
  else match x with
    | .fin n m e => .fin n m (e + s - 127)
    | x => x

/-- An integer as a floating value. -/
def intFVal (i : Int) : FVal := .fin (decide (i < 0)) i.natAbs 0

/-- The floating format of an operand. -/
def mfmtFF (f : MFmt) : FF :=
  match f with
  | .f16 => .f16 | .bf16 => .bf16 | .e4m3 => .e4m3 | .e5m2 => .e5m2 | .e4m3z => .e4m3z | _ => .e2m1

/-- The words of a block in one lane: its registers j = 0 to 15. -/
def blockWords (g : Gang) (b : Blk) (l : Nat) : List Nat := (List.range 16).map fun j => (g.getV (16 * b.toNat + j) l).toNat

/-- The code of element k (R352). -/
def elemCode (f : MFmt) (ws : List Nat) (k : Nat) : Nat :=
  ws.getD (k / (32 / f.width)) 0 / 2 ^ (f.width * (k % (32 / f.width))) % 2 ^ f.width

/-- The value of an I4X element with its companion word (R194). -/
def i4xVal (ws : List Nat) (cw k : Nat) : FVal :=
  let x :=
    if bitAt cw (8 + k % 32 / 2) then
      (if k % 2 = 1 then .fin false 0 0 else FF.e4m3.decode (ws.getD (k / 8) 0 / 2 ^ (4 * (k % 8)) % 256))
    else intFVal (intVal 4 true (elemCode .i4x ws k))
  scaleVal x (cw % 256)

/-- The value of element k of a lane on the floating path, with the lane's scale registers (R185, R188, R194, R355). -/
def operandVal (f : MFmt) (ws sc : List Nat) (k : Nat) : FVal :=
  if f == .i4x then i4xVal ws (sc.getD (k / 32) 0) k
  else
    let x := (mfmtFF f).decode (elemCode f ws k)
    match sc with
    | [] => x
    | w :: _ => scaleVal x (w / 2 ^ (8 * (k / 32)) % 256)

/-- The value of element k on the integer path (R191, R193). -/
def operandInt (f : MFmt) (tab : Word × Word) (ws : List Nat) (k : Nat) : Int :=
  match f with
  | .i8 => intVal 8 true (elemCode f ws k)
  | .l4 => intVal 8 true (l4Entry tab.1 tab.2 (elemCode f ws k))
  | _ => intVal 4 true (elemCode f ws k)

/-- Whether an operation takes the integer path (R202, R354). -/
def MM.intPath (m : MM) : Bool := m.fa == .i8 || m.fa == .i4 || m.fa == .l4

/-- The depth K (R352). -/
def MM.depth (m : MM) : Nat := 512 / m.fa.width

/-- One lane's values of an operand, k = 0 to K − 1. -/
def laneVec (m : MM) (f : MFmt) (b : Blk) (scs : List Nat) (g : Gang) (l : Nat) : List FVal :=
  let ws := blockWords g b l
  let sc := scs.map fun r => (g.getV r l).toNat
  (List.range (MM.depth m)).map fun k => operandVal f ws sc k

/-- The same on the integer path. -/
def laneInts (m : MM) (tab : Word × Word) (f : MFmt) (b : Blk) (g : Gang) (l : Nat) : List Int :=
  let ws := blockWords g b l
  (List.range (MM.depth m)).map fun k => operandInt f tab ws k

/-- One output element on the floating path: two groups in ascending k, each rounded once (R202, R203). -/
def dotGroups (m : MM) (acc : Nat) (a b : List FVal) : Nat :=
  let n := MM.depth m / 2
  let ps := List.zipWith mulVal a b
  accumulate (accumulate acc (ps.take n)) (ps.drop n)

/-- The tile that an operation leaves (R202, R361): element 64 × row + column. -/
def MM.product (m : MM) (tab : Word × Word) (g : Gang) : List Elem :=
  let start := fun i n => if m.z then 0 else (g.getAcc m.acc.toNat i n).toNat
  if MM.intPath m then
    let as := (List.range 64).map (laneInts m tab m.fa m.va g)
    let bs := (List.range 64).map (laneInts m tab m.fb m.vb g)
    (as.zipIdx).flatMap fun a => (bs.zipIdx).map fun b =>
      BitVec.ofNat 32 (wrapInt 32 ((start a.2 b.2 : Int) + (List.zipWith (· * ·) a.1 b.1).foldl (· + ·) 0))
  else
    let as := (List.range 64).map (laneVec m m.fa m.va (MM.scalesA m) g)
    let bs := (List.range 64).map (laneVec m m.fb m.vb (MM.scalesB m) g)
    (as.zipIdx).flatMap fun a => (bs.zipIdx).map fun b =>
      BitVec.ofNat 32 (dotGroups m (start a.2 b.2) a.1 b.1)

/-! ## Tiles -/

/-- A tile of zeros. -/
def Gang.zeroTile (g : Gang) (a : Nat) : Gang := { g with acc := tclear (4096 * a) (4096 * (a + 1)) g.acc }

/-- Whether a tile is in the interval of R100: an operation on it is not covered yet. -/
def Gang.tileOpen (g : Gang) (a : Nat) : Bool := g.matOps.any fun o => o.mm.acc.toNat == a

/-- A word of a tile as an instruction reads it: undefined in the interval (R100). -/
def Gang.readAcc (g : Gang) (n a i c : Nat) : Elem :=
  if g.tileOpen a then Config.freeElem (n + 64 * i + c) else g.getAcc a i c

/-- A write to a tile noted for R100. -/
def Gang.touchTile (g : Gang) (a : Nat) : Gang :=
  { g with matOps := g.matOps.map fun o => if o.mm.acc.toNat = a then { o with accDirty := true } else o }

/-- Whether an error mark lies in words of a gang's tile that sel chooses; its key is 4096 × tile + 64 × row + column. -/
def ErrMark.inTile (e : ErrMark) (c : CtxId) (a : Nat) (sel : Nat → Bool) : Bool :=
  e.st == .accTile && e.reg == some (c, .none) && e.key / 4096 == a && sel (e.key % 4096)

/-- The error, if any, in words of a gang's tile that sel chooses (R77). -/
def State.accErr (s : State) (c : CtxId) (a : Nat) (sel : Nat → Bool) : Option TrapInfo :=
  (s.errs.find? fun e => e.inTile c a sel).map fun _ => machineTrap .accTile 0

/-- Errors in words that are written end (R77). -/
def State.endAccErrs (s : State) (c : CtxId) (a : Nat) (sel : Nat → Bool) : State :=
  { s with errs := s.errs.filter fun e => !e.inTile c a sel }

/-! ## The shape of a matrix instruction -/

/-- Steps 6 to 8 of R223 for a matrix instruction (R353, R360): the declared width, the registers and tiles, a lane. -/
def matInstr (h : Hd) (w64only : Bool) (ok : Gang → Bool) (run : Gang → State → Res) (s : State) : Res :=
  withCur s (fun t => trapT t.id (notOnCore t.pc t.line) false s) fun g =>
    if w64only && g.width != 64 then trapG g.id (illegalOp g.pc g.line rVariant) false s
    else if !ok g then trapG g.id (illegalOp g.pc g.line rRegister) false s
    else if (g.active h).isEmpty then endG g.id s
    else run g s

/-- A trap of a gang-wide instruction in its active lanes. -/
def trapActive (h : Hd) (g : Gang) (ti : TrapInfo) (s : State) : Res :=
  gangFaults g.id ((g.active h).map fun l => (l, ti)) false s (s.updGang g.id Gang.next)

/-- A trap of a gang-wide instruction in every lane of the gang, all of which consume its data (R353, R382). -/
def trapAll (g : Gang) (ti : TrapInfo) (s : State) : Res :=
  gangFaults g.id (g.allLanes.map fun l => (l, ti)) false s (s.updGang g.id Gang.next)

/-! ## `mma` and `mrot` -/

/-- The registers and tile of an operation lie in the allocation (R360). -/
def MM.inAlloc (m : MM) (g : Gang) : Bool := decide (m.acc.toNat < g.accs) && g.vOk (MM.regsA m ++ MM.regsB m)

/-- The entries of a partition's engine queue on a wide core (R356). -/
def State.engineQueue (s : State) (part cl tile : Nat) : List (CtxId × Nat) :=
  s.engine.filter fun e => e.1.cluster == cl && e.1.tile == tile && (s.gang? e.1).any fun g => g.part == part

/-- An operation enters the engine queue, or its gang parks for a place (R356, R361). -/
def enqueue (h : Hd) (m : MM) (rot : Bool) (g : Gang) (s : State) : Res :=
  if 4 * (s.quarters g.part g.id.cluster).length ≤ (s.engineQueue g.part g.id.cluster g.id.tile).length ||
      flagFull g.flags (flagOf g.line h) then parkG g.id .retry s
  else
    let o : MatOp :=
      { mm := m, rot := rot, seq := g.matSeq, table := (g.lutlo, g.luthi), flag := flagOf g.line h,
        dirty := (MM.regsA m ++ MM.regsB m).filter fun r => g.written.contains r, accDirty := false, ended := false,
        err := none }
    let s1 := s.updGang g.id fun g => { g with matOps := g.matOps ++ [o], matSeq := g.matSeq + 1 }
    endG g.id (({ s1 with engine := s1.engine ++ [(g.id, g.matSeq)] } : State).raise g.id (flagOf g.line h))

/-- `mma` (R361). -/
def execMma (h : Hd) (m : MM) (s : State) : Res :=
  matInstr h true (MM.inAlloc m) (enqueue h m false) s

/-- `mrot` (R370, R373). -/
def execMrot (h : Hd) (m : MM) (s : State) : Res :=
  matInstr h true (MM.inAlloc m) (fun g s =>
    match s.torus g with
    | none => trapActive h g (torusTrap g 0 0 0x40) s
    | some (l, n) =>
      if (s.participant l g.num (l.west n)).isNone then trapActive h g (torusTrap g (s.rankOf l (l.west n)) 0 0x41) s
      else if (s.participant l g.num (l.north n)).isNone then trapActive h g (torusTrap g (s.rankOf l (l.north n)) 1 0x41) s
      else enqueue h m true g s) s

/-- The counters of an operation's multiply-accumulates (R412). -/
def countMacs (m : MM) (c : Counters) : Counters :=
  let n := 4096 * MM.depth m
  match m.fa with
  | .f16 => { c with mac16 := c.mac16 + n }
  | .bf16 => { c with mac16 := c.mac16 + n }
  | .i8 => { c with mac8i := c.mac8i + n }
  | .e4m3 => { c with mac8f := c.mac8f + n }
  | .e5m2 => { c with mac8f := c.mac8f + n }
  | .e4m3z => { c with mac8f := c.mac8f + n }
  | _ => { c with mac4 := c.mac4 + n }

/-- What an `mrot` sends of registers: their values, or undefined ones for those written in the interval (R370, R371). -/
def rotBlock (g : Gang) (o : MatOp) (rs : List Nat) (n : Nat) : Arrival :=
  ⟨o.seq, o.mm.acc.toNat, rs.map fun r => (r, (List.range 64).map fun l =>
    if o.dirty.contains r then Config.freeElem (n + 64 * r + l) else g.getV r l)⟩

/-- The registers of a taken operation emptied and sent on (R370). -/
def Gang.rotate (g : Gang) (o : MatOp) (n : Nat) : Gang :=
  let a := MM.regsA o.mm
  let b := MM.regsB o.mm
  let g1 := (a ++ b).foldl (fun g1 r => (List.range 64).foldl (fun g1 l => g1.clrV r l) g1) g
  { g1 with
    awaitW := g.awaitW ++ [(o.seq, a)], awaitN := g.awaitN ++ [(o.seq, b)]
    pendingSends := g.pendingSends ++ [(false, rotBlock g o a n), (true, rotBlock g o b (n + 64 * 512))] }

/-- The error that an operation meets in its registers or, without .z, in its tile (R361). -/
def matErr (s : State) (g : Gang) (m : MM) : Option TrapInfo :=
  match s.regErr g.id ((MM.regsA m ++ MM.regsB m).flatMap fun r => (List.range 64).map fun l => Dst.v r l) with
  | some e => some (machineTrap e.st e.va)
  | none => if m.z then none else s.accErr g.id m.acc.toNat fun _ => true

/-- ENGINE_OPERATION_END (R356, R361, R370): the oldest operation of a partition's queue reads its operands and writes its
tile, and its flag falls; an `mrot` passes its operands on. -/
def execEngineOperationEnd (part cl tile : Nat) (s : State) : Res :=
  match (s.engineQueue part cl tile).head? with
  | none => .next s
  | some (c, seq) =>
    match s.gang? c with
    | none => .next s
    | some g =>
      match g.matOps.find? fun o => o.seq == seq with
      | none => .next { s with engine := s.engine.erase (c, seq) }
      | some o =>
        let err := matErr s g o.mm
        let g1 := g.putTile o.mm.acc.toNat (MM.product o.mm o.table g)
        let g2 := if o.rot then g1.rotate o s.fresh else g1
        let g3 := { g2 with matOps := g2.matOps.map fun x => if x.seq = seq then { x with ended := true, err := err } else x }
        let s1 := (s.bump (if o.rot then 2 * 64 * 512 else 0)).setGang g3
        let s2 := { s1 with engine := s1.engine.erase (c, seq) }
        .next (((s2.endAccErrs c o.mm.acc.toNat fun _ => true).account part g.team (countMacs o.mm)).lower c o.flag)

/-! ## `mready`, `mwait` and the cover of an operation -/

/-- Whether a fill of any vector register of a gang is pending (R362). -/
def State.vFillPending (s : State) (g : Gang) : Bool :=
  (s.ops.any fun o => o.owner == g.id && o.kind.dsts.any fun d => !d.cells.isEmpty) ||
    (s.teams.any fun t => t.chans.toList.any fun ch => ch.state == .active && ch.vdst && ch.owner == some g.id) ||
    !g.awaitW.isEmpty || !g.awaitN.isEmpty || g.matOps.any fun o => o.rot && !o.ended

/-- A sender of an awaited arrival that is gone (R373): its tile and the direction. -/
def State.senderGone (s : State) (g : Gang) : Option (Nat × Nat) :=
  match s.torus g with
  | none => none
  | some (l, n) =>
    if !g.awaitW.isEmpty && g.arrivalW.isNone && (s.participant l g.num (l.east n)).isNone then
      some (s.rankOf l (l.east n), 0)
    else if !g.awaitN.isEmpty && g.arrivalN.isNone && (s.participant l g.num (l.south n)).isNone then
      some (s.rankOf l (l.south n), 1)
    else none

/-- `mready` (R362). -/
def execMready (h : Hd) (s : State) : Res :=
  matInstr h false (fun _ => true) (fun g s =>
    if s.vFillPending g then
      match s.senderGone g with
      | some (tile, dir) => trapActive h g (torusTrap g tile dir 0x42) s
      | none => parkG g.id .retry s
    else endG g.id (s.updGang g.id fun g => { g with written := [] })) s

/-- `mwait` (R363): it parks until the operations on its tile have ended and their blocks are accepted; an uncorrectable error
that they met is raised here (R361). -/
def execMwait (h : Hd) (acc : Option AccReg) (s : State) : Res :=
  matInstr h false (fun g => acc.all fun a => decide (a.toNat < g.accs)) (fun g s =>
    let sel := fun (o : MatOp) => acc.all fun a => o.mm.acc == a
    let blocks := fun (x : Arrival) => acc.all fun a => x.acc == a.toNat
    match s.receiverGone g blocks with
    | some ti => trapActive h g ti s
    | none =>
      if g.matOps.any (fun o => sel o && !o.ended) || g.pendingSends.any (fun x => blocks x.2) then parkG g.id .retry s
      else
        match coverTrap g sel blocks s with
        | (s1, some ti) => trapAll g ti s1
        | (s1, none) => endG g.id (coverOps g.id sel s1)) s

/-! ## Moves of tiles -/

/-- `mzero` (R365). -/
def execMzero (h : Hd) (acc : AccReg) (s : State) : Res :=
  matInstr h false (fun g => decide (acc.toNat < g.accs)) (fun g s =>
    endG g.id ((s.updGang g.id fun g => (g.zeroTile acc.toNat).touchTile acc.toNat).endAccErrs g.id acc.toNat fun _ => true)) s

/-- The registers of a group move: n from v(16 × block + offset) upward (R366). -/
def moveRegs (blk : Blk) (off : BitVec 4) (parts : Nat) : List Nat :=
  (List.range (16 / parts)).map fun j => 16 * blk.toNat + off.toNat + j

/-- One element converted by `mrd` (R366). -/
def mrdElem (k : MrdKind) (x : Elem) (r : BitVec 32) : Nat :=
  match k with
  | .raw => x.toNat
  | .fp f rm sat => roundTo (mfmtFF f) rm sat ((FF.f32.decode x.toNat).exact) r
  | .i8 sat => wrapInt 8 (if sat then satInt 8 true (intVal 32 true x.toNat) else intVal 32 true x.toNat)

/-- Whether the conversion steps the generator (R200, R366). -/
def mrdSteps (k : MrdKind) : Bool :=
  match k with
  | .fp _ rm _ => rm == .rs
  | _ => false

/-- The columns of one lane's row converted, column c on (R366). -/
def mrdRow (k : MrdKind) (read : Nat → Elem) : Nat → Nat → BitVec 32 → List Nat × BitVec 32
  | 0, _, seed => ([], seed)
  | n + 1, c, seed =>
    let seed1 := if mrdSteps k then srStep seed else seed
    let (rest, seed2) := mrdRow k read n (c + 1) seed1
    (mrdElem k (read c) seed1 :: rest, seed2)

/-- Codes packed into a register, the first lowest. -/
def packCodes (w : Nat) (cs : List Nat) : Nat := cs.foldr (fun c a => c % 2 ^ w + a * 2 ^ w) 0

/-- `mrd` (R366). -/
def execMrd (h : Hd) (acc : AccReg) (blk : Blk) (g4 : BitVec 2) (off : BitVec 4) (k : MrdKind) (s : State) : Res :=
  let a := acc.toNat
  let parts := mrdParts k
  let regs := moveRegs blk off parts
  let ds := regs.flatMap fun r => (List.range 64).map fun l => Dst.v r l
  matInstr h true (fun g => decide (a < g.accs) && g.vOk regs) (fun g s =>
    if s.busy g.id ds || flagFull g.flags (flagOf g.line h) then parkG g.id .retry s
    else
      let bad := if g.tileOpen a then [] else (List.range 64).filterMap fun l =>
        (s.accErr g.id a fun e => e / 64 == l && e % 64 / 16 == g4.toNat).map fun ti => (l, ti)
      let (g1, seed) := (List.range 64).foldl (fun (x : Gang × BitVec 32) l =>
        let (row, seed) := mrdRow k (fun c => g.readAcc s.fresh a l c) 16 (16 * g4.toNat) x.2
        (if bad.any (·.1 == l) then x.1
          else (List.range regs.length).foldl (fun g1 j =>
            g1.setV (regs.getD j 0) l (BitVec.ofNat 32 (packCodes (32 / parts) ((row.drop (parts * j)).take parts)))) x.1, seed))
        (g, g.srseed)
      let s1 := (s.bump (if g.tileOpen a then 4096 else 0)).setGang { g1 with srseed := seed }
      let s2 := if s1.errs.isEmpty then s1 else ds.foldl (fun s d => s.clearErr g.id d) s1
      gangFaults g.id bad false s (s2.updGang g.id Gang.next)) s

/-- One element converted by `mwr` (R367): exactly, a NaN made canonical. -/
def mwrElem (conv : Option MFmt) (c : Nat) : Elem :=
  match conv with
  | none => BitVec.ofNat 32 c
  | some .i8 => BitVec.ofNat 32 (wrapInt 32 (intVal 8 true c))
  | some f => BitVec.ofNat 32 (roundTo .f32 .rn false ((mfmtFF f).decode c).exact 0)

/-- `mwr` (R367). -/
def execMwr (h : Hd) (acc : AccReg) (blk : Blk) (g4 : BitVec 2) (off : BitVec 4) (conv : Option MFmt) (s : State) : Res :=
  let a := acc.toNat
  let parts := mwrParts conv
  let regs := moveRegs blk off parts
  matInstr h true (fun g => decide (a < g.accs) && g.vOk regs) (fun g s =>
    if !(regs.all fun r => (List.range 64).all fun l => g.fullV r l) || flagFull g.flags (flagOf g.line h) then
      parkG g.id .retry s
    else
      let bad := (List.range 64).filterMap fun l =>
        (s.regErr g.id (regs.map fun r => Dst.v r l)).map fun e => (l, machineTrap e.st e.va)
      let w := 32 / parts
      let ok := (List.range 64).filter fun l => !bad.any (·.1 == l)
      let g1 := ok.foldl (fun g1 l => (List.range 16).foldl (fun g1 c =>
        g1.setAcc a l (16 * g4.toNat + c)
          (mwrElem conv ((g.getV (regs.getD (c / parts) 0) l).toNat / 2 ^ (w * (c % parts)) % 2 ^ w))) g1) g
      let s1 := (s.setGang (g1.touchTile a)).endAccErrs g.id a fun e => e % 64 / 16 == g4.toNat && ok.contains (e / 64)
      gangFaults g.id bad false s (s1.updGang g.id Gang.next)) s

/-- A tile transposed from entries of another (R368). -/
def Gang.transpose (g : Gang) (d src : Nat) : Gang :=
  let es := g.acc.filter fun x => 4096 * src ≤ x.1 && x.1 < 4096 * (src + 1)
  es.foldl (fun g1 x => g1.setAcc d (x.1 % 64) (x.1 % 4096 / 64) x.2) (g.zeroTile d)

/-- `mtrn` (R368). -/
def execMtrn (h : Hd) (accd accs : AccReg) (s : State) : Res :=
  let d := accd.toNat
  let a := accs.toNat
  matInstr h true (fun g => decide (d < g.accs) && decide (a < g.accs)) (fun g s =>
    if flagFull g.flags (flagOf g.line h) then parkG g.id .retry s
    else
      match (if g.tileOpen a then none else s.accErr g.id a fun _ => true) with
      | some ti => trapAll g ti s
      | none =>
        let g1 := if g.tileOpen a then g.freeTile d s.fresh else g.transpose d a
        endG g.id (((s.bump (if g.tileOpen a then 4096 else 0)).setGang (g1.touchTile d)).endAccErrs g.id d fun _ => true)) s

/-! ## Arrivals and the join -/

/-- A block accepted into a receiver's buffer from the neighbour that sends it (R371): the sender is the east neighbour for
west-bound data, the south one for north-bound data. -/
def acceptBlock (c : CtxId) (north : Bool) (s : State) : State :=
  match s.gang? c with
  | none => s
  | some g =>
    match s.torus g with
    | none => s
    | some (l, n) =>
      if g.state = .exited || (if north then g.arrivalN.isSome else g.arrivalW.isSome) then s
      else
        match s.gangs.find? fun x => x.team == some ⟨l.uid, if north then l.south n else l.east n⟩ && x.num == g.num with
        | none => s
        | some x =>
          match x.pendingSends.find? fun p => p.1 == north with
          | none => s
          | some p =>
            let s1 := s.updGang x.id fun x => { x with pendingSends := x.pendingSends.erase p }
            s1.updGang c fun g => if north then { g with arrivalN := some p.2 } else { g with arrivalW := some p.2 }

/-- A buffered block fills the registers whose numbers it carries, once the matching `mrot`, by its number, was taken (R371). -/
def Gang.land (g : Gang) (taken : Nat) (a : Arrival) : Gang :=
  (a.regs.filter fun x => x.1 < g.vregs).foldl (fun g x =>
    ((x.2.zipIdx).foldl (fun g e => g.putV x.1 e.2 e.1) g).noteWrite (some taken) x.1) g

/-- The data in a receiver's buffer lands (R371). -/
def landBlock (c : CtxId) (north : Bool) (s : State) : State :=
  match s.gang? c with
  | none => s
  | some g =>
    match (if north then g.arrivalN else g.arrivalW), (if north then g.awaitN else g.awaitW) with
    | some a, (taken, _) :: rest =>
      let g1 := g.land taken a
      let s1 := s.setGang (if north then { g1 with arrivalN := none, awaitN := rest }
        else { g1 with arrivalW := none, awaitW := rest })
      if s1.errs.isEmpty then s1
      else a.regs.foldl (fun s x => (List.range 64).foldl (fun s l => s.clearErr c (.v x.1 l)) s) s1
    | _, _ => s

/-- MROT_ARRIVAL (R96, R371): a neighbour's block is accepted when the buffer is free, and it lands when the matching take has
been made. -/
def execMrotArrival (c : CtxId) (north : Bool) (s : State) : Res :=
  .next (landBlock c north (acceptBlock c north s))

/-- A team of a join that lacks its participant (R373). -/
def State.joinMissing (s : State) (l : Launch) (num : Nat) : Option Nat :=
  (List.range l.teams).find? fun n => (s.participant l num n).isNone

/-- `mjoin` (R372): a release at .cl at its arrival, an acquire at .cl when it is released. -/
def execMjoin (h : Hd) (s : State) : Res :=
  matInstr h false (fun _ => true) (fun g s =>
    match s.torus g with
    | none => trapActive h g (torusTrap g 0 2 0x40) s
    | some (l, _) =>
      if g.inJoin && g.joinDone then
        endG g.id ((acquire g.id .cl s).updGang g.id fun g => { g with inJoin := false, joinDone := false })
      else
        match s.joinMissing l g.num with
        | some n =>
          if g.inJoin then
            trapActive h g (torusTrap g (s.rankOf l n) 2 0x42)
              (s.updGang g.id fun g => { g with inJoin := false, njoin := g.njoin - 1 })
          else trapActive h g (torusTrap g (s.rankOf l n) 2 0x41) s
        | none =>
          if g.inJoin then parkG g.id .retry s
          else
            match releaseGang g.id .cl (settleLoads g.id s) with
            | .refused s1 ti => refusedG g.id (g.active h) ti s1
            | .wait s1 => parkG g.id .retry s1
            | .ok s1 => parkG g.id .retry (s1.updGang g.id fun g => { g with inJoin := true, njoin := g.njoin + 1 })) s

/-- MJOIN_RELEASE (R372): every participant has reached its join of the same number. -/
def execMjoinRelease (launch gang : Nat) (s : State) : Res :=
  match s.launch? launch with
  | none => .next s
  | some l =>
    let ps := (List.range l.teams).filterMap fun n => s.participant l gang n
    if l.coresident && ps.length = l.teams && ps.all (fun g => g.inJoin && !g.joinDone && g.njoin == (ps.headD g).njoin) then
      .next (ps.foldl (fun s g => (s.updGang g.id fun g => { g with joinDone := true })) s)
    else .next s

/-! ## The fairness timer -/

/-- FAIRNESS_TIMER_EXPIRY (R168): the current group is to be switched at the next line boundary; a gang that waits to enter a
line is at one. -/
def execFairnessTimerExpiry (c : CtxId) (s : State) : Res :=
  match s.gang? c with
  | none => .next s
  | some g =>
    if !g.timeUp then .next s
    else if g.line.isNone && (g.state = .ready || g.state = .parked .retry) then
      .next (s.setGang { g.switch with state := .ready })
    else .next (s.setGang { g with switchDue := true })

end Sys2Proof.Machine
end

