-- ==== Sys2Proof/Machine/Preempt.lean ====
section
/-! DEFINITION. Pre-emption: saving and restoring teams (R103, R119, R173, R384 to R387), `ctxsave` and `ctxrest` (R314), time
slices (R387). -/

namespace Sys2Proof.Machine

/-! ## Contexts under other names -/

/-- A message whose sender and gang have other names. -/
def Msg.rename (f : CtxId → CtxId) (m : Msg) : Msg := { m with heldAt := m.heldAt.map f, gang := m.gang.map f }

/-- A count change whose producers have other names. -/
def Change.rename (f : CtxId → CtxId) (c : Change) : Change := { c with producers := c.producers.map f }

def Thread.rename (f : CtxId → CtxId) (t : Thread) : Thread :=
  { t with id := f t.id, msg := t.msg.map (Msg.rename f), inbox := t.inbox.map (Msg.rename f), spillbox := t.spillbox.map (Msg.rename f) }

def Gang.rename (f : CtxId → CtxId) (g : Gang) : Gang := { g with id := f g.id, callers := g.callers.map (·.map f) }

def Team.rename (f : CtxId → CtxId) (t : Team) : Team :=
  { t with
    chans := t.chans.map fun c => { c with owner := c.owner.map f }
    binds := t.binds.map fun b => { b with ctx := f b.ctx } }

def Op.rename (f : CtxId → CtxId) (o : Op) : Op :=
  { o with owner := f o.owner, kind := match o.kind with | .push c v => .push (f c) v | k => k }

def WLine.rename (f : CtxId → CtxId) (l : WLine) : WLine :=
  { l with groups := l.groups.map fun g => { g with heldFor := g.heldFor.map f }, writer := l.writer.map fun w => (w.1, f w.2) }

/-- Every part of the device that names a context names it anew. -/
def State.rename (f : CtxId → CtxId) (s : State) : State :=
  { s with
    cur := s.cur.map f
    threads := s.threads.map (Thread.rename f)
    gangs := s.gangs.map (Gang.rename f)
    teams := s.teams.map (Team.rename f)
    ops := s.ops.map (Op.rename f)
    msgs := s.msgs.map (Msg.rename f)
    keys := s.keys.map fun k => { k with callers := k.callers.map f }
    keyQueue := s.keyQueue.map fun w => { w with ctx := f w.ctx }
    launchRecs := s.launchRecs.map fun r => { r with callers := r.callers.map f }
    engine := s.engine.map fun e => (f e.1, e.2)
    tileOut := s.tileOut.map fun x => (x.1, x.2.1, Change.rename f x.2.2)
    clusterIn := s.clusterIn.map fun x => (x.1, x.2.map (Change.rename f))
    clusterOut := s.clusterOut.map fun x => (x.1, Change.rename f x.2)
    devIn := s.devIn.map fun b => b.map (Change.rename f)
    devOut := s.devOut.map (Change.rename f)
    aggIn := s.aggIn.map fun b => b.map (Change.rename f)
    sentBatches := s.sentBatches.map fun x => (x.1, x.2.map (Change.rename f))
    preReqs := s.preReqs.map fun r => { r with team := r.team.map fun x => (x.1, f x.2) }
    missq := s.missq.map fun m => { m with waiters := m.waiters.map f }
    wl1 := s.wl1.map (WLine.rename f)
    errs := s.errs.map fun e => { e with reg := e.reg.map fun r => (f r.1, r.2) } }

/-! ## Saving -/

/-- The contexts of a team. -/
def State.contextsOf (s : State) (i : TeamId) : List CtxId :=
  ((s.threads.filter fun t => t.team == i).map (·.id)) ++ ((s.gangs.filter fun g => g.team == some i).map (·.id))

/-- Whether a gang can be saved now (R374, R384): at a line boundary or where it is parked, with its operations and sends
ended. -/
def Gang.savable (g : Gang) : Bool :=
  (g.state != .ready || g.line.isNone) && g.matOps.all (·.ended) && g.pendingSends.isEmpty

/-- The dirty bytes that a gang wrote, which its save writes back (R103). -/
def gangMine (s : State) (c : CtxId) : List (WLine × WGroup) :=
  wlOrder ((s.wl1.filter fun l => l.onCore c (s.partOf c).1).flatMap fun l =>
    (l.groups.filter fun g => g.heldFor.isEmpty && (g.mask &&& l.mine c) != 0).map fun g => (l, { g with mask := g.mask &&& l.mine c }))

/-- None when what the save of a context performs and writes back waits for nothing (R103); else the state with that asked for. -/
def State.saveAwait (s : State) (c : CtxId) : Option State :=
  match s.opsAwait c fun _ => true with
  | some s1 => some s1
  | none =>
    match s.thread? c with
    | some t =>
      (((t.sb.filter fun e => !t.agent.relHandler || e.inHandler).takeWhile (·.held.isNone)).find? fun e => !sbOpen c e s).map
        fun e => sbAsk c e s
    | none => (gangMine s c).findSome? fun p => s.awaitLine p.1 p.2.mask

/-- Whether a team can be saved now: every gang of it, with nothing to wait for. -/
def State.savable (s : State) (t : Team) : Bool :=
  (s.gangs.filter fun g => g.team == some t.id).all Gang.savable && (s.contextsOf t.id).all fun c => (s.saveAwait c).isNone

/-- What the saves of teams wait for is asked for. -/
def State.askSaves (s : State) (ts : List Team) : State :=
  (ts.flatMap fun t => s.contextsOf t.id).foldl (fun s c => (s.saveAwait c).getD s) s

/-- Store-buffer entries written back oldest first; one that is refused is held, with those behind it (R47, R103); one in
error is dropped and its MACHINE falls due (R77). -/
def saveBuffer (part : Nat) (c : CtxId) (own : SbEntry → Bool) : List SbEntry → State → State × List SbEntry × List TrapInfo
  | [], s => (s, [], [])
  | e :: es, s =>
    if e.held.isSome then (s, e :: es, [])
    else if !own e then
      let (s1, rest, due) := saveBuffer part c own es s
      (s1, e :: rest, due)
    else
      match sbWriteBack part c e s with
      | (s1, none) => saveBuffer part c own es s1
      | (s1, some t) =>
        if t.cause = 0x13 then
          let (s2, rest, due) := saveBuffer part c own es s1
          (s2, rest, { t with tinfo := t.tinfo ||| 0x8000 } :: due)
        else (s1, { e with held := some t.tinfo } :: es, [])

/-- A thread at its save (R103, R173, R242, R296, R384). DEDUCED: a caller in the key queue is withdrawn as one of a
gathering is; DESIGN CHOICE: a word that its `gcall` popped from x6 is not given back (log 89). -/
def saveThread (c : CtxId) (s : State) : State :=
  let s := settle c (fun _ => true) s
  match s.thread? c with
  | none => s
  | some t =>
    let rel := t.agent.relHandler
    let (s1, sb, due) := saveBuffer t.part c (fun e => !rel || e.inHandler) t.sb s
    let s2 := t.monitors.foldl (fun s m => s.putDst c m.dst 2) s1
    let gathering := t.state = .parked .gcall &&
      ((s2.keys.any fun k => k.callers.contains c) || s2.keyQueue.any fun w => w.ctx == c)
    let s3 := if gathering then
        (List.range 8).foldl (fun s i => s.putDst c (t.dst (24 + i)) (t.args.getD i 0)) (withdraw c s2) else s2
    s3.updThread c fun u =>
      { u with
        sb := sb, dueMachine := u.dueMachine ++ due, monitors := []
        state := if gathering then .parked .retry else match u.state with | .sleeping (some _) => .sleeping none | x => x
        args := if gathering then [] else u.args
        sleepLeft := match u.state with | .sleeping (some w) => some (w - s.cc) | _ => none }

/-- Dirty bytes of a gang taken along as held data outside the device (R47, R103). -/
def takeHeld (v : Nat) (info : Word) (p : WLine × WGroup) (s : State) : State :=
  let ws := p.1.writer.filter fun w => bitAt p.2.mask.toNat w.1
  let rest := s.modWline p.1 (·.discard p.2.mask)
  { rest with wl1 := rest.wl1 ++ [{ p.1 with
      cluster := v, valid := p.2.mask, writer := ws
      groups := [{ p.2 with held := some (p.2.held.getD info), told := p.2.told && p.2.held.isSome }] }] }

/-- The dirty bytes of a gang written back at its save up to the first that the recheck refuses, from which on they are held
(R44, R47, R103); those in error fall due as a MACHINE (R77). -/
def saveLines (c : CtxId) (v : Nat) : List (WLine × WGroup) → State → State
  | [], s => s
  | p :: ps, s =>
    match wlWriteBack p.1 p.2 s with
    | (s1, none) => saveLines c v ps s1
    | (s1, some t) =>
      if t.cause = 0x13 then
        saveLines c v ps (s1.updGang c fun g => { g with dueMachine := g.dueMachine ++ [{ t with tinfo := t.tinfo ||| 0x8000 }] })
      else (p :: ps).foldl (fun s p => takeHeld v t.tinfo p s) s1

/-- A gang at its save (R103). -/
def saveGang (c : CtxId) (v : Nat) (s : State) : State :=
  let s := settle c (fun _ => true) s
  saveLines c v (gangMine s c) s

/-- Scratchpad bytes moved from runs to one run at a key; what stood there goes. -/
def copyOut (runs : List (Nat × Nat × Nat)) (key n : Nat) (m : Tab Byte) : Tab Byte :=
  runs.foldl (fun acc r =>
    (m.filter fun x => r.1 ≤ x.1 && x.1 < r.1 + r.2.2).foldl (fun acc x => tput 0 acc (key + r.2.1 + (x.1 - r.1)) x.2) acc)
    (tclear key (key + n) m)

/-- Bytes moved from one run at a key back to runs; what stood there goes. -/
def copyIn (runs : List (Nat × Nat × Nat)) (key : Nat) (m : Tab Byte) : Tab Byte :=
  runs.foldl (fun acc r =>
    (m.filter fun x => key + r.2.1 ≤ x.1 && x.1 < key + r.2.1 + r.2.2).foldl
      (fun acc x => tput 0 acc (r.1 + (x.1 - (key + r.2.1))) x.2) (tclear r.1 (r.1 + r.2.2) acc)) m

/-- Where a saved team's scratchpad bytes are kept. -/
def savedKey (v tile : Nat) : Nat := v * 2 ^ 26 + tile * 2 ^ 20

/-- Operations in flight on a team's scratchpad bytes are performed before the bytes move. -/
def settleScratch (s : State) (runs : List (Nat × Nat × Nat)) : State :=
  (s.ops.filter fun o => o.kind.spans.any fun x => x.1 == .scratch && runs.any fun r =>
    x.2.1 < r.1 + r.2.2 && r.1 < x.2.1 + x.2.2).foldl (fun s o => performOp o s) s

/-- A team saved (R384): its contexts, bytes and channels go to the place v outside the device. -/
def saveTeam (v : Nat) (byCtxsave : Bool) (image : Option (Word × List Byte)) (t : Team) (s : State) : State :=
  let ths := (s.threads.filter fun x => x.team == t.id).map (·.id)
  let gs := (s.gangs.filter fun x => x.team == some t.id).map (·.id)
  let s1 := gs.foldl (fun s c => saveGang c v s) (ths.foldl (fun s c => saveThread c s) s)
  let runs := scratchRuns s1 t.part t.cluster t.tile t.scrBase t.scrSize
  let s2 := leaveRegions t (s.threads.filter fun x => x.team == t.id) (settleScratch s1 runs)
  let s3 := { s2 with scratch := copyOut runs (savedKey v t.tile) t.scrSize s2.scratch }
  let s4 := s3.rename fun c => if (ths ++ gs).contains c then { c with cluster := v } else c
  let squash := (s4.part? t.part).all fun p => p.drainlim == 0
  let s5 := s4.updTeam t.id fun x =>
    { x with state := .saved, cluster := v, scrBase := 0, regBase := 0, savedAt := s4.time
             chans := if squash then x.chans.map Channel.squash else x.chans }
  { s5 with
    saved := s5.saved ++ [⟨t.id, byCtxsave, image⟩]
    copyReqs := if squash then s5.copyReqs.filter fun r => r.1 != t.id else s5.copyReqs }

/-- A place outside the device for a group of teams that are saved together. -/
def State.newPlace (s : State) : Nat × State := (12 + s.nextId, { s with nextId := s.nextId + 1 })

/-- The errors that are due at the boundaries where a team's contexts stop are taken before its save (R385). -/
def takeDue (s : State) (t : Team) : State := (s.contextsOf t.id).foldl (fun s c => (deliverDue c s).getD s) s

/-- Teams saved as one group; image goes with the team i. A launch that a due error has ended has no team to save. -/
def saveAll (byCtxsave : Bool) (i : TeamId) (image : Option (Word × List Byte)) (ts : List Team) (s : State) : State :=
  let (v, s1) := (ts.foldl takeDue s).newPlace
  ts.foldl (fun s t => match s.team? t.id with
    | none => s
    | some t => if t.state = .running then saveTeam v byCtxsave (if t.id == i then image else none) t s else s) s1

/-! ## Restoring -/

/-- Whether the contexts of a saved team can take their places on a tile (log 30): the same cores and context numbers, free and
in the partition's quarters. -/
def State.contextsFree (s : State) (t : Team) (cl tile : Nat) : Bool :=
  (s.contextsOf t.id).all fun c =>
    (s.quarters t.part cl).contains c.quarter &&
      (s.thread? { c with cluster := cl, tile := tile }).isNone && (s.gang? { c with cluster := cl, tile := tile }).isNone

/-- Whether a saved team can be placed on a tile (R174, R314). -/
def State.restorable (s : State) (l : Launch) (t : Team) (cl tile : Nat) : Bool :=
  !(s.quarters l.part cl).isEmpty && !s.excluded cl tile && (s.teamOn l.uid cl tile).isNone && s.contextsFree t cl tile &&
    (l.gangs == 0 || s.poolFits l.part cl tile l.gangs l.hdr) && (s.scrRuns l.part cl tile l.hdr.scratch l.regBytes).isSome

/-- The tile for a saved team, in the order of its launch's placement class (R174). -/
def State.restoreTile (s : State) (l : Launch) (t : Team) : Option (Nat × Nat) :=
  let key := fun (p : Nat × Nat) => if l.hdr.place = 1 then s.tempOf p.1 p.2 else 64 * p.1 + hilbert p.2
  (((List.range 12).flatMap fun cl => (List.range 64).map fun t => (cl, t)).filter fun p => s.restorable l t p.1 p.2).foldl
    (fun b p => match b with
      | none => some p
      | some x => if key p < key x then some p else some x) none

/-- The rectangle for a saved co-resident launch (R177). -/
def State.restoreRectangle (s : State) (l : Launch) (ts : List Team) : Option (Nat × Nat) :=
  ((List.range 12).flatMap fun cl => (List.range 64).map fun o => (cl, o)).find? fun p =>
    p.2 / 8 + l.hdr.corows ≤ 8 && p.2 % 8 + l.hdr.cocols ≤ 8 &&
      ts.all fun t => s.restorable l t p.1 (l.tileAt p.2 t.id.team)

/-- A saved line comes back into the L1 of the tile on which its gang resumes; its bytes lie over those of a line there. -/
def restoreLine (cl tile : Nat) (l : WLine) (s : State) : State :=
  let rest := { s with wl1 := s.wl1.erase l }
  let back := { l with cluster := cl, tile := tile }
  if rest.wl1.any fun x => x.same back then
    rest.modWline back fun x =>
      { l.groups.foldl (fun x g => x.regroup g) x with
        data := (List.range 256).foldl (fun d i => if bitAt l.valid.toNat i then tput 0 d i (tget 0 l.data i) else d) x.data
        valid := x.valid ||| l.valid
        writer := l.writer ++ x.writer.filter fun w => !bitAt l.valid.toNat w.1 }
  else { rest with wl1 := rest.wl1 ++ [back] }

/-- Whether a context waits in the middle of a head that goes on when something else ends (R310, R302). -/
def Wait.midHead : Wait → Bool
  | .gcall => true
  | .accept => true
  | _ => false

/-- A thread resumes (R103, R242, R384): its line is entered again (R208, R209). -/
def Thread.resume (t : Thread) (cc : Nat) : Thread :=
  let mid := match t.state with | .parked w => w.midHead | _ => false
  { t with
    notBefore := 0, sleepLeft := none, line := if mid then t.line else none, reenter := mid
    state := match t.state with
      | .sleeping none => .sleeping (t.sleepLeft.map fun n => cc + n)
      | .parked .retry => .ready
      | x => x }

/-- A gang resumes (R384): its groups' lines are entered again (R208, R209). -/
def Gang.resume (g : Gang) : Gang :=
  let mid := match g.state with | .parked w => w.midHead | _ => false
  { g with
    line := if mid then g.line else none, reenter := mid, stack := g.stack.map fun x => { x with line := none }
    state := if g.state = .parked .retry then .ready else g.state }

/-- A team restored to RUNNING on a tile (R103, R119, R384). -/
def restoreTeam (l : Launch) (cl tile : Nat) (i : TeamId) (s : State) : State :=
  match s.team? i, s.scrRuns l.part cl tile l.hdr.scratch l.regBytes with
  | some t, some (sb, rb) =>
    let ids := s.contextsOf i
    let f := fun (c : CtxId) => if ids.contains c then { c with cluster := cl, tile := tile } else c
    let s1 := s.rename f
    let s2 := { s1 with
      scratch := tclear (savedKey t.cluster t.tile) (savedKey t.cluster t.tile + t.scrSize)
        (copyIn (scratchRuns s1 t.part cl tile sb t.scrSize) (savedKey t.cluster t.tile) s1.scratch) }
    let s3 := s2.updTeam i fun x =>
      { x with state := .running, cluster := cl, tile := tile, home := cl, scrBase := sb, regBase := rb }
    let s4 : State := { s3 with
      saved := s3.saved.filter fun (v : SavedTeam) => v.id != i
      threads := s3.threads.map fun (x : Thread) => if x.team == i then x.resume s.cc else x
      gangs := s3.gangs.map fun (g : Gang) => if g.team == some i then g.resume else g }
    let s5 := (s4.wl1.filter fun w => w.cluster == t.cluster && w.tile == t.tile).foldl
      (fun s w => restoreLine cl tile w s) s4
    let s6 := (ids.map f).foldl (fun s c => acquire c .dv s) s5
    let idle := fun (x : Thread) => decide (x.team = i ∧ x.state = .idleMsg) && !x.inbox.isEmpty
    let s7 := (s6.threads.filter idle).foldl (fun s x => nextMessage x.id s) s6
    teamCheck i ((List.range 16).foldl (fun s n => resumeChannel i n s) s7)
  | _, _ => s

/-- The operations that wait for a restoration end with a result (R314). -/
def endRestores (ts : List TeamId) (v : Word) (s : State) : State :=
  { s with ops := s.ops.map fun o =>
      match o.kind with
      | .restore i d => if ts.contains i then { o with kind := .fills [(d, v)] } else o
      | _ => o }

/-- CONTEXT_RESTORE (R177, R314, R384): a saved team is placed again when a tile is eligible, a co-resident launch as a whole;
one that `ctxsave` saved waits for its `ctxrest`. -/
def execContextRestore (i : TeamId) (s : State) : Res :=
  let asked := s.ops.any fun o => match o.kind with
    | .restore x _ => x == i
    | _ => false
  match s.team? i, s.launch? i.launch with
  | some t, some l =>
    if t.state ≠ .saved ∨ l.state = .ended then .next s
    else
      let ts := s.teams.filter fun x => x.state = .saved && (x.id == i || (l.coresident && x.id.launch == l.uid))
      let own := s.saved.any fun v => v.byCtxsave && ts.any fun x => x.id == v.id
      if (own && !asked) || (s.part? l.part).all (fun p => p.held || p.stopped) then .next s
      else
        if l.coresident then
          match s.restoreRectangle l ts with
          | none => .next s
          | some (cl, o) =>
            let s1 := ts.foldl (fun s t => restoreTeam l cl (l.tileAt o t.id.team) t.id s) s
            .next (endRestores (ts.map (·.id)) 0
              (s1.updLaunch l.uid fun l => { l with origin := some (cl, o) }))
        else
          match s.restoreTile l t with
          | none => .next s
          | some (cl, tile) => .next (endRestores [i] 0 (restoreTeam l cl tile i s))
  | _, _ => .next (if asked then endRestores [i] 2 s else s)

/-! ## `ctxsave` and `ctxrest` -/

/-- The accesses to an image's pages of 4 KiB. -/
def imagePagesAt (ag : Agent) (k : AccKind) : List Word → State → Chks
  | [], s => .ok s []
  | va :: vs, s =>
    if window va ≠ 0 then .trap s ⟨0x06, va, memInfo 0 k rBadWindow⟩
    else
      match checkPlain ag va 4096 4096 k true s with
      | .ok s1 a _ =>
        match imagePagesAt ag k vs s1 with
        | .ok s2 as => .ok s2 (a :: as)
        | r => r
      | .trap s1 t => .trap s1 t
      | .stall s1 xs => .stall s1 xs
      | .wait s1 => .wait s1

/-- The addresses of an image's pages. -/
def pageVas (va : Word) (n : Nat) : List Word := (List.range n).map fun i => va + w64 (4096 * i)

/-- The sealed image of the n-th save. -/
def imageBytes (n : Nat) : List Byte := (List.range (4096 * ((Config.imagePages n).toNat + 1))).map (Config.imageByte n)

/-- An image written page by page. -/
def writeImage : List Acc → List Byte → State → State
  | [], _, s => s
  | a :: as, bs, s => writeImage as (bs.drop 4096) (writeSpace a.space a.addr (bs.take 4096) s)

/-- A privileged instruction of a thread up to its operands (R223, R312): guard, PRIV, sources, its own check, a destination
with a fill pending. -/
def privT (h : Hd) (xd : Reg) (srcs : List Reg) (chk : List Word → Option TrapInfo) (s : State)
    (run : Thread → List Word → State → Res) : Res :=
  withCur s
    (fun t =>
      if !t.guard h then endT t.id s
      else if !t.priv then trapT t.id (privTrap t.pc t.line) false s
      else
        match t.readXs (srcs.map (·.toNat)) with
        | none => parkT t.id .retry s
        | some (vs, t1) =>
          match s.regErr t.id (srcs.map fun r => t.dst r.toNat) with
          | some e => trapT t.id (machineTrap e.st e.va) false s
          | none =>
            match chk vs with
            | some ti => trapT t.id ti false s
            | none =>
              if s.busy t.id [t.dst xd.toNat] || s.pushBlocked t [xd.toNat] then parkT t.id .retry s
              else run t vs (s.updThread t.id fun u => { u with recvq := t1.recvq }))
    fun g => notForGang g h (xd.toNat :: srcs.map (·.toNat)) (privTrap g.pc g.line) s

/-- A privileged instruction that waits after its operands were read (R11): it has read nothing yet. -/
def privPark (t : Thread) (s : State) : Res := parkT t.id .retry (s.updThread t.id fun u => { u with recvq := t.recvq })

/-- A privileged instruction that ends with its result in flight (R312). -/
def privResult (t : Thread) (xd : Reg) (k : Dst → OpKind) (s : State) : Res :=
  endT t.id ((s.markEmpty t.id (t.dst xd.toNat)).addOp t.id none (k (t.dst xd.toNat)))

/-- The team that a launch identifier and a team number name in a partition (R314). -/
def State.namedTeam (s : State) (part ident team : Nat) : Option Team :=
  (s.launches.find? fun l => l.part == part && l.ident == ident && l.state != .ended).bind fun l => s.team? ⟨l.uid, team⟩

/-- The address of an image (R314): 4 KiB aligned, in the global window. -/
def imageCheck (vs : List Word) : Option TrapInfo :=
  let va := vs.getD 1 0
  if window va ≠ 0 then some ⟨0x06, va, memInfo 0 .store rBadWindow⟩
  else if va.toNat % 4096 ≠ 0 then some ⟨0x05, va, memInfo 0 .store 0⟩
  else none

/-- `ctxsave` (R314): the team is stopped (R384), and the instruction waits while a gang of it cannot be saved yet. -/
def execCtxsave (h : Hd) (xd xa xb : Reg) (s : State) : Res :=
  privT h xd [xa, xb] imageCheck s fun t vs s =>
    let s := { s with preReqs := s.preReqs.filter fun r => r.team.all fun x => x.2 != t.id }
    let va := vs.getD 1 0
    let n := s.nextId
    let pages := (Config.imagePages n).toNat + 1
    match imagePagesAt t.agent .store (pageVas va pages) s with
    | .trap s1 ti => trapT t.id ti false s1
    | .stall s1 _ => privPark t s1
    | .wait s1 => privPark t s1
    | .ok s1 as =>
      match s1.namedTeam t.part (bits (vs.getD 0 0).toNat 31 16) (bits (vs.getD 0 0).toNat 15 0) with
      | none => privResult t xd (fun d => .fills [(d, 0)]) s1
      | some tm =>
        if tm.state ≠ .running then privResult t xd (fun d => .fills [(d, 0)]) s1
        else
          let ts := s1.saveGroup tm
          if !ts.all s1.savable then
            privPark t { s1.askSaves ts with preReqs := s1.preReqs ++ [⟨t.part, [], none, some (tm.id, t.id), true⟩] }
          else
            match privResult t xd (fun d => .fills [(d, w64 (4096 * pages))]) s1 with
            | .next s2 => .next (saveAll true tm.id (some (va, imageBytes n)) ts (writeImage as (imageBytes n) s2))
            | r => r

/-- The saved image that an address holds (R314): the one written there, or an equal copy of another. -/
def State.imageAt (s : State) (part : Nat) (read : Nat → Option (List Byte)) (va : Word) : Option SavedTeam :=
  let ok := fun (v : SavedTeam) => (s.launch? v.id.launch).any (fun l => l.part == part) && (match v.image with
    | none => false
    | some (_, bs) => read bs.length == some bs)
  match s.saved.find? fun v => ok v && (match v.image with | some (a, _) => a == va | none => false) with
  | some v => some v
  | none => s.saved.find? ok

/-- The bytes that a thread reads from an image's pages; a page that cannot be read gives none (log 88: the pages after the first
are translated in the same step). -/
def readImage (ag : Agent) (va : Word) (s : State) (n : Nat) : Option (List Byte) :=
  ((pageVas va (n / 4096)).mapM fun p => (walkNow ag p .load s).2.toOption).map fun as =>
    as.flatMap fun a => readSpace s a.space a.addr 4096

/-- `ctxrest` (R314): an acquire at .dv of the saved team comes with its restoration; a seal that fails gives 1, a launch that
has ended 2. -/
def execCtxrest (h : Hd) (xd xa : Reg) (s : State) : Res :=
  privT h xd [xa] (fun _ => none) s fun t vs s =>
    let va := vs.getD 0 0
    match imagePagesAt t.agent .load [w64 (va.toNat / 4096 * 4096)] s with
    | .trap s1 ti => trapT t.id { ti with tval := va } false s1
    | .stall s1 _ => privPark t s1
    | .wait s1 => privPark t s1
    | .ok s1 _ =>
      match s1.imageAt t.part (readImage t.agent va s1) va with
      | none => privResult t xd (fun d => .fills [(d, 1)]) s1
      | some v =>
        if (s1.launch? v.id.launch).all (fun l => l.state == .ended) then privResult t xd (fun d => .fills [(d, 2)]) s1
        else privResult t xd (fun d => .restore v.id d) s1

/-! ## Pre-emption by the firmware -/

/-- The reason codes of PREEMPT (R386). -/
def PreReason.code (r : PreReason) : Nat :=
  match r with
  | .sliceEnd => 1
  | .higherPriority => 2
  | .migration => 3
  | .tenantSwitch => 4

/-- Whether a co-resident placement of a partition is in progress (R177). -/
def State.placingRect (s : State) (part : Nat) : Bool :=
  s.launches.any fun l => l.part == part && l.state == .placing && l.coresident

/-- Teams saved group by group: a team that went with an earlier one is not saved again. -/
def saveGroups : List TeamId → State → State
  | [], s => s
  | i :: is, s =>
    match s.team? i with
    | none => saveGroups is s
    | some t => saveGroups is (if t.state = .running then saveAll false i none (s.saveGroup t) s else s)

/-- A pre-emption begins: PREEMPT is raised in the system contexts of its tiles (R386). One for a launch of higher priority
waits until a co-resident placement has completed or rolled back (R177). -/
def PreReq.begin (s : State) (r : PreReq) : State × PreReq :=
  match r.why with
  | none => (s, r)
  | some why =>
    if r.raised || (why = .higherPriority && s.placingRect r.part) then (s, r)
    else
      ({ s with preempt := s.preempt ++ r.tiles.map fun p => (p.1, p.2, ⟨0x15, w64 r.part, w64 (PreReason.code why)⟩) },
        { r with raised := true })

/-- A pre-emption carried on: it begins, and once every gang that it stops can be saved, the teams are saved and it is over
(R384). -/
def carryOn (r : PreReq) (s : State) : State :=
  let (s1, r1) := r.begin s
  let s2 := { s1 with preReqs := s1.preReqs.map fun x => if x = r then r1 else x }
  if r1.raised && (r1.teams s2).all s2.savable then
    let s3 := saveGroups ((r1.teams s2).map (·.id)) s2
    { s3 with preReqs := s3.preReqs.filter fun x => x != r1 }
  else if r1.raised then s2.askSaves (r1.teams s2)
  else s2

/-- A partition's work on a set of tiles is pre-empted: the request is put down once, and carried on (R384, R386). -/
def preempt (part : Nat) (tiles : List (Nat × Nat)) (why : PreReason) (s : State) : State :=
  match s.preReqs.find? fun r => r.part == part && r.tiles == tiles && r.why == some why with
  | some r => carryOn r s
  | none =>
    let r : PreReq := ⟨part, tiles, some why, none, false⟩
    carryOn r { s with preReqs := s.preReqs ++ [r] }

/-- PARTITION_PREEMPT (R384, R386). -/
def execPartitionPreempt (part : Nat) (tiles : List (Nat × Nat)) (why : PreReason) (s : State) : Res :=
  .next (preempt part tiles why s)

/-- The tiles of a partition. -/
def Partition.tiles (p : Partition) : List (Nat × Nat) :=
  ((p.cfg.pairs.map (·.1)).eraseDups).flatMap fun c => (List.range 64).map fun t => (c, t)

/-- TIME_SLICE_EXPIRY (R387): the partition has used its slice, and its work on its tiles is pre-empted; its next slice is
whole. -/
def execTimeSliceExpiry (part : Nat) (s : State) : Res :=
  match s.part? part with
  | none => .next s
  | some p =>
    if p.slice = 0 ∨ 0 < p.sliceLeft then .next s
    else .next (preempt part p.tiles .sliceEnd (s.updPart part fun q => { q with sliceLeft := q.slice }))

end Sys2Proof.Machine
end

