-- ==== Sys2Proof/Machine/Privileged.lean ====
section
/-! DEFINITION. The privileged instructions of R312 beside `ctxsave` and `ctxrest`: `tlbinv` (R39, R40), `scrub` (R313), `ipi`
(R315), `fgraph` with its walk (R127 to R138, R316). -/

namespace Sys2Proof.Machine

/-! ## `tlbinv` -/

/-- `tlbinv` (R39): a release at .dv, then the invalidation is on its way. -/
def tlbinvInstr (h : Hd) (xd : Reg) (srcs : List Reg) (sel : List Word → TlbSel) (s : State) : Res :=
  privT h xd srcs (fun _ => none) s fun t vs s =>
    if xd ≠ 0 ∧ !(t.getX xd.toNat).full then privPark t s
    else
      match releaseThread t.id .dv s with
      | .refused s1 ti => trapT t.id ti false s1
      | .wait s1 => privPark t s1
      | .ok s1 => privResult t xd (fun d => .tlbinv (sel vs) d) s1

/-- `tlbinv.pg` (R39). -/
def execTlbinvPg (h : Hd) (xd xa : Reg) (asid : BitVec 8) (s : State) : Res :=
  tlbinvInstr h xd [xa] (fun vs => .page asid.toNat (vs.getD 0 0)) s

/-- `tlbinv.as` (R39). -/
def execTlbinvAs (h : Hd) (xd : Reg) (asid : BitVec 8) (s : State) : Res :=
  tlbinvInstr h xd [] (fun _ => .asid asid.toNat) s

/-- `tlbinv.all` (R39). -/
def execTlbinvAll (h : Hd) (xd : Reg) (s : State) : Res := tlbinvInstr h xd [] (fun _ => .all) s

/-- Whether an invalidation removes a TLB entry of its partition (R39). -/
def TlbSel.removes (x : TlbSel) (e : TlbEntry) : Bool :=
  match x with
  | .all => true
  | .asid a => e.asid == a
  | .page a va => e.asid == a && e.vpage == vpageOf e.big va.toNat

/-- Whether an access may have been made under a translation that an invalidation matches; the leaf's size is not kept with
an access, so the larger one counts (log 40). -/
def TlbSel.matches (x : TlbSel) (ptbase va : Word) : Bool :=
  match x with
  | .all => true
  | .asid a => bits ptbase.toNat 63 56 == a
  | .page a p => bits ptbase.toNat 63 56 == a && window va == 0 && vpageOf true va.toNat == vpageOf true p.toNat

/-- The virtual addresses of an operation's atomics and reductions in flight. -/
def OpKind.atomicVas : OpKind → List Word
  | .atomic es => es.map (·.acc.va)
  | .red es => es.map (·.acc.va)
  | .vrdm e _ => [e.acc.va]
  | _ => []

/-- Whether an atomic, reduction or copy burst of a partition under a matching translation has not completed (R40). -/
def State.matchingInFlight (s : State) (part : Nat) (x : TlbSel) : Bool :=
  (s.ops.any fun o => o.part == part && o.kind.atomicVas.any fun va => x.matches o.ptbase va) ||
  s.teams.any fun t => t.part == part && t.chans.toList.any fun c =>
    c.state == .active && (c.sent.any fun k => !c.moved.contains k && !c.landed k) &&
      (c.tdst ++ c.tsrc).any fun a => x.matches c.ptbase a.va

/-- The walks of a partition in progress when an invalidation reaches them end (R38, R40): one whose result matches is discarded, and
begins again while a requester waits for it. -/
def endWalks (part : Nat) (x : TlbSel) (s : State) : State :=
  (s.missq.filter fun m => m.part == part).foldl (fun s m =>
    match m.state with
    | .walking l =>
      if x.matches m.ptbase m.va then
        { s with missq := (s.missq.map fun y => if y = m then { y with state := .queued } else y).filter fun y =>
            !(y == { m with state := .queued } && m.waiters.isEmpty) }
      else endWalk m l s
    | _ => s) s

/-- TLBINV_ACK (R33, R39, R40): the walks in progress have ended, the matching entries of every TLB of the partition are gone,
nothing under a matching translation is in flight, and xd is filled with 0. -/
def execTlbinvAck (op : Nat) (s : State) : Res :=
  match s.op? op with
  | none => .next s
  | some o =>
    match o.kind with
    | .tlbinv x d =>
      let part := o.part
      if s.matchingInFlight part x then .next s
      else
        let s1 := (endWalks part x s).dropTlb fun e => e.part == part && x.removes e
        .next ((s1.fill o.owner d 0).dropOp op)
    | _ => .next s

/-! ## `scrub` -/

/-- The physical scratchpad and pinned bytes of a partition in a cluster, cleared. -/
def scrubScratch (part cl : Nat) (tiles : List Nat) (s : State) : State :=
  { s with scratch := tiles.foldl (fun m t => (s.quarters part cl).foldl (fun m q =>
      tclear (cl * 2 ^ 26 + t * 2 ^ 20 + q * 2 ^ 18) (cl * 2 ^ 26 + t * 2 ^ 20 + (q + 1) * 2 ^ 18) m) m) s.scratch }

def scrubPinned (part cl : Nat) (s : State) : State :=
  match s.part? part with
  | none => s
  | some p =>
    { s with pinned := (List.range (p.pinned cl * (p.quarters cl).length)).foldl (fun m i =>
        tclear (cl * 2 ^ 25 + pinnedWay p cl i * 2 ^ 21) (cl * 2 ^ 25 + (pinnedWay p cl i + 1) * 2 ^ 21) m) s.pinned }

/-- Registers, predicates and flags zero and full (R313, class 0). -/
def Thread.scrubbed (t : Thread) : Thread :=
  { t with
    x := Vector.replicate 32 XReg.zero, outer := t.outer.map fun _ => Vector.replicate 16 XReg.zero
    preds := 0, shadow := 0, flags := Vector.replicate 12 0 }

def Gang.scrubbed (g : Gang) : Gang :=
  { g with v := [], empty := [], s := Vector.replicate 32 0, preds := Vector.replicate 16 0, flags := Vector.replicate 12 0 }

/-- The resource classes cleared on named tiles of a cluster (R313). -/
def scrubClasses (part cl : Nat) (tiles : List Nat) (classes : Nat) (s : State) : State :=
  let here := fun (c : CtxId) => c.cluster == cl && tiles.contains c.tile
  let alone := !s.teams.any fun t => t.part == part && t.cluster == cl && t.state != .ended
  let tile := fun (b : Nat) (f : State → State) (s : State) => if bitAt classes b = true then f s else s
  let wide := fun (b : Nat) (f : State → State) (s : State) => if (bitAt classes b && alone) = true then f s else s
  s
  |> tile 0 (fun s => { s with
      threads := s.threads.map fun t => if t.part == part && here t.id then t.scrubbed else t
      gangs := s.gangs.map fun g => if g.part == part && here g.id then g.scrubbed else g })
  |> tile 1 (scrubScratch part cl tiles)
  |> tile 2 (fun s => { s with gangs := s.gangs.map fun g => if g.part == part && here g.id then { g with acc := [] } else g })
  |> wide 3 (fun s => s.dropTlb fun e => e.part == part && e.cluster == cl)
  |> wide 4 (fun s => { s with
      keys := s.keys.filter fun k => !(k.part == part && k.cluster == cl)
      keyQueue := s.keyQueue.filter fun k => !(k.part == part && k.cluster == cl)
      launchRecs := s.launchRecs.filter fun k => !(k.part == part && k.cluster == cl) })
  |> wide 5 (fun s => s.updPart part fun p =>
      { p with counts := p.counts.filter fun c => !(c.pt.inst == .cluster part cl)
               announced := p.announced.filter fun a => !(a.inst == .cluster part cl)
               opened := p.opened.filter fun i => !(i == .cluster part cl) })
  |> tile 6 (fun s => { s with teams := s.teams.map fun t =>
      if t.part == part && t.cluster == cl && tiles.contains t.tile then { t with chans := Vector.replicate 16 Channel.idle }
      else t })
  |> tile 7 (fun s => { s with threads := s.threads.map fun t =>
      if t.part == part && here t.id then { t with monitors := [] } else t })
  |> wide 9 (scrubPinned part cl)

/-- `scrub` (R313): BUSY when a named tile holds a RUNNING, DRAINING or SAVED team of the partition. Class 8 is no state of
the model. -/
def execScrub (h : Hd) (xd xa : Reg) (classes : BitVec 10) (s : State) : Res :=
  privT h xd [xa] (fun _ => none) s fun t vs s =>
    let tiles := (List.range 64).filter fun i => bitAt (vs.getD 0 0).toNat i
    let cl := t.id.cluster
    let busy := s.teams.any fun x => x.part == t.part && x.home == cl && tiles.contains x.tile &&
      (x.state == .running || x.state == .draining || x.state == .saved)
    if busy then
      privResult t xd (fun d => .fills [(d, 1)]) s
    else privResult t xd (fun d => .fills [(d, 0)]) (scrubClasses t.part cl tiles classes.toNat s)

/-! ## `ipi` -/

/-- `ipi` (R242, R315): a sleeping thread is woken; any other keeps the signal as its pending bit. -/
def execIpi (h : Hd) (xd xa : Reg) (s : State) : Res :=
  privT h xd [xa] (fun _ => none) s fun t vs s =>
    let w := vs.getD 0 0
    match s.threads.find? fun u => u.id.onDevice && u.id.word == w && u.part == t.part with
    | none => privResult t xd (fun d => .fills [(d, 1)]) s
    | some u =>
      privResult t xd (fun d => .fills [(d, 0)]) (s.updThread u.id fun u =>
        match u.state with
        | .sleeping _ => { u with state := .ready }
        | _ => { u with ipiPending := true })

/-! ## Graph descriptors -/

/-- The 8-byte words of a byte string. -/
def words8 (bs : List Byte) (off n : Nat) : List Nat :=
  (List.range n).map fun i => leNat ((bs.drop (off + 8 * i)).take 8)

/-- A location entry (R128), or MALFORMED. -/
def locOf (w : Nat) : Option Loc :=
  let cls := bits w 21 18
  if bits w 63 22 ≠ 0 ∨ cls = 15 then none
  else some { cls := cls, level := bits w 17 16, depth := bits w 15 14, port := bits w 13 10, node := bits w 9 0,
              deleted := false, eff := bits w 17 16 }

/-- Location entries appended to those present, unless a node and port are already live (R128). -/
def addLocs : List Loc → List Nat → Option (List Loc)
  | ls, [] => some ls
  | ls, w :: ws =>
    match locOf w with
    | none => none
    | some l => if ls.any fun x => !x.deleted && x.node == l.node && x.port == l.port then none else addLocs (ls ++ [l]) ws

/-- An edge entry (R129) between locations that are present and not deleted, or MALFORMED. -/
def edgeOf (ls : List Loc) (w : Nat) : Option Edge :=
  let e : Edge := { lvl := bits w 23 22, action := bits w 21 20, dst := bits w 19 10, src := bits w 9 0, dead := false }
  let gone := fun (i : Nat) => (ls[i]?).elim true (·.deleted)
  if bits w 63 24 ≠ 0 ∨ (e.action ≠ 1 ∧ e.lvl ≠ 0) ∨ gone e.src ∨ gone e.dst then none else some e

/-- The demands of R130. -/
def Edge.depthOk (ls : List Loc) (e : Edge) : Bool :=
  let ds := (ls[e.src]?).elim 0 (·.depth)
  let dd := (ls[e.dst]?).elim 0 (·.depth)
  match e.action with
  | 0 => dd == ds
  | 1 => dd == ds && e.lvl ≤ ds
  | 2 => dd == ds + 1
  | _ => 1 ≤ ds && dd + 1 == ds

/-- One pass of widening the levels over live edges (R131). -/
def widen (es : List Edge) (lv : List Nat) : List Nat :=
  es.foldl (fun l e => let m := max (l.getD e.src 0) (l.getD e.dst 0); (l.set e.src m).set e.dst m) lv

/-- Passes until nothing changes. -/
def widenAll (es : List Edge) : Nat → List Nat → List Nat
  | 0, lv => lv
  | n + 1, lv => if widen es lv = lv then lv else widenAll es n (widen es lv)

/-- The effective level of every location (R131). -/
def setLevels (g : Graph) : Graph :=
  let lv := widenAll (g.edges.filter fun e => !e.dead) g.locs.length (g.locs.map (·.level))
  { g with locs := (List.range g.locs.length).filterMap fun i => (g.locs[i]?).map fun l => { l with eff := lv.getD i 0 } }

/-- A descriptor added to a graph, before the walk (R127 to R130, R136): MALFORMED, CAPACITY, then DEPTH. -/
def parseGraph (g : Graph) (bs : List Byte) : Except Nat Graph :=
  let u := fun (off n : Nat) => leNat ((bs.drop off).take n)
  let nl := u 8 2
  let ne := u 12 2
  if u 0 4 ≠ 0x4850_4746 ∨ u 4 2 ≠ 1 ∨ u 6 2 ≠ 0 ∨ u 10 2 ≠ 0 ∨ u 14 18 ≠ 0 ∨ 1024 < nl ∨ 4096 < ne then .error 2
  else
    match addLocs g.locs (words8 bs 32 nl) with
    | none => .error 2
    | some ls =>
      match (words8 bs (32 + 8 * nl) ne).mapM (edgeOf ls) with
      | none => .error 2
      | some es =>
        if 1024 < ls.length ∨ 4096 < g.edges.length + ne then .error 7
        else if !es.all (Edge.depthOk ls) then .error 3
        else .ok { g with locs := ls, edges := g.edges ++ es }

/-- A graph with its levels and its closure table, or the status of the walk (R131, R135). -/
def walked (g : Graph) : Except Nat Graph :=
  match g.close with
  | .error n => .error n
  | .ok t => .ok (setLevels { g with table := t })

/-- Whether a table entry lies between locations that were installed before. -/
def TabEntry.within (n : Nat) (e : TabEntry) : Bool := e.a < n && e.b < n

/-- Whether an extension gives or takes a table entry between installed locations (R136). -/
def changedPairs (old new : Graph) : Bool :=
  let n := old.locs.length
  let a := old.table.filter (TabEntry.within n)
  let b := new.table.filter (TabEntry.within n)
  !(a.all b.contains && b.all a.contains)

/-- An empty graph. -/
def Graph.empty : Graph := ⟨[], [], []⟩

/-- What INSTALL and EXTEND of a descriptor come to, as far as the installed graph alone decides (R136). -/
def graphPlan (op : Nat) (old : Graph) (bs : List Byte) : Nat × Option Graph :=
  match parseGraph (if op = 0 then Graph.empty else old) bs with
  | .error n => (n, none)
  | .ok g =>
    match walked g with
    | .error n => (n, none)
    | .ok g1 => if op = 1 && changedPairs old g1 then (6, none) else (0, some g1)

/-- The bytes behind virtual addresses, page by page (R316). -/
def readPages (s : State) : List Acc → Nat → Except TrapInfo (List Byte)
  | [], _ => .ok []
  | a :: as, n =>
    let k := min n (65536 - a.va.toNat % 65536)
    match s.errAt .mem a.addr k with
    | some m =>
      .error (machineTrap m.st (if m.key * 32 ≤ a.addr then a.va else a.va + w64 (m.key * 32 - a.addr)))
    | none =>
      match readPages s as (n - k) with
      | .error t => .error t
      | .ok bs => .ok (readSpace s a.space a.addr k ++ bs)

/-- Pages translated in their order by the hardware of a queue, which walks at once (log 88). -/
def pagesNow (ag : Agent) (k : AccKind) : List Word → State → State × Except TrapInfo (List Acc)
  | [], s => (s, .ok [])
  | va :: vas, s =>
    match walkNow ag va k s with
    | (s1, .error t) => (s1, .error t)
    | (s1, .ok a) =>
      match pagesNow ag k vas s1 with
      | (s2, .ok as) => (s2, .ok (a :: as))
      | r => r

/-- Bytes read from global memory: the bytes, a trap, or a wait for a walk (R35). -/
inductive BytesRes where
  | ok (s : State) (bs : List Byte)
  | trap (s : State) (t : TrapInfo)
  | wait (s : State)

/-- The bytes behind translated pages. -/
def BytesRes.ofPages (n : Nat) : PagesRes → BytesRes
  | .trap s t => .trap s t
  | .wait s => .wait s
  | .ok s as => match readPages s (as.map (·.2)) n with
    | .error t => .trap s t
    | .ok bs => .ok s bs

/-- n bytes read from global memory by an agent, with their faults (R316); now: by the hardware of a queue. -/
def readVa (now : Bool) (ag : Agent) (va : Word) (n : Nat) (s : State) : BytesRes :=
  if now then
    match pagesNow ag .load (pagesOf va n) s with
    | (s1, .error t) => .trap s1 t
    | (s1, .ok as) => BytesRes.ofPages n (.ok s1 (as.map fun a => (.load, a)))
  else BytesRes.ofPages n (translatePages ag ((pagesOf va n).map fun p => (.load, p)) s)

/-- A graph descriptor read from global memory: the header, then what it announces (R127, R316). -/
def readDescriptor (now : Bool) (ag : Agent) (va : Word) (s : State) : BytesRes :=
  if window va ≠ 0 then .trap s ⟨0x06, va, memInfo 0 .load rBadWindow⟩
  else
    match readVa now ag va 32 s with
    | .ok s1 hd =>
      match readVa now ag (va + 32) (8 * (leNat ((hd.drop 8).take 2) + leNat ((hd.drop 12).take 2))) s1 with
      | .ok s2 rest => .ok s2 (hd ++ rest)
      | r => r
    | r => r

/-! ## `fgraph` -/

/-- A walk put in progress for a partition. -/
def startWalk (part op node : Nat) (bs : List Byte) (client : WalkFor) (s : State) : State :=
  s.updPart part fun p =>
    let (st, g) := if op = 2 then (0, none) else graphPlan op p.graph bs
    { p with walk := some { op := op, node := node, result := g, status := st, client := client, remote := none } }

/-- `fgraph` (R316): one runs per partition at a time. -/
def fgraphInstr (h : Hd) (xd : Reg) (srcs : List Reg) (op node : Nat) (s : State) : Res :=
  privT h xd srcs (fun vs =>
    let va := vs.getD 0 0
    if va.toNat % 8 ≠ 0 then some ⟨0x05, va, memInfo 0 .load 0⟩ else none) s fun t vs s =>
    if (s.part? t.part).elim false (·.walk.isSome) then privPark t s
    else
      match releaseThread t.id .dv s with
      | .refused s1 ti => trapT t.id ti false s1
      | .wait s1 => privPark t s1
      | .ok s1 =>
        let go := fun (bs : List Byte) (s : State) =>
          privResult t xd (fun d => .graph d) (startWalk t.part op node bs (.instr s.nextId) s)
        if op = 2 then go [] s1
        else
          match readDescriptor false t.agent (vs.getD 0 0) s1 with
          | .trap s2 ti => trapT t.id ti false s2
          | .wait s2 => privPark t s2
          | .ok s2 bs => go bs s2

/-- `fgraph.ins` (R136, R316). -/
def execFgraphIns (h : Hd) (xd xa : Reg) (s : State) : Res := fgraphInstr h xd [xa] 0 0 s

/-- `fgraph.ext` (R136, R316). -/
def execFgraphExt (h : Hd) (xd xa : Reg) (s : State) : Res := fgraphInstr h xd [xa] 1 0 s

/-- `fgraph.del` (R138, R316). -/
def execFgraphDel (h : Hd) (xd : Reg) (n : BitVec 10) (s : State) : Res := fgraphInstr h xd [] 2 n.toNat s

/-! ## The end of a walk -/

/-- The capabilities of a partition's contexts and the folios of its copies, as count points (R136). -/
def State.heldPoints (s : State) (part : Nat) : List CountPt :=
  let cap := fun (k : Cap) => k.pt :: (k.moving.map fun f => { k.pt with folio := f }).toList
  ((s.threads.filter fun t => t.part == part).flatMap fun t => t.caps.flatMap cap) ++
  ((s.gangs.filter fun g => g.part == part).flatMap fun g => g.caps.flatMap fun k => cap k.2) ++
  ((s.teams.filter fun t => t.part == part).flatMap fun t => t.chans.toList.filterMap (·.pt))

/-- Whether a change of a partition has not been applied, or not been acknowledged by the aggregating device (R138). -/
def State.changesUnderWay (s : State) (part : Nat) : Bool :=
  s.underWay.any fun c => s.instPart c.pt.inst == part

/-- A graph with a node deleted: its locations deleted, their edges dead (R138). -/
def Graph.without (g : Graph) (node : Nat) : Graph :=
  let locs := g.locs.map fun l => if l.node = node then { l with deleted := true } else l
  let gone := fun (i : Nat) => (locs[i]?).elim false (·.deleted)
  { g with locs := locs, edges := g.edges.map fun e => if gone e.src || gone e.dst then { e with dead := true } else e }

/-- What DELETE comes to (R136, R138). -/
def deletePlan (s : State) (p : Partition) (node : Nat) : Nat × Option Graph :=
  let at_ := fun (pt : CountPt) => (p.graph.locs[pt.loc]?).elim false fun l => l.node == node && !l.deleted
  let live := p.graph.locs.any fun l => l.node == node && !l.deleted
  if !live then (8, none)
  else if (p.counts.any fun c => at_ c.pt && c.n != 0) || (s.heldPoints p.cfg.num).any at_ then (1, none)
  else
    match walked (p.graph.without node) with
    | .error n => (n, none)
    | .ok g => (0, some g)

/-- Whether the counts that DELETE and INSTALL ask about stand at another device too (R136, R138): the SYSTEM locations whose
counts that device holds; none where it need not be asked. -/
def remoteLocs (s : State) (p : Partition) (w : Walk) : List Nat :=
  if s.aggregator = s.jobDevice then []
  else
    (List.range p.graph.locs.length).filter fun i => (p.graph.locs[i]?).any fun l =>
      l.eff == 3 && !l.deleted && (if w.op = 2 then l.node == w.node else w.op == 0 && w.status == 0)

/-- The status with which a walk ends and the graph that it installs (R136, R138). A count that the aggregating device holds
makes it BUSY as one of this device does. -/
def walkEnd (s : State) (p : Partition) (w : Walk) : Nat × Option Graph :=
  let away := w.remote == some (some true)
  if w.op = 2 then
    let r := deletePlan s p w.node
    if away && r.1 != 8 then (1, none) else r
  else if w.op = 0 && w.status == 0 &&
      (away || (p.counts.any fun c => c.n != 0) || !(s.heldPoints p.cfg.num).isEmpty) then (1, none)
  else (w.status, w.result)

/-! ### Counts whose counting level changes (R131) -/

/-- A capability or a message whose count lies at a point chosen anew. -/
def Cap.onPt (f : CountPt → CountPt) (k : Cap) : Cap := { k with pt := f k.pt }
def Msg.onPt (f : CountPt → CountPt) (m : Msg) : Msg := { m with pt := m.pt.map f }

/-- The cluster and the team in which a message on its way is counted: its receiver's, or its sender's cluster. -/
def State.msgHome (s : State) (m : Msg) : Nat × Option TeamId :=
  match s.receiver m with
  | some (t, _) => (t.home, some t.id)
  | none => ((CtxId.ofWord m.sender).cluster, m.launch.map fun u => ⟨u, m.team⟩)

/-- Every work item of a partition that holds counts, with its cluster and its team, given a point chosen anew. -/
def State.mapHolders (s : State) (part : Nat) (f : Nat → Option TeamId → CountPt → CountPt) : State :=
  let home := fun (c : CtxId) (t : TeamId) => (s.team? t).elim c.cluster (·.home)
  { s with
    threads := s.threads.map fun t =>
      if t.part ≠ part then t
      else
        let h := f (home t.id t.team) (some t.team)
        { t with msg := t.msg.map (Msg.onPt h), inbox := t.inbox.map (Msg.onPt h), spillbox := t.spillbox.map (Msg.onPt h)
                 caps := t.caps.map (Cap.onPt h) }
    gangs := s.gangs.map fun g =>
      if g.part ≠ part then g
      else { g with caps := g.caps.map fun k => (k.1, k.2.onPt (f (g.team.elim g.id.cluster (home g.id)) g.team)) }
    teams := s.teams.map fun t =>
      if t.part ≠ part then t else { t with chans := t.chans.map fun c => { c with pt := c.pt.map (f t.home (some t.id)) } }
    msgs := s.msgs.map fun m => if m.part ≠ part then m else m.onPt (f (s.msgHome m).1 (s.msgHome m).2) }

/-- The cluster, the team and the count point of every work item of a partition that holds a count. -/
def State.holders (s : State) (part : Nat) : List (Nat × Option TeamId × CountPt) :=
  let home := fun (c : CtxId) (t : TeamId) => (s.team? t).elim c.cluster (·.home)
  let cap := fun (k : Cap) => k.pt :: (k.moving.map fun f => { k.pt with folio := f }).toList
  ((s.threads.filter fun t => t.part == part).flatMap fun t =>
    ((t.msg.toList ++ t.inbox ++ t.spillbox).filterMap (·.pt) ++ t.caps.flatMap cap).map fun p => (home t.id t.team, some t.team, p)) ++
  ((s.gangs.filter fun g => g.part == part).flatMap fun g =>
    (g.caps.flatMap fun k => cap k.2).map fun p => (g.team.elim g.id.cluster (home g.id), g.team, p)) ++
  ((s.teams.filter fun t => t.part == part).flatMap fun t => (t.chans.toList.filterMap (·.pt)).map fun p => (t.home, some t.id, p)) ++
  (s.msgs.filter fun m => m.part == part).filterMap fun m => m.pt.map fun p => ((s.msgHome m).1, (s.msgHome m).2, p)

/-- One unit of count at a point added or taken away where the point is counted. -/
def moveCount (part : Nat) (pt : CountPt) (d : Int) (s : State) : State :=
  if pt.inst = .system part ∧ s.aggregator ≠ s.jobDevice then { s with devOut := s.devOut ++ [⟨pt, d, []⟩] }
  else s.updPart part fun p => { p with counts := addCount pt d p.counts, opened := openInst pt.inst p.opened }

/-- A new graph counts some locations at other levels (R131): each work item's count moves to its instance at the new level, and
the frontiers there are announced anew. -/
def relocate (part : Nat) (old new : Graph) (s : State) : State :=
  let changed := (List.range old.locs.length).filter fun i => old.level i != new.level i
  if changed.isEmpty then s
  else
    let f := fun (cl : Nat) (t : Option TeamId) (pt : CountPt) =>
      if changed.contains pt.loc && (new.level pt.loc != 0 || t.isSome) then { pt with inst := instAt (new.level pt.loc) part cl t } else pt
    let moves := (s.holders part).filterMap fun h => if f h.1 h.2.1 h.2.2 = h.2.2 then none else some (h.2.2, f h.1 h.2.1 h.2.2)
    let s1 := moves.foldl (fun s m => moveCount part m.2 1 (moveCount part m.1 (-1) s)) (s.mapHolders part f)
    s1.updPart part fun p =>
      s1.tellNew { p with announced := p.announced.filter fun a => !changed.contains a.loc } (moves.map (·.2))

/-- The partition once a walk has ended (R136, R143): INSTALL leaves no count, no opened instance and nothing announced. -/
def Partition.afterWalk (p : Partition) (op : Nat) (g : Graph) : Partition :=
  let q := { p with graph := g, walk := none }
  if op = 0 then { q with counts := [], opened := [], announced := [] } else q

/-- The result of an `fgraph` or of a graph install packet: the status and the number of table entries (R136). -/
def walkWord (status : Nat) (g : Graph) : Word := w64 (status + g.table.length % 2 ^ 16 * 2 ^ 16)

/-- CLOSURE_WALK_END (R135 to R138): the result takes the place of the installed graph, or leaves it, and the client has its
answer. DELETE waits for the changes under way; the aggregating device is asked about the counts that it holds (log 92). -/
def execClosureWalkEnd (part : Nat) (s : State) : Res :=
  match s.part? part with
  | none => .next s
  | some p =>
    match p.walk with
    | none => .next s
    | some w =>
      let live := p.graph.locs.any fun l => l.node == w.node && !l.deleted
      let away := remoteLocs s p w
      if w.op = 2 && live && s.changesUnderWay part then .next s
      else if !away.isEmpty && w.remote == none then
        .next { s.updPart part fun p => { p with walk := some { w with remote := some none } } with
          out := s.out ++ [.countQuery s.aggregator part away] }
      else if !away.isEmpty && w.remote == some none then .next s
      else
        let (st, g) := walkEnd s p w
        let q := match g with
          | none => { p with walk := none }
          | some g => p.afterWalk w.op g
        let s1 := s.updPart part fun _ => q
        let s1 := if w.op = 0 then s1 else relocate part p.graph q.graph s1
        let v := walkWord st q.graph
        .next (match w.client with
          | .instr op =>
            match s1.op? op with
            | some o => (match o.kind with
              | .graph d => (s1.fill o.owner d v).dropOp op
              | _ => s1)
            | none => s1
          | .packet q i => { s1 with pkts := s1.pkts.map fun k =>
              if k.queue = q ∧ k.index = i ∧ k.done = none then { k with done := some ⟨0, 0, v⟩ } else k })

end Sys2Proof.Machine
end

