-- ==== Sys2Proof/Machine/Coherence.lean ====
section
/-! DEFINITION. The steps of the memory system: translation walks and write-backs, the directory protocol within a cluster (R61
to R66), the region directory across clusters (R67 to R69), host accesses through CXL.mem (R31, R395, R396), and the units
that perform atomics and stores (R71, R91). The protocol moves no values: a byte has one place here (R84, log 41). -/

namespace Sys2Proof.Machine

/-! ## Walks and write-backs -/

/-- PAGE_WALK (R27, R33 to R38): the walk for the page that a context was the first to miss begins, reading its entries, or ends
with the translation installed, or with a fault that the access itself reports. -/
def execPageWalk (c : CtxId) (va : Word) (k : AccKind) (s : State) : Res :=
  match s.missq.find? fun m => m.state != .failed && m.ctx == c && m.vpage == vpageOf false va.toNat && m.kind == k with
  | none => .next s
  | some m => .next (stepMiss m s)

/-- STORE_ACKNOWLEDGEMENT (R84, R91): a store on its way is performed, and a waiting release can go on. -/
def execStoreAcknowledgement (op : Nat) (s : State) : Res :=
  match s.op? op with
  | none => .next s
  | some o =>
    match o.kind with
    | .store _ => .next (performOp o s)
    | _ => .next s

/-- ATOMIC_AT_UNIT (R71, R72, R280, R291, R351): an operation's next atomic is made at its unit, once its line, or its region, is
there for it; until then that is asked for. -/
def execAtomicAtUnit (op : Nat) (s : State) : Res :=
  match s.op? op with
  | none => .next s
  | some o =>
    match o.kind.nextAmo with
    | none => .next s
    | some e => .next ((s.await o.owner.wideCore o.owner.quarter e.needs).getD (unitStep o s))

/-! ## Messages between a core and a home -/

/-- Whether a coherence message goes to the core. -/
def CohKind.toCore : CohKind → Bool
  | .inv => true | .fwds => true | .fwdm => true
  | .dataS => true | .dataE => true | .dataM => true | .dataN => true | .ackUpg => true
  | _ => false

def State.postCoh (s : State) (k : CohKind) (c : CoreId) (line : Nat) : State := { s with coh := s.coh ++ [⟨k, c, line, 0, false⟩] }

/-- An answer to a request, which tells for which slot quarter it was made (R52). -/
def State.answer (s : State) (k : CohKind) (a : HomeAsk) (line : Nat) : State :=
  { s with coh := s.coh ++ [⟨k, a.core, line, a.quarter, false⟩] }

/-- The oldest message between a core and the home of a line in one direction: they arrive in the order sent. -/
def State.firstCoh (s : State) (toCore : Bool) (c : CoreId) (line : Nat) : Option CohMsg :=
  s.coh.find? fun m => m.core == c && m.line == line && m.kind.toCore == toCore

/-- The oldest message and the state without it, when it is of a kind. -/
def State.takeCoh (s : State) (k : CohKind) (c : CoreId) (line : Nat) : Option (CohMsg × State) :=
  match s.firstCoh k.toCore c line with
  | none => none
  | some m => if m.kind = k then some (m, { s with coh := s.coh.erase m }) else none

/-! ## The scalar L1 -/

/-- The message with which an L1 puts a line (R61). -/
def L1State.put : L1State → CohKind
  | .s => .puts | .e => .pute | .m => .putm

/-- A line put into an L1, in one of the two ways of a quarter in its set, from which another line may have to go (R52, R61); none
while both hold lines that their core waits for an answer about. -/
def State.allocL1 (s : State) (c : CoreId) (quarter line : Nat) (st : L1State) : Option State :=
  if s.l1.any fun l => l.core == c && l.line == line then some (s.setL1 c line (some st))
  else
    let there := s.l1.filter fun l => l.core == c && l.quarter == quarter && l.line % 128 == line % 128
    let free := there.filter fun l => !s.asked c l.line
    let put := fun (s : State) => { s with l1 := s.l1 ++ [⟨c, line, quarter, st⟩] }
    if there.length < 2 then some (put s)
    else (free[Config.freePick s.fresh % max 1 free.length]?).map fun v =>
      put ({ s.bump 1 with l1 := s.l1.erase v, coh := s.coh ++ [⟨v.st.put, c, v.line, 0, v.st == .m⟩] } : State)

/-- The write-backs of a wide-core L1 that have been started (R285, R287): one goes on, once the cluster cache has its line. -/
def wideWriteback (c : CtxId) (s : State) : State :=
  let gs := (s.wl1.filter fun l => l.onCore c (s.partOf c).1).flatMap fun l => (l.groups.filter (·.go)).map fun g => (l, g)
  match wlOrder gs with
  | [] => s
  | (l, g) :: _ => (s.awaitLine l g.mask).getD (wlEvict l [g] s)

/-- STORE_BUFFER_WRITEBACK (R42, R53, R61, R84): the oldest entry of a store buffer is written once the line is in M; a line
in E enters M, one in S or I is asked for. A refused entry stays held until the next release (R47). One that meets an uncorrectable
error is dropped, and its thread takes an asynchronous MACHINE: DESIGN CHOICE, as R77's table has no row for a store-buffer entry
that leaves without a release (log 95). For a gang, a started write-back of its wide-core L1 goes on. -/
def execStoreBufferWriteback (c : CtxId) (s : State) : Res :=
  match s.thread? c with
  | none => .next (if c.wide && c.onDevice then wideWriteback c s else s)
  | some t =>
    match t.sb with
    | [] => .next s
    | e :: es =>
      if e.held.isSome || !c.onDevice || (t.agent.relHandler && !e.inHandler) then .next s
      else if !sbOpen c e s then .next (sbAsk c e s)
      else
        match sbWriteBack t.part c e s with
        | (s1, none) => .next (s1.updThread c fun t => { t with sb := es })
        | (s1, some tr) =>
          if tr.cause = 0x13 then
            .next (s1.updThread c fun t =>
              { t with sb := es, dueMachine := t.dueMachine ++ [{ tr with tinfo := tr.tinfo ||| 0x8000 }] })
          else .next (s1.updThread c fun t => { t with sb := { e with held := some tr.tinfo } :: es })

/-- INV (R61, R63): the line goes, and the core answers whether or not it held it. -/
def execInv (c : CoreId) (line : Nat) (s : State) : Res :=
  match s.takeCoh .inv c line with
  | none => .next s
  | some (_, s1) => .next ((s1.setL1 c line none).postCoh .invack c line)

/-- FWDS and FWDM (R61): an owner supplies its line; a core that has put it answers nothing. -/
def fwdLine (k : CohKind) (after : Option L1State) (c : CoreId) (line : Nat) (s : State) : Res :=
  match s.takeCoh k c line with
  | none => .next s
  | some (_, s1) =>
    match s1.l1State c line with
    | none => .next s1
    | some .s => .next s1
    | some st => .next { s1.setL1 c line after with coh := s1.coh ++ [⟨.datawb, c, line, 0, st == .m⟩] }

/-- FWDS (R61): the line drops to S. -/
def execFwds (c : CoreId) (line : Nat) (s : State) : Res := fwdLine .fwds (some .s) c line s

/-- FWDM (R61): the line goes. -/
def execFwdm (c : CoreId) (line : Nat) (s : State) : Res := fwdLine .fwdm none c line s

/-- DATA_REPLY (R61): the line enters S, E or M; data of the kind N is used by the load only. -/
def execDataReply (c : CoreId) (line : Nat) (s : State) : Res :=
  match s.firstCoh true c line with
  | none => .next s
  | some m =>
    let s1 := { s with coh := s.coh.erase m }
    match m.kind with
    | .dataS => .next ((s1.allocL1 c m.quarter line .s).getD s)
    | .dataE => .next ((s1.allocL1 c m.quarter line .e).getD s)
    | .dataM => .next (((s1.allocL1 c m.quarter line .m).map (serveCore c line)).getD s)
    | .dataN => .next s1
    | _ => .next s

/-- ACKUPG (R61): the line enters M. -/
def execAckupg (c : CoreId) (line : Nat) (s : State) : Res :=
  match s.takeCoh .ackUpg c line with
  | none => .next s
  | some (_, s1) => .next (serveCore c line (s1.setL1 c line (some .m)))

/-! ## The home -/

/-- The home tile of a physical address (R59). -/
def homeRank (pa : Nat) : Nat :=
  [bits pa 13 8, bits pa 19 14, bits pa 25 20, bits pa 31 26, bits pa 37 32, bits pa 43 38, bits pa 49 44, bits pa 51 50].foldl
    Nat.xor 0

/-- The entry put in its place; one in U with nothing waiting is not listed. -/
def State.setHome (s : State) (h : HomeLine) : State :=
  let rest := s.home.filter fun x => !(x.cluster == h.cluster && x.line == h.line)
  { s with home := if h.st.isNone && h.trans.isNone && h.queue.isEmpty then rest else rest ++ [h] }

/-- The quarter that owns a line's way in the home slice (R59, R64). -/
def State.lineQuarter (s : State) (cl line : Nat) : Nat :=
  ((s.ccache.find? fun l => l.cluster == cl && l.block == line / 8).map fun l => l.way / 4).getD 0

/-- Whether the quarter's places in the home tile's event queue are not all taken (R66). -/
def State.eventRoom (s : State) (cl line : Nat) : Bool :=
  (s.ovfEvents.filter fun e => e.cluster == cl && e.rank == homeRank (32 * line) && e.quarter == s.lineQuarter cl line).length < 8

/-- An event queued to the overflow handler (R64). -/
def State.queueEvent (s : State) (cl line : Nat) (add : Option CoreId) : State :=
  { s with ovfEvents := s.ovfEvents ++ [⟨cl, homeRank (32 * line), s.lineQuarter cl line, line, add⟩] }

/-- The lowest free record of the line's quarter (R64). -/
def State.freeRecord (s : State) (cl line : Nat) : Option Nat :=
  let q := s.lineQuarter cl line
  let used := (s.ovf.filter fun r => r.cluster == cl && r.rank == homeRank (32 * line)).map (·.index)
  (List.range 1024).findSome? fun i => if used.contains (1024 * q + i) then none else some (1024 * q + i)

/-- The sharers that a line's record names, or that an ADD event on its way will name. -/
def State.recorded (s : State) (cl line : Nat) : List CoreId :=
  ((s.ovf.filter fun r => r.cluster == cl && r.line == line).flatMap (·.sharers)) ++
    (s.ovfEvents.filter fun e => e.cluster == cl && e.line == line).filterMap (·.add)

/-! ### The lines of the cluster cache -/

/-- The set of a block: its home slice and its set there (R59). -/
def ccSet (block : Nat) : Nat × Nat := (homeRank (block * 256), bits (block * 256) 20 14)

/-- The order of directory states in the choice of a victim (R60). -/
def dirRank (st : Option DirState) : Nat :=
  match st with
  | none => 0 | some .s => 1 | some .o => 2 | some .sx => 3

/-- The rank of a 256-byte line: that of its highest sector (log 98). -/
def State.ccRank (s : State) (l : CcLine) : Nat :=
  (List.range 8).foldl (fun m k => max m (dirRank (s.homeLine l.cluster (l.block * 8 + k)).st)) 0

/-- Whether a line's copies are being recalled. -/
def State.ccRecalled (s : State) (l : CcLine) : Bool :=
  (List.range 8).any fun k =>
    let h := s.homeLine l.cluster (l.block * 8 + k)
    (h.trans.elim false fun t => t.ask.req == .recall) || h.queue.any fun q => q.req == .recall

/-- Whether a line can be a victim: no transaction is in progress on it and no request waits for it (R63). -/
def State.ccFree (s : State) (l : CcLine) : Bool :=
  (List.range 8).all fun k =>
    (s.homeLine l.cluster (l.block * 8 + k)).trans.isNone && (s.homeLine l.cluster (l.block * 8 + k)).queue.isEmpty

/-- The unpinned ways of a quarter in a cluster (R59, R73). -/
def State.freeWays (s : State) (cl q : Nat) : List Nat :=
  let n := ((s.parts.find? fun p => p.cfg.pairs.contains (cl, q)).map fun p => p.pinned cl).getD 0
  (List.range (4 - n)).map fun i => 4 * q + i

/-- The end of a write request: the requester owns the line (R62). -/
def ownLine (a : HomeAsk) (heldS : Bool) (h : HomeLine) (s : State) : State :=
  (s.answer (if heldS then .ackUpg else .dataM) a h.line).setHome { h with st := some .o, ptrs := [a.core], trans := none }

/-- What waits in a cluster for a line that no L1 has a copy of any more (R63): atomics at the near-cache unit, started write-backs of
the requesting tile's wide-core L1. -/
def serveOpen (cl tile line : Nat) (s : State) : State :=
  serveSector cl tile line (serveUnits (· == .write line) (fun o => o.owner.cluster == cl) s)

/-- A request that takes every other copy, when none is left (R60, R62): the requester owns the line; a wide core, an atomic unit or
a recall keeps none. -/
def clearLine (a : HomeAsk) (heldS : Bool) (h : HomeLine) (s : State) : State :=
  match a.req with
  | .getm => ownLine a heldS h s
  | .upg => ownLine a heldS h s
  | .write => serveOpen h.cluster a.core.tile h.line (s.setHome { h with st := none, ptrs := [], trans := none })
  | _ => s.setHome { h with st := none, ptrs := [], trans := none }

/-- A request that takes every other copy of a line begins (R62): the copies are called back, or it is served at once; false when it
must wait for a place in the event queue (R66). -/
def callBack (a : HomeAsk) (h : HomeLine) (s : State) : State × Bool :=
  let cl := h.cluster
  let others := h.ptrs.filter fun x => x != a.core
  let begin_ := fun (waits : List CoreId) (heldS : Bool) (s : State) => s.setHome { h with trans := some ⟨a, waits, heldS⟩ }
  match h.st with
  | none => (clearLine a false h s, true)
  | some .s =>
    let heldS := a.req == .upg && h.ptrs.contains a.core
    if others.isEmpty then (clearLine a heldS h s, true)
    else ((others.foldl (fun s o => s.postCoh .inv o h.line) s) |> begin_ others heldS, true)
  | some .sx =>
    let heldS := a.req == .upg && (h.ptrs.contains a.core || (s.recorded cl h.line).contains a.core)
    if s.eventRoom cl h.line then
      ((others.foldl (fun s o => s.postCoh .inv o h.line) (s.queueEvent cl h.line none)) |> begin_ others heldS, true)
    else (s, false)
  | some .o => ((h.ptrs.foldl (fun s o => s.postCoh .fwdm o h.line) s) |> begin_ h.ptrs false, true)

/-- The recall of a line's copies (R60): it begins after the transaction in progress (R63), before the requests that wait. -/
def State.recallLine (s : State) (cl line : Nat) : State :=
  let h := s.homeLine cl line
  let a : HomeAsk := ⟨.recall, ⟨cl, 0, 5⟩, 0⟩
  if h.st.isNone || (h.trans.elim false fun t => t.ask == a) || h.queue.contains a then s
  else
    match (if h.trans.isNone then callBack a h s else (s, false)) with
    | (s1, true) => s1
    | (_, false) => s.setHome { h with queue := a :: h.queue }

/-- CLUSTER_CACHE_VICTIM (R59, R60): a place for the line of a miss, in an unpinned way of the requesting quarter. The victim is
least in the order U, S, O, SX, then least recently used; one with L1 copies is recalled first, and the request waits: false. -/
def State.ccPlace (s : State) (cl block q : Nat) : State × Bool :=
  if s.ccache.any fun l => l.cluster == cl && l.block == block then (s, true)
  else
    let set := s.ccache.filter fun l => l.cluster == cl && ccSet l.block == ccSet block
    let put := fun (w : Nat) (s : State) => ({ s with ccache := s.ccache ++ [⟨cl, block, w, 0, 0, s.cc⟩] } : State)
    match (s.freeWays cl q).find? fun w => !set.any fun l => l.way == w with
    | some w => (put w s, true)
    | none =>
      let mine := set.filter fun l => (s.freeWays cl q).contains l.way
      if mine.any s.ccRecalled then (s, false)
      else
        match sortBy (fun a b => decide (s.ccRank a < s.ccRank b ∨ (s.ccRank a = s.ccRank b ∧ a.used ≤ b.used)))
            (mine.filter s.ccFree) with
        | [] => (s, false)
        | v :: _ =>
          if s.ccRank v = 0 then (put v.way (s.ccEvict v), true)
          else ((List.range 8).foldl (fun s k => s.recallLine cl (v.block * 8 + k)) s, false)

/-! ### Misses of a cluster (R67, R69) -/

/-- Whether a sector is already on its way to a cluster cache, as a write needs it or as a read does. -/
def State.fetching (s : State) (cl line : Nat) (write : Bool) : Bool :=
  let here := fun (b : Nat) (xs : List Nat) => b == line / 8 && xs.contains (line % 8)
  let inAct := fun (q : RegReq) => q.agent == cl && (q.write || !write) && (match q.act with
    | .fill b xs => here b xs
    | _ => false)
  (!write && s.merges.any fun m => m.cluster == cl && here m.block m.sectors) ||
    (s.reg.any fun m => m.agent == cl && here m.block m.sectors && (m.kind == .rdm || m.kind == .data || (!write && m.kind == .rds))) ||
    s.region.any fun e => e.region == regionOf line && ((e.trans.elim false inAct) || e.queue.any inAct)

/-- A read of sectors of a line sent to the region directory (R67). -/
def State.sendRead (s : State) (cl block : Nat) (xs : List Nat) : State :=
  { s with reg := s.reg ++ [⟨.rds, cl, block / 16, block, xs⟩] }

/-- A read miss held at the cluster's memory port, where misses to other sectors of its block join it; sent at once when all eight
are wanted (R69). -/
def State.holdMiss (s : State) (cl line : Nat) : State :=
  let b := line / 8
  let old := ((s.merges.find? fun m => m.cluster == cl && m.block == b).map (·.sectors)).getD []
  let now := if old.contains (line % 8) then old else old ++ [line % 8]
  let rest := s.merges.filter fun m => !(m.cluster == cl && m.block == b)
  if now.length = 8 then ({ s with merges := rest }).sendRead cl b now
  else { s with merges := rest ++ [⟨cl, b, now⟩] }

/-- MISS_MERGE_EXPIRY (R69): one burst for the union of the sectors wanted. -/
def execMissMergeExpiry (cl block : Nat) (s : State) : Res :=
  match s.merges.find? fun m => m.cluster == cl && m.block == block with
  | none => .next s
  | some m => .next (({ s with merges := s.merges.erase m }).sendRead cl block m.sectors)

/-- A sector that a request needs is asked for, once (R67, R69). -/
def State.fetchLine (s : State) (cl line : Nat) (write : Bool) : State :=
  if s.fetching cl line write then s
  else if write then { s with reg := s.reg ++ [⟨.rdm, cl, regionOf line, line / 8, [line % 8]⟩] }
  else s.holdMiss cl line

/-- Whether a region is being taken back from a cluster: its lines serve no request until the cluster has acknowledged (R67). -/
def State.regionCalled (s : State) (cl line : Nat) : Bool :=
  s.reg.any fun m => m.agent == cl && m.region == regionOf line && (m.kind == .rinv || m.kind == .rdown)

/-! ### Requests at the home -/

/-- A read served at the home (R62): a scalar L1 gets a copy, a wide core the data only. -/
def serveRead (a : HomeAsk) (h : HomeLine) (s : State) : State × Bool :=
  let cl := h.cluster
  let others := h.ptrs.filter fun x => x != a.core
  match a.req, h.st with
  | _, some .o => ((h.ptrs.foldl (fun s o => s.postCoh .fwds o h.line) s).setHome { h with trans := some ⟨a, h.ptrs, false⟩ }, true)
  | .read, _ => (s.setHome { h with trans := none }, true)
  | _, none => ((s.answer .dataE a h.line).setHome { h with st := some .o, ptrs := [a.core], trans := none }, true)
  | _, some .s =>
    if h.ptrs.contains a.core || h.ptrs.length < 4 then
      ((s.answer .dataS a h.line).setHome { h with ptrs := others ++ [a.core], trans := none }, true)
    else
      match s.freeRecord cl h.line with
      | none => ((s.answer .dataN a h.line).setHome { h with trans := none }, true)
      | some i =>
        if s.eventRoom cl h.line then
          let r : OvfRecord := ⟨cl, homeRank (32 * h.line), s.lineQuarter cl h.line, i, h.line, []⟩
          ((({ s with ovf := s.ovf ++ [r] }.queueEvent cl h.line (some a.core)).answer .dataS a h.line).setHome
            { h with st := some .sx, record := some i, trans := none }, true)
        else (s, false)
  | _, some .sx =>
    if s.eventRoom cl h.line then
      (((s.queueEvent cl h.line (some a.core)).answer .dataS a h.line).setHome { h with trans := none }, true)
    else (s, false)

/-- A line of a cluster cache has been used (R60). -/
def State.ccUse (s : State) (cl line : Nat) : State :=
  { s with ccache := s.ccache.map fun l => if l.cluster = cl ∧ l.block = line / 8 then { l with used := s.cc } else l }

/-- A request at the head of a line's queue, while no transaction is in progress (R62, R63): served, or begun, or it must still wait
for a way, for its sector, for a place in the event queue, or for the end of a recall: false. -/
def serveReq (a : HomeAsk) (h : HomeLine) (s : State) : State × Bool :=
  let cl := h.cluster
  let write := a.req != .gets && a.req != .read
  if a.req = .recall then callBack a h s
  else if s.regionCalled cl h.line then (s, false)
  else
    match s.ccPlace cl (h.line / 8) a.quarter with
    | (s1, false) => (s1, false)
    | (s1, true) =>
      if !s1.inCc cl h.line || (write && !s1.ownsRegion cl h.line) then (s1.fetchLine cl h.line write, false)
      else if write then callBack a h (s1.ccUse cl h.line)
      else serveRead a h (s1.ccUse cl h.line)

/-- The requests that wait at a line, served in order until one must wait (R63). -/
def serveQueue (cl line : Nat) : Nat → State → State
  | 0, s => s
  | n + 1, s =>
    let h := s.homeLine cl line
    match h.trans, h.queue with
    | none, q :: qs =>
      match serveReq q { h with queue := qs } s with
      | (s1, true) => serveQueue cl line n s1
      | (s1, false) => s1
    | _, _ => s

/-- The queue of a line served as far as it goes. -/
def serveLine (cl line : Nat) (s : State) : State := serveQueue cl line ((s.homeLine cl line).queue.length + 1) s

/-- The lines that satisfy a test and whose requests wait are tried again, in the order in which they came to wait. -/
def retryLines (pick : HomeLine → Bool) (s : State) : State :=
  (s.home.filter fun h => pick h && h.trans.isNone && !h.queue.isEmpty).foldl (fun s h => serveLine h.cluster h.line s) s

/-- The lines of a home tile whose requests wait, for a way or for a place in the event queue, are tried again (R60, R66). -/
def retryHome (cl rank : Nat) (s : State) : State :=
  retryLines (fun h => h.cluster == cl && homeRank (32 * h.line) == rank) s

/-- A request that arrives at the home (R63): it waits behind others, or is served. -/
def arriveReq (m : CohMsg) (req : HomeReq) (s : State) : State :=
  let cl := m.core.cluster
  let h := s.homeLine cl m.line
  serveLine cl m.line (s.setHome { h with queue := h.queue ++ [⟨req, m.core, m.quarter⟩] })

/-- GETS (R62): the read request of a core, a scalar one's for a copy or a wide one's for data (R55). -/
def execGets (c : CoreId) (line : Nat) (s : State) : Res :=
  match s.takeCoh .gets c line with
  | some (m, s1) => .next (arriveReq m .gets s1)
  | none =>
    match s.takeCoh .read c line with
    | some (m, s1) => .next (arriveReq m .read s1)
    | none => .next s

/-- GETM (R62): a write request of a scalar core, one that takes no copy (R56, R71), or the recall of a line (R60). -/
def execGetm (c : CoreId) (line : Nat) (s : State) : Res :=
  match s.takeCoh .getm c line with
  | some (m, s1) => .next (arriveReq m .getm s1)
  | none =>
    match s.takeCoh .write c line with
    | some (m, s1) => .next (arriveReq m .write s1)
    | none =>
      match s.takeCoh .recall c line with
      | some (_, s1) => .next (s1.recallLine c.cluster line)
      | none => .next s

/-- UPG (R62). -/
def execUpg (c : CoreId) (line : Nat) (s : State) : Res :=
  match s.takeCoh .upg c line with
  | some (m, s1) => .next (arriveReq m .upg s1)
  | none => .next s

/-- A transaction whose answers have all arrived ends (R62); one on an extended line waits for its INVAL event. holders: the
cores that still have the line after a read. Then the requests behind it, and those that waited for a way, go on. -/
def endTrans (cl line : Nat) (holders : List CoreId) (s : State) : State :=
  let h := s.homeLine cl line
  match h.trans with
  | none => s
  | some t =>
    if !t.awaiting.isEmpty || h.record.isSome then s
    else
      retryHome cl (homeRank (32 * line)) (match t.ask.req with
        | .gets => (s.answer .dataS t.ask line).setHome { h with st := some .s, ptrs := holders ++ [t.ask.core], trans := none }
        | .read => s.setHome { h with st := if holders.isEmpty then none else some .s, ptrs := holders, trans := none }
        | _ => clearLine t.ask t.heldS h s)

/-- One answer of a transaction has arrived. -/
def answered (c : CoreId) (line : Nat) (holders : List CoreId) (s : State) : State :=
  let h := s.homeLine c.cluster line
  match h.trans with
  | none => s
  | some t => endTrans c.cluster line holders (s.setHome { h with trans := some { t with awaiting := t.awaiting.erase c } })

/-- Data that comes back to the home is written there when it is dirty (R61, R62). -/
def CohMsg.land (m : CohMsg) (s : State) : State := if m.dirty then s.ccDirty m.core.cluster m.line else s

/-- INVACK (R62, R63). -/
def execInvack (c : CoreId) (line : Nat) (s : State) : Res :=
  match s.takeCoh .invack c line with
  | none => .next s
  | some (_, s1) => .next (answered c line [] s1)

/-- DATAWB (R62): the former owner keeps a copy in S after a read. -/
def execDatawb (c : CoreId) (line : Nat) (s : State) : Res :=
  match s.takeCoh .datawb c line with
  | none => .next s
  | some (m, s1) => .next (answered c line [c] (m.land s1))

/-- PUTS (R62): the sharer is removed, also while a transaction is in progress, whose Inv it still answers (R63). -/
def execPuts (c : CoreId) (line : Nat) (s : State) : Res :=
  match s.takeCoh .puts c line with
  | none => .next s
  | some (_, s1) =>
    let h := s1.homeLine c.cluster line
    let ptrs := h.ptrs.filter fun x => x != c
    match h.st with
    | some .s =>
      .next (s1.setHome (if ptrs.isEmpty && h.trans.isNone then { h with st := none, ptrs := [] } else { h with ptrs := ptrs }))
    | some .sx => .next (s1.setHome { h with ptrs := ptrs })
    | _ => .next s1

/-- PUTE and PUTM (R62): the owner puts the line; crossing a forward, it is the reply (R61). -/
def putOwned (k : CohKind) (c : CoreId) (line : Nat) (s : State) : Res :=
  match s.takeCoh k c line with
  | none => .next s
  | some (m, s0) =>
    let s1 := m.land s0
    let h := s1.homeLine c.cluster line
    if h.st ≠ some .o ∨ h.ptrs ≠ [c] then .next s1
    else if h.trans.elim false fun t => t.awaiting.contains c then .next (answered c line [] s1)
    else .next (retryHome c.cluster (homeRank (32 * line)) (s1.setHome { h with st := none, ptrs := [] }))

/-- PUTE (R62). -/
def execPute (c : CoreId) (line : Nat) (s : State) : Res := putOwned .pute c line s

/-- PUTM (R62). -/
def execPutm (c : CoreId) (line : Nat) (s : State) : Res := putOwned .putm c line s

/-! ## The overflow handler -/

/-- The quarter whose event the handler of a home tile takes next (R66): the first that has one, after the one served last. -/
def State.eventTurn (s : State) (cl rank : Nat) : Option Nat :=
  let last := ((s.sysctx.find? fun x => x.cluster == cl && x.rank == rank).map (·.last)).getD 3
  ((List.range 4).map fun i => (last + 1 + i) % 4).find? fun q =>
    s.ovfEvents.any fun e => e.cluster == cl && e.rank == rank && e.quarter == q

/-- The event that the handler takes from a quarter in its turn, oldest first, and the state without it (R64, R66). -/
def State.takeEvent (s : State) (cl rank q : Nat) : Option (OvfEvent × State) :=
  if s.eventTurn cl rank ≠ some q then none
  else (s.ovfEvents.find? fun e => e.cluster == cl && e.rank == rank && e.quarter == q).map fun e =>
    (e, { s with
      ovfEvents := s.ovfEvents.erase e
      sysctx := ⟨cl, rank, q⟩ :: s.sysctx.filter fun x => !(x.cluster == cl && x.rank == rank) })

/-- OVERFLOW_ADD (R64): the new sharer's bit is set. -/
def execOverflowAdd (cl rank q : Nat) (s : State) : Res :=
  match s.takeEvent cl rank q with
  | some (e, s1) =>
    match e.add with
    | none => .next s
    | some c =>
      .next (retryHome cl rank { s1 with ovf := s1.ovf.map fun r =>
        if r.cluster == cl && r.line == e.line && !r.sharers.contains c then { r with sharers := r.sharers ++ [c] } else r })
  | none => .next s

/-- OVERFLOW_INVAL (R64): the vector's sharers are invalidated, the record is free, and the entry returns to S with its
remaining pointers. -/
def execOverflowInval (cl rank q : Nat) (s : State) : Res :=
  match s.takeEvent cl rank q with
  | some (e, s1) =>
    if e.add.isSome then .next s
    else
      let h := s1.homeLine cl e.line
      match h.trans with
      | none => .next (retryHome cl rank s1)
      | some t =>
        let more := ((s1.recorded cl e.line).eraseDups).filter fun x => x != t.ask.core && !h.ptrs.contains x
        let s2 := { s1 with ovf := s1.ovf.filter fun r => !(r.cluster == cl && r.line == e.line) }
        let s3 := (more.foldl (fun s o => s.postCoh .inv o e.line) s2).setHome
          { h with st := some .s, record := none, trans := some { t with awaiting := t.awaiting ++ more } }
        .next (retryHome cl rank (endTrans cl e.line [] s3))
  | none => .next s

/-! ## The region directory -/

/-- The place of a region in the directory: its stack and its set (R67, R70). -/
def regionSet (r : Nat) : Nat × Nat := (r % 12, r / 12 % 16384)

def State.regEntry (s : State) (r : Nat) : RegEntry :=
  (s.region.find? fun e => e.region == r).getD ⟨r, none, [], none, [], [], s.cc⟩

/-- An entry put in its place; one in I with nothing waiting is not listed. -/
def State.setReg (s : State) (e : RegEntry) : State :=
  let rest := s.region.filter fun x => x.region != e.region
  { s with region := if e.st.isNone && e.trans.isNone && e.queue.isEmpty then rest else rest ++ [{ e with used := s.cc }] }

/-- Whether a region-directory message goes to its agent. -/
def RegKind.toAgent : RegKind → Bool
  | .rinv => true | .rdown => true | .data => true
  | _ => false

/-- The oldest message between an agent and the slice about a region in one direction, when it is of a kind, and the state without
it: they arrive in the order sent. -/
def State.takeReg (s : State) (k : RegKind) (a r : Nat) : Option (RegMsg × State) :=
  match s.reg.find? fun m => m.agent == a && m.region == r && m.kind.toAgent == k.toAgent with
  | some m => if m.kind = k then some (m, { s with reg := s.reg.erase m }) else none
  | none => none

/-- Whether every one of n bytes lies in a host-visible range of a partition (R31, R396). -/
def State.hostVisible (s : State) (a n : Nat) : Bool :=
  s.parts.any fun p => p.cfg.hostVisible.any fun r => r.1 ≤ a && a + n ≤ r.1 + r.2

/-- A granted request (R67): data to a cluster cache, a host access that is now made (R396), or a store or atomic of a device link
(R301, R407). -/
def grantReg (q : RegReq) (r : Nat) (s : State) : State :=
  match q.act with
  | .fill b xs => { s with reg := s.reg ++ [⟨.data, q.agent, r, b, xs⟩] }
  | .host a n bs => if q.write then writeOutside a bs s else { s with out := s.out ++ [.cxl (rdBytes s.mem a n)] }
  | .link _ (.store pa data) => writeOutside pa data s
  | .link dev (.add pa v) =>
    let old := leNat (rdBytes s.mem pa 8)
    { writeOutside pa (toBytes 8 (old + v.toNat)) s with out := s.out ++ [.link dev (toBytes 8 old)] }
  | .link _ _ => s
  | .take => s

/-- What waits for a region that no agent holds any more (R71, R106): atomics at the memory-side unit, bursts of copies. -/
def serveTaken (r : Nat) (s : State) : State :=
  let s1 := serveUnits (fun n => match n with | .alone l => regionOf l == r | _ => false) (fun _ => true) s
  (s1.teams.flatMap fun t => (List.range 16).map fun n => (t.id, n)).foldl (fun s x =>
    match s.chan? x.1 x.2 with
    | some c =>
      (c.sent.find? fun k => c.state == .active && !c.moved.contains k && !c.landed k).elim s fun k =>
        match execBurstTransfer x.1 x.2 k s with
        | .next s1 => s1
        | _ => s
    | none => s) s1

/-- A region taken back from every holder (R67, R68). -/
def regTaken (q : RegReq) (e : RegEntry) (s : State) : State :=
  let s1 := (grantReg q e.region s).setReg { e with st := none, agents := [], trans := none }
  if q.act = .take then serveTaken e.region s1 else s1

/-- A request that begins at the directory (R67): granted, or its transaction with the holders concerned. -/
def serveReg (q : RegReq) (e : RegEntry) (s : State) : State :=
  let send := fun (k : RegKind) (who : List Nat) =>
    (who.foldl (fun s a => s.postReg k a e.region) s).setReg { e with trans := some q, awaiting := who }
  let others := e.agents.filter fun a => a != q.agent
  if q.agent = 13 then
    if e.agents.isEmpty then regTaken q e s else send .rinv e.agents
  else if q.write then
    if others.isEmpty then (grantReg q e.region s).setReg { e with st := some .m, agents := [q.agent], trans := none }
    else send .rinv others
  else
    match e.st with
    | some .m =>
      if others.isEmpty then (grantReg q e.region s).setReg { e with trans := none } else send .rdown others
    | _ => (grantReg q e.region s).setReg { e with st := some .s, agents := others ++ [q.agent], trans := none }

/-- Whether an entry takes a way of its set: it is held, or a transaction of it is in progress. -/
def RegEntry.resident (e : RegEntry) : Bool := e.st.isSome || e.trans.isSome

/-- Whether a region has an entry or its set has a free way (R67, R68). -/
def State.regRoom (s : State) (r : Nat) : Bool :=
  (s.region.any fun e => e.region == r && e.resident) ||
    decide ((s.region.filter fun e => regionSet e.region == regionSet r && e.resident).length < 16)

/-- The least recently used entry of a full set starts to be taken back, unless one already is (R68). -/
def takeBack (r : Nat) (s : State) : State :=
  let set := s.region.filter fun e => regionSet e.region == regionSet r && e.resident
  if set.any fun e => e.trans.elim false fun t => t.act == .take then s
  else
    match (sortBy (fun a b => decide (a.used ≤ b.used)) set).find? fun e => e.trans.isNone with
    | none => s
    | some v => serveReg ⟨13, true, .take⟩ v s

/-- The requests of a region served in order of arrival, until one begins a transaction or the set is full (R67, R68). -/
def serveRegion (r : Nat) : Nat → State → State
  | 0, s => s
  | n + 1, s =>
    let e := s.regEntry r
    match e.trans, e.queue with
    | none, q :: qs =>
      if s.regRoom r || q.agent = 13 then serveRegion r n (serveReg q { e with queue := qs } s) else takeBack r s
    | _, _ => s

/-- The regions of a set whose requests wait, served as far as they go. -/
def serveSet (r : Nat) (s : State) : State :=
  (s.region.filter fun e => regionSet e.region == regionSet r).foldl
    (fun s e => serveRegion e.region (e.queue.length + 1) s) s

/-- A request that arrives at the slice. -/
def arriveReg (q : RegReq) (r : Nat) (s : State) : State :=
  let e := s.regEntry r
  serveSet r (s.setReg { e with queue := e.queue ++ [q] })

/-- RDS (R67). -/
def execRds (cl r : Nat) (s : State) : Res :=
  match s.takeReg .rds cl r with
  | none => .next s
  | some (m, s1) => .next (arriveReg ⟨cl, false, .fill m.block m.sectors⟩ r s1)

/-- RDM (R67); from agent 13, a recall from every holder for a unit at the stack (R71, R106). -/
def execRdm (cl r : Nat) (s : State) : Res :=
  match s.takeReg .rdm cl r with
  | some (m, s1) => .next (arriveReg ⟨cl, true, .fill m.block m.sectors⟩ r s1)
  | none =>
    match s.takeReg .take cl r with
    | some (_, s1) => .next (arriveReg ⟨cl, true, .take⟩ r s1)
    | none => .next s

/-- REGION_WB (R67): the owner's dirty sectors are written, and it stays owner; the bytes have one place here (log 41). -/
def execRegionWb (cl r : Nat) (s : State) : Res :=
  match s.takeReg .wb cl r with
  | none => .next s
  | some (_, s1) => .next (if (s1.regEntry r).agents = [cl] then s1.setReg (s1.regEntry r) else s1)

/-- EVR (R67): a cluster that holds no line left in the region leaves the entry. -/
def execEvr (cl r : Nat) (s : State) : Res :=
  match s.takeReg .evr cl r with
  | none => .next s
  | some (_, s1) =>
    let e := s1.regEntry r
    let rest := e.agents.filter fun a => a != cl
    .next (if e.agents.contains cl then serveSet r (s1.setReg { e with agents := rest, st := if rest.isEmpty then none else e.st })
      else s1)

/-- RINV and RDOWN at a cluster cache (R60, R67): the region's lines are recalled from the scalar L1s; once none has a copy, the
sectors go, or stay clean, and the cluster acknowledges. -/
def regionRecall (k : RegKind) (cl r : Nat) (s : State) : Res :=
  match s.takeReg k cl r with
  | none => .next s
  | some (_, s1) =>
    let ls := s.home.filter fun h => h.cluster == cl && regionOf h.line == r && (h.st.isSome || h.trans.isSome)
    if !ls.isEmpty then .next (ls.foldl (fun s h => s.recallLine cl h.line) s)
    else
      let mine := fun (l : CcLine) => l.cluster == cl && l.block / 16 == r
      let kept := if k = .rdown then s1.ccache.map fun l => if mine l then { l with dirty := 0 } else l
        else s1.ccache.filter fun l => !mine l
      .next (retryLines (fun h => h.cluster == cl && regionOf h.line == r) ({ s1 with ccache := kept }.postReg .ack cl r))

/-- RINV (R67). -/
def execRinv (cl r : Nat) (s : State) : Res := regionRecall .rinv cl r s

/-- RDOWN (R67). -/
def execRdown (cl r : Nat) (s : State) : Res := regionRecall .rdown cl r s

/-- The transaction of a region once every acknowledgement has arrived (R67). -/
def endRegion (e : RegEntry) (s : State) : State :=
  match e.trans with
  | none => s
  | some q =>
    if !e.awaiting.isEmpty then s.setReg e
    else if q.agent = 13 then serveSet e.region (regTaken q e s)
    else if q.write then
      serveSet e.region ((grantReg q e.region s).setReg { e with st := some .m, agents := [q.agent], trans := none })
    else
      serveSet e.region ((grantReg q e.region s).setReg
        { e with st := some .s, agents := (e.agents.filter fun a => a != q.agent) ++ [q.agent], trans := none })

/-- An acknowledgement of a region on its way, the host's behind the clusters', and the state without it. -/
def State.takeAnswer (s : State) (r : Nat) : Option (RegMsg × State) :=
  ((List.range 12).findSome? fun cl => s.takeReg .ack cl r).or ((s.takeReg .rinv 12 r).or (s.takeReg .rdown 12 r))

/-- REGION_ACKNOWLEDGEMENT (R67): a cluster's acknowledgement, or the host's answer to a back-invalidation snoop, reaches the
slice. -/
def execRegionAcknowledgement (r : Nat) (s : State) : Res :=
  match s.takeAnswer r with
  | none => .next s
  | some (m, s1) =>
    let e := s1.regEntry r
    .next (endRegion { e with awaiting := e.awaiting.erase m.agent } s1)

/-- REGION_DATA (R67): the sectors asked for are valid in the cluster cache, and the requests that wait for the region go on. -/
def execRegionData (cl r : Nat) (s : State) : Res :=
  match s.takeReg .data cl r with
  | none => .next s
  | some (m, s1) =>
    let got := m.sectors.foldl (fun v k => v ||| BitVec.ofNat 8 (2 ^ k)) (0 : BitVec 8)
    let s2 : State := { s1 with ccache := s1.ccache.map fun (l : CcLine) =>
      if l.cluster = cl ∧ l.block = m.block then { l with valid := l.valid ||| got } else l }
    .next (retryLines (fun h => h.cluster == cl && regionOf h.line == r) (s2.tellEmpty cl r))

/-! ## The host -/

/-- HOST_CXL_MEM_READ (R67, R396): outside every host-visible range it reads all ones. -/
def execHostCxlMemRead (pa n : Nat) (s : State) : Res :=
  if s.hostVisible pa n then .next (arriveReg ⟨12, false, .host pa n []⟩ (pa / 4096) s)
  else .next { s with out := s.out ++ [.cxl (List.replicate n 0xFF)] }

/-- HOST_CXL_MEM_WRITE (R67, R396): outside every host-visible range it writes nothing. -/
def execHostCxlMemWrite (pa : Nat) (data : List Byte) (s : State) : Res :=
  if s.hostVisible pa data.length then
    .next (arriveReg ⟨12, true, .host pa data.length data⟩ (pa / 4096) s)
  else .next s

end Sys2Proof.Machine
end

