-- ==== Sys2Proof/Machine/Csr.lean ====
section
/-! DEFINITION. Control registers (R270 to R276). -/

namespace Sys2Proof.Machine

/-- What `csrw` and `csrx` do with the old value and xa (R270). -/
inductive CsrOp where
  | write | swap | set | clr
deriving DecidableEq, Repr

/-- The value that a write stores (R270). -/
def CsrOp.value : CsrOp → Word → Word → Word
  | .write, _, a => a
  | .swap, _, a => a
  | .set, old, a => old ||| a
  | .clr, old, a => old &&& ~~~ a

/-- Whether a control register is in the map for a core kind (R272). -/
def csrExists (wide : Bool) (n : Nat) : Bool :=
  n ≤ 4 || (0x010 ≤ n && n ≤ 0x013) || n == 0x030 || n == 0x080 ||
    (!wide && (n == 0x020 || (0x040 ≤ n && n ≤ 0x045) || n == 0x081 || n == 0x082))

/-- Whether a register is read-only as a whole (R272). -/
def csrReadOnly (n : Nat) : Bool :=
  n ≤ 4 || n == 0x030 || n == 0x041 || n == 0x042 || n == 0x044 || n == 0x082

/-- Whether a register has only privileged fields to write (R24, R120). -/
def csrPrivileged (n : Nat) : Bool := n == 0x080 || n == 0x081

/-- TEAMID (R275). -/
def teamIdWord (s : State) (i : Option TeamId) : Word :=
  match i with
  | none => 0
  | some i => w64 (((s.launch? i.launch).elim 0 (·.teams)) % 2 ^ 16 * 2 ^ 16 + i.team % 2 ^ 16)

/-- STATUS of a thread (R273). -/
def Thread.status (t : Thread) : Word := w64 (t.depth % 128 * 2 ^ 16 + b2n t.inTrap * 2 + b2n t.priv)

/-- A control register as a thread reads it (R272). -/
def csrReadT (s : State) (t : Thread) (n : Nat) : Word :=
  match n with
  | 0x000 => w64 s.cc
  | 0x001 => w64 t.issued
  | 0x002 => t.id.word
  | 0x004 => teamIdWord s (some t.team)
  | 0x011 => t.srseed.zeroExtend 64
  | 0x012 => t.lutlo
  | 0x013 => t.luthi
  | 0x020 => t.qbind
  | 0x030 => t.status
  | 0x040 => t.tr.tvec
  | 0x041 => t.tr.tcause
  | 0x042 => t.tr.tval
  | 0x043 => t.tr.tpc
  | 0x044 => t.tr.tinfo
  | 0x045 => t.tr.tscratch
  | 0x080 => t.ptbase
  | 0x081 => w64 ((s.part? t.part).elim 0 (·.drainlim))
  | 0x082 => (s.part? t.part).elim 0 (·.clseq)
  | _ => 0

/-- PROG of a gang (R169). -/
def Gang.prog (g : Gang) : Word := w64 (b2n g.modeNone * 2 ^ 16 + g.period % 2 ^ 16)

/-- A control register as a lane of a gang reads it (R270, R272). -/
def csrReadG (s : State) (g : Gang) (lane n : Nat) : Word :=
  match n with
  | 0x000 => w64 s.cc
  | 0x001 => w64 g.issued
  | 0x002 => g.id.word
  | 0x003 => w64 lane
  | 0x004 => teamIdWord s g.team
  | 0x010 => g.prog
  | 0x011 => g.srseed.zeroExtend 64
  | 0x012 => g.lutlo
  | 0x013 => g.luthi
  | 0x080 => g.ptbase
  | _ => 0

/-- A value written to SRSEED: 0 is stored as 1 (R199). -/
def seedOf (v : Word) : BitVec 32 := if v.extractLsb' 0 32 = 0 then 1 else v.extractLsb' 0 32

/-- The writable fields of PTBASE (R24). -/
def ptbaseOf (v : Word) : Word := v &&& 0xFF0FFFFFFFFE0000

/-- The writable fields of QBIND (R276). -/
def qbindOf (v : Word) : Word := v &&& 0x3F1

/-- A control register written by a thread; read-only fields keep their values (R270, R271). -/
def csrWriteT (c : CtxId) (n : Nat) (v : Word) (s : State) : State :=
  match n with
  | 0x011 => s.updThread c fun t => { t with srseed := seedOf v }
  | 0x012 => s.updThread c fun t => { t with lutlo := v }
  | 0x013 => s.updThread c fun t => { t with luthi := v }
  | 0x020 => s.updThread c fun t => { t with qbind := qbindOf v }
  | 0x040 => s.updThread c fun t => { t with tr := { t.tr with tvec := v } }
  | 0x043 => s.updThread c fun t => { t with tr := { t.tr with tpc := v } }
  | 0x045 => s.updThread c fun t => { t with tr := { t.tr with tscratch := v } }
  | 0x080 => s.updThread c fun t => { t with ptbase := ptbaseOf v }
  | 0x081 =>
    match s.thread? c with
    | none => s
    | some t => s.updPart t.part fun p => { p with drainlim := v.toNat % 2 ^ 24 }
  | _ => s

/-- A control register written by a gang (R169, R199). -/
def csrWriteG (c : CtxId) (n : Nat) (v : Word) (s : State) : State :=
  match n with
  | 0x010 => s.updGang c fun g => { g with period := if v.toNat % 2 ^ 16 = 0 then 1 else v.toNat % 2 ^ 16 }
  | 0x011 => s.updGang c fun g => { g with srseed := seedOf v }
  | 0x012 => s.updGang c fun g => { g with lutlo := v }
  | 0x013 => s.updGang c fun g => { g with luthi := v }
  | _ => s

/-- Whether a QBIND value enables a queue to a context that holds no thread of the same team (R276). -/
def qbindBad (s : State) (t : Thread) (v : Word) : Bool :=
  bitAt v.toNat 0 && !(s.threads.any fun u =>
    u.id == { t.id with core := bits v.toNat 9 8, ctx := bits v.toNat 7 4 } && u.team == t.team)

/-- `csrr` (R270). -/
def execCsrr (h : Hd) (xd : Reg) (n : BitVec 12) (s : State) : Res :=
  withCur s
    (fun t =>
      if !t.guard h then endT t.id s
      else if !csrExists false n.toNat then trapT t.id (illegalOp t.pc t.line rVariant) false s
      else if s.busy t.id [t.dst xd.toNat] || s.pushBlocked t [xd.toNat] then parkT t.id .retry s
      else endT t.id (writeX t.id xd.toNat (csrReadT s t n.toNat) s))
    fun g =>
      if !g.xOk [xd.toNat] then trapG g.id (illegalOp g.pc g.line rRegister) false s
      else if (g.active h).isEmpty then endG g.id s
      else if !csrExists true n.toNat then
        gangFaults g.id ((g.active h).map fun l => (l, illegalOp g.pc g.line rVariant)) false s (s.updGang g.id Gang.next)
      else if s.busy g.id ((g.active h).map fun l => if xd = 0 then .none else .pair xd.toNat l) then parkG g.id .retry s
      else endG g.id ((g.active h).foldl (fun s1 l =>
        s1.putDst g.id (if xd = 0 then .none else .pair xd.toNat l) (csrReadG s g l n.toNat)) s)

/-- `csrw` and `csrx` (R270): the checks in their order, then the read and the write as one step. -/
def csrChange (op : CsrOp) (h : Hd) (xd : Reg) (n : BitVec 12) (xa : Reg) (s : State) : Res :=
  withCur s
    (fun t =>
      if !t.guard h then endT t.id s
      else if !csrExists false n.toNat || csrReadOnly n.toNat then trapT t.id (illegalOp t.pc t.line rVariant) false s
      else if csrPrivileged n.toNat && !t.priv then trapT t.id (privTrap t.pc t.line) false s
      else
        match t.readX xa.toNat with
        | none => parkT t.id .retry s
        | some (a, t1) =>
          match s.regErr t.id [t.dst xa.toNat] with
          | some e => trapT t.id (machineTrap e.st e.va) false s
          | none =>
            let old := csrReadT s t n.toNat
            let v := op.value old a
            if n = 0x020 && qbindBad s t v then trapT t.id (illegalOp t.pc t.line rVariant) false s
            else if s.busy t.id [t.dst xd.toNat] || s.pushBlocked t [xd.toNat] then parkT t.id .retry s
            else endT t.id (csrWriteT t.id n.toNat v (writeX t.id xd.toNat old (s.setThread t1))))
    fun g =>
      if !g.xOk [xd.toNat, xa.toNat] then trapG g.id (illegalOp g.pc g.line rRegister) false s
      else
        let act := g.active h
        let all := fun ti => gangFaults g.id (act.map fun l => (l, ti)) false s (s.updGang g.id Gang.next)
        match act with
        | [] => endG g.id s
        | l0 :: _ =>
          if !csrExists true n.toNat || csrReadOnly n.toNat then all (illegalOp g.pc g.line rVariant)
          else if csrPrivileged n.toNat then all (privTrap g.pc g.line)
          else
            match g.readX xa.toNat l0 with
            | none => parkG g.id .retry s
            | some a =>
              match s.regErr g.id [xDst xa.toNat l0] with
              | some e => gangFaults g.id [(l0, machineTrap e.st e.va)] false s (s.updGang g.id Gang.next)
              | none =>
                let old := csrReadG s g l0 n.toNat
                if s.busy g.id (act.map fun l => if xd = 0 then .none else .pair xd.toNat l) then parkG g.id .retry s
                else
                  endG g.id (csrWriteG g.id n.toNat (op.value old a) (act.foldl (fun s1 l =>
                    s1.putDst g.id (if xd = 0 then .none else .pair xd.toNat l) old) s))

/-- `csrw` (R270). -/
def execCsrw (h : Hd) (n : BitVec 12) (xa : Reg) (s : State) : Res := csrChange .write h 0 n xa s
/-- `csrx.swap` (R270). -/
def execCsrxSwap (h : Hd) (xd : Reg) (n : BitVec 12) (xa : Reg) (s : State) : Res := csrChange .swap h xd n xa s
/-- `csrx.set` (R270). -/
def execCsrxSet (h : Hd) (xd : Reg) (n : BitVec 12) (xa : Reg) (s : State) : Res := csrChange .set h xd n xa s
/-- `csrx.clr` (R270). -/
def execCsrxClr (h : Hd) (xd : Reg) (n : BitVec 12) (xa : Reg) (s : State) : Res := csrChange .clr h xd n xa s

end Sys2Proof.Machine
end

