-- ==== Sys2Proof/Machine/Queue.lean ====
section
/-! DEFINITION. Host queues: their registers (R398, R399), packets and their checks (R400 to R402), how each kind starts
(R401, R402), aborts (R404) and completion (R403). -/

namespace Sys2Proof.Machine

def State.queue? (s : State) (q : QueueId) : Option Queue := s.queues.find? fun x => x.id == q

def State.updQueue (s : State) (q : QueueId) (f : Queue → Queue) : State :=
  { s with queues := s.queues.map fun x => if x.id == q then f x else x }

/-! ## Reading under QPT -/

/-- The place behind a virtual address under a queue's PTBASE, with H of its page (R400); the walk sets A and D (R29). -/
def queuePa (part : Nat) (qpt va : Word) (k : AccKind) (s : State) : Option (State × Nat × Bool) :=
  if window va ≠ 0 then none
  else
    match s.part? part with
    | none => none
    | some p =>
      match walk s p qpt va k with
      | .error _ => none
      | .ok l => some ((setAccessed l k s).1, l.pa, bitAt l.pte 8)

/-- n bytes behind pieces of an address range, one for each page. -/
def queueReadAt (part : Nat) (qpt : Word) : List Word → Nat → State → Option (State × List Byte)
  | [], _, s => some (s, [])
  | va :: vs, n, s =>
    let k := min n (65536 - va.toNat % 65536)
    match queuePa part qpt va .load s with
    | none => none
    | some (s1, pa, _) =>
      if (s1.errAt .mem pa k).isSome then none
      else
        match queueReadAt part qpt vs (n - k) s1 with
        | none => none
        | some (s2, bs) => some (s2, readSpace s1 .mem pa k ++ bs)

/-- n bytes read under a queue's PTBASE; none when a page fails translation. -/
def queueRead (part : Nat) (qpt va : Word) (n : Nat) (s : State) : Option (State × List Byte) :=
  queueReadAt part qpt (pagesOf va n) n s

/-- Addresses of which each must translate for its kind of access (R402, check 3). -/
def queueTouch (part : Nat) (qpt : Word) : List (Word × AccKind) → State → Option State
  | [], s => some s
  | (va, k) :: vs, s =>
    match queuePa part qpt va k s with
    | none => none
    | some (s1, _, _) => queueTouch part qpt vs s1

/-! ## Fields of a packet -/

/-- n bytes of a packet from an offset on, little-endian (R400). -/
def Pkt.f (p : Pkt) (off n : Nat) : Nat := leNat ((p.bytes.drop off).take n)

def Pkt.kind (p : Pkt) : Nat := p.f 0 1
def Pkt.flags (p : Pkt) : Nat := p.f 1 1
def Pkt.ident (p : Pkt) : Nat := p.f 2 2
def Pkt.csig (p : Pkt) : Word := w64 (p.f 8 8)

/-- The four words of BODY (R401). -/
def Pkt.body (p : Pkt) (i : Nat) : Word := w64 (p.f (16 + 8 * i) 8)

/-- The signals that a signal wait names (R401). -/
def Pkt.signals (p : Pkt) : List Word := ([0, 1, 2].map p.body).filter fun w => w != 0

/-- The address of ring entry i (R398, R402). -/
def Queue.entry (x : Queue) (i : Nat) : Word := x.qbase + w64 (64 * (i % x.qsize))

/-- Packet i of a queue as its ring holds it. -/
def readPacket (x : Queue) (i : Nat) (s : State) : Option (State × Pkt) :=
  match queueRead x.id.part x.qpt (x.entry i) 64 s with
  | none => none
  | some (s1, bs) =>
    some (s1, { queue := x.id, index := i, va := x.entry i, bytes := bs, started := false, plan := none, launch := none,
                copy := none, done := none })

/-! ## Registers -/

/-- The signals of a wait watched from now on (R404). -/
def watchSignals (x : Queue) (k : Pkt) (s : State) : State :=
  if k.kind ≠ 4 then s
  else
    k.signals.foldl (fun s va =>
      match queuePa x.id.part x.qpt va .load s with
      | none => s
      | some (s1, pa, _) =>
        { s1 with sigs := s1.sigs ++ [⟨x.id, k.index, pa, (tget 0 s1.mem (pa + 7)).msb⟩] }) s

/-- The packets that a doorbell accepts: the signals of their waits are watched (R404, R410). -/
def watchPackets (x : Queue) (lo n : Nat) (s : State) : State :=
  (List.range n).foldl (fun s i =>
    match readPacket x (lo + i) s with
    | none => s
    | some (s1, k) => watchSignals x k s1) s

/-- QWR_DOORBELL (R398): a write below QWR, or more than QSIZE above QRD, is discarded and sets BADWR. -/
def execQwrDoorbell (q : QueueId) (value : Word) (s : State) : Res :=
  match s.queue? q with
  | none => .next s
  | some x =>
    let v := value.toNat
    if v < x.qwr ∨ x.qrd + x.qsize < v then .next (s.updQueue q fun x => { x with badwr := true })
    else .next (watchPackets x x.qwr (v - x.qwr) (s.updQueue q fun x => { x with qwr := v }))

/-- The launches of a queue that have started and not completed are killed (R383, R399). -/
def killQueue (q : QueueId) (s : State) : State :=
  (s.launches.filter fun l => l.queue == q && l.state != .ended).foldl (fun s l => killLaunch l.uid none s) s

/-- A QCTL write (R399): EN and PRIO are kept, BADWR, RESUME and KILL act on a 1. -/
def writeQctl (q : QueueId) (v : Nat) (s : State) : State :=
  let s1 := s.updQueue q fun x =>
    { x with
      en := bitAt v 0, prio := bits v 7 6
      stopped := x.stopped && !bitAt v 2, ringfault := x.ringfault && !bitAt v 2
      badwr := x.badwr && !bitAt v 8 }
  if bitAt v 1 then killQueue q s1 else s1

/-- A ring address or a ring size that R398 does not allow leaves the register with a free value (log 50). -/
def ringValue (ok : Bool) (v : Word) (s : State) : Word := if ok then v else Config.freeWord s.fresh

/-- QUEUE_REGISTER_WRITE (R398): QBASE, QSIZE and QPT are discarded while EN = 1. -/
def execQueueRegisterWrite (q : QueueId) (r : QReg) (value : Word) (s : State) : Res :=
  match s.queue? q with
  | none => .next s
  | some x =>
    match r with
    | .qctl => .next (writeQctl q value.toNat s)
    | .qbase =>
      if x.en then .next s
      else .next ((s.bump 1).updQueue q fun x => { x with qbase := ringValue (value.toNat % 4096 == 0) value s })
    | .qsize =>
      let ok := [64, 128, 256, 512, 1024, 2048, 4096, 8192, 16384, 32768, 65536].contains value.toNat
      if x.en then .next s
      else .next ((s.bump 1).updQueue q fun x => { x with qsize := (ringValue ok value s).toNat })
    | .qpt => if x.en then .next s else .next (s.updQueue q fun x => { x with qpt := ptbaseOf value })

/-- QCTL_RESUME (R399): STOPPED and RINGFAULT are clear. -/
def execQctlResume (q : QueueId) (s : State) : Res :=
  .next (s.updQueue q fun x => { x with stopped := false, ringfault := false })

/-- QCTL_KILL (R399): every started, uncompleted launch of the queue is killed. -/
def execQctlKill (q : QueueId) (s : State) : Res := .next (killQueue q s)

/-- QCTL_BADWR_CLEAR (R399). -/
def execQctlBadwrClear (q : QueueId) (s : State) : Res := .next (s.updQueue q fun x => { x with badwr := false })

/-- PRIVOK_SET (R399): through the physical function. -/
def execPrivokSet (q : QueueId) (on : Bool) (s : State) : Res := .next (s.updQueue q fun x => { x with privok := on })

/-- What QCTL reads (R399): RESUME, KILL and the bits above BADWR read 0. -/
def Queue.qctl (x : Queue) : Word :=
  w64 (b2n x.badwr * 2 ^ 8 + x.prio % 4 * 2 ^ 6 + b2n x.privok * 2 ^ 5 + b2n x.ringfault * 2 ^ 4 + b2n x.stopped * 2 ^ 3 + b2n x.en)

/-- The register at an offset of a queue's page, as it reads (R398); none where there is no register. -/
def Queue.read (x : Queue) (off : Nat) : Option Word :=
  match off with
  | 0x00 => some x.qbase
  | 0x08 => some (w64 x.qsize)
  | 0x10 => some (w64 x.qwr)
  | 0x18 => some (w64 x.qrd)
  | 0x20 => some x.qctl
  | 0x28 => some x.qpt
  | _ => none

/-- The queue and the offset in its page that an offset in a function's queue BAR names (R398). -/
def State.barPlace (s : State) (vf off : Nat) : Option (Queue × Nat) :=
  (s.queues.find? fun x => x.id.vf == vf && x.id.q == off / 0x1000).map fun x => (x, off % 0x1000)

/-- What the host reads at an offset of a function's queue BAR (R395, R396, R398). -/
def State.barRead (s : State) (vf off : Nat) : Option Word := (s.barPlace vf off).bind fun x => x.1.read x.2

/-- What the host writes at an offset of a function's queue BAR (R398): QRD is read-only, QWR is the doorbell. -/
def barWrite (vf off : Nat) (v : Word) (s : State) : Res :=
  match s.barPlace vf off with
  | some (x, 0x00) => execQueueRegisterWrite x.id .qbase v s
  | some (x, 0x08) => execQueueRegisterWrite x.id .qsize v s
  | some (x, 0x10) => execQwrDoorbell x.id v s
  | some (x, 0x20) => execQueueRegisterWrite x.id .qctl v s
  | some (x, 0x28) => execQueueRegisterWrite x.id .qpt v s
  | _ => .next s

/-- What a virtual function reads of its partition's configuration (R396, R397), which it never writes. -/
structure ConfigView where
  pairs : Word
  devRanges : List (Nat × Nat)
  hostVisible : List (Nat × Nat)
  hostRanges : List (Nat × Nat)
  quota : Nat
  claddr : Nat
  tenant : Word
deriving DecidableEq, Repr

/-- PAIRS (R391, R397). -/
def Partition.pairsWord (p : Partition) : Word := w64 ((p.cfg.pairs.map fun x => 2 ^ (4 * x.1 + x.2)).foldl (fun a b => a ||| b) 0)

/-- The configuration that a virtual function sees (R396, R397). -/
def State.vfConfig (s : State) (vf : Nat) : Option ConfigView :=
  (s.vfs.find? fun v => v.num == vf).bind fun v => (s.part? v.part).map fun p =>
    { pairs := p.pairsWord, devRanges := p.cfg.devRanges, hostVisible := p.cfg.hostVisible, hostRanges := p.cfg.hostRanges
      quota := p.quota, claddr := p.cfg.claddr, tenant := p.cfg.tenant }

/-- The counters that a virtual function sees: its own (R396, R412). -/
def State.vfCounters (s : State) (vf : Nat) : Option Counters := (s.vfs.find? fun v => v.num == vf).map (·.counters)

/-! ## The checks of a packet -/

/-- Check 2: a reserved flag, or a field that the kind requires to be zero (R400, R401). -/
def Pkt.reservedSet (k : Pkt) : Bool :=
  let w := fun (i : Nat) => (k.body i).toNat
  8 ≤ k.flags || (3 ≤ k.kind && (k.ident != 0 || k.f 4 4 != 0)) ||
    (match k.kind with
      | 1 => !bitAt k.flags 1 && w 3 != 0
      | 2 => !bitAt k.flags 1 && w 3 != 0
      | 3 => w 3 != 0
      | 4 => w 3 != 0
      | _ =>
        w 2 != 0 || w 3 != 0 || bits (w 1) 15 2 != 0 || bits (w 1) 63 26 != 0 || (w 1 % 4 == 2 && w 0 != 0) ||
          (w 1 % 4 < 2 && bits (w 1) 25 16 != 0))

/-- The addresses that a packet names with the access kind of each (R400, R402), but for those that are read whole. -/
def Pkt.addresses (k : Pkt) : List (Word × AccKind) :=
  match k.kind with
  | 3 => [(k.body 0, .load), (k.body 1, .store)]
  | 4 => k.signals.map fun a => (a, .load)
  | _ => []

/-- CSIG: 8-byte aligned, in a page with H = 1 (R402, R403); 0 is none. -/
def csigOk (x : Queue) (csig : Word) (s : State) : Option State :=
  if csig = 0 then some s
  else if csig.toNat % 8 ≠ 0 then none
  else
    match queuePa x.id.part x.qpt csig .store s with
    | none => none
    | some (s1, _, h) => if h then some s1 else none

/-- A kernel header with the entry line that follows it: the header's bytes and the line's head count (R225, R226). -/
def readHeader (x : Queue) (entry : Word) (s : State) : Option (State × List Byte × Nat) :=
  let line := w64 (entry.toNat / 64 * 64)
  match queueRead x.id.part x.qpt (line - 64) 64 s with
  | none => none
  | some (s1, hd) =>
    match queueRead x.id.part x.qpt line 64 s1 with
    | none => none
    | some (s2, l) => some (s2, hd, bits (leNat l) 24 20)

/-- The seeds of a seed table (R401), none where check 10 refuses an entry for its bits. -/
def parseSeeds (ws : List Nat) : Nat → Option (List (Nat × Nat × Word))
  | 0 => some []
  | n + 1 =>
    match ws with
    | a :: f :: rest =>
      if bits a 15 10 ≠ 0 ∨ bits a 63 32 ≠ 0 then none
      else (parseSeeds rest n).map fun l => (bits a 9 0, bits a 31 16, w64 f) :: l
    | _ => none

/-- Check 10: every seed names an installed location, a team of the launch and a folio of the location's depth (R402). -/
def seedOk (g : Graph) (teams : Nat) (x : Nat × Nat × Word) : Bool :=
  match g.locs[x.1]? with
  | none => false
  | some l => !l.deleted && x.2.1 < teams && folioOk x.2.2 && folioDepth x.2.2 == l.depth

/-- The instance in which a seed is counted (R401): the named team's, or the one of the location's level; the cluster is the
partition's lowest (log 51). -/
def seedInst (p : Partition) (uid loc team : Nat) : Inst :=
  instAt (p.graph.level loc) p.cfg.num (((List.range 12).find? fun c => !(p.quarters c).isEmpty).getD 0) (some ⟨uid, team⟩)

/-- Whether the count of every seed stays within the limit of R141, each after those before it. -/
def seedsWithin (s : State) (p : Partition) (seeds : List (Nat × Nat × Word)) : Bool :=
  (s.overLimit p.cfg.num [] (seeds.map fun x => (0, (⟨seedInst p s.nextId x.1 x.2.1, x.1, x.2.2⟩ : CountPt)))).isEmpty

/-- The number of quarters that a partition holds in each of its clusters. -/
def Partition.widths (p : Partition) : List Nat :=
  ((List.range 12).map fun c => (p.quarters c).length).filter fun n => n != 0

/-- Check 5 (R401, R402). -/
def shapeOk (p : Partition) (h : KHdr) (teams threads gangs : Nat) : Bool :=
  let q := p.widths.foldl min 4
  1 ≤ teams && teams ≤ 768 && (h.corows == 0 || teams == h.corows * h.cocols) &&
    (match h.kind with
      | 0 => 1 ≤ threads && threads ≤ 16 * q && gangs == 0
      | 1 => 1 ≤ gangs && gangs ≤ 4 * q && threads == 0
      | _ => threads == 0 && gangs == 0)

/-- Check 8 (R50, R153, R164, R226): one team fits the quarters of one cluster. -/
def teamFits (p : Partition) (l : Launch) : Bool :=
  let q := p.widths.foldl max 0
  l.hdr.scratch + l.regBytes ≤ 2 ^ 18 * q && l.barrels + (if l.trapsvc = 0 then 0 else 1) ≤ 16 * q &&
    l.gangs * l.hdr.physRegs ≤ 512 * q && l.gangs * l.hdr.acc ≤ 2 * q

/-- What a packet asks for: a launch, or nothing that must be kept. -/
abbrev Checked := State × Except Nat (Option Launch)

/-- Checks 4 to 10 of a launch whose headers and seed words have been read (R402). -/
def checkLaunch (x : Queue) (p : Partition) (k : Pkt) (hd : List Byte) (heads : Nat) (svc : Option (List Byte × Nat))
    (seeds : Except Unit (List (Nat × Nat × Word))) (s : State) : Except Nat (Option Launch) :=
  let h := headerOf hd
  let sh := svc.map fun v => headerOf v.1
  let shape := k.f 4 4
  let l : Launch :=
    { uid := 0, part := p.cfg.num, queue := x.id, index := k.index, ident := k.ident, hdr := h
      entry := w64 ((k.body 0).toNat / 64 * 64 + h.entry), ptbase := x.qpt, teams := bits shape 15 0
      threads := bits shape 23 16, gangs := bits shape 31 24
      trapsvc := sh.elim 0 fun v => w64 ((k.body 1).toNat / 64 * 64 + v.entry), trapD := sh.elim 0 (·.windows)
      arg := if k.kind = 1 then some (k.body 2) else none, prio := x.prio, priv := bitAt k.flags 0
      expect := if bitAt k.flags 1 then some (k.body 3) else none, state := .placing, placed := 0, startedAt := s.cc
      origin := none, exits := [], killed := none, seeds := match seeds with | .ok l => l | .error _ => [] }
  if !headerValid hd || h.kind == 2 || heads ≤ h.entry then .error 4
  else if svc.elim false fun v => !headerValid v.1 || (headerOf v.1).kind != 3 || (headerOf v.1).cls != 15 || v.2 ≤ (headerOf v.1).entry
  then .error 4
  else if !shapeOk p h l.teams l.threads l.gangs then .error 5
  else if s.launches.any fun y => y.part == p.cfg.num && y.ident == k.ident && y.state != .ended then .error 6
  else if l.priv && !x.privok then .error 7
  else if !teamFits p l then .error 8
  else if l.expect.elim false fun e => e.toNat < p.clseq.toNat then .error 9
  else
    match seeds with
    | .error _ => .error 10
    -- a count limit refuses the packet (R141), with check 10 (log 90)
    | .ok ss => if ss.all (seedOk p.graph l.teams) && seedsWithin s p ss then .ok (some l) else .error 10

/-- The words of a seed table (R401): the whole of it must translate, unless its count is too large. -/
def readSeeds (x : Queue) (k : Pkt) (s : State) : Option (State × Except Unit (List (Nat × Nat × Word))) :=
  if k.kind ≠ 2 then some (s, .ok [])
  else
    match queueRead x.id.part x.qpt (k.body 2) 8 s with
    | none => none
    | some (s1, nb) =>
      let n := leNat nb
      if 4096 < n then some (s1, .error ())
      else
        match queueRead x.id.part x.qpt (k.body 2 + 8) (16 * n) s1 with
        | none => none
        | some (s2, bs) =>
          some (s2, match parseSeeds (words8 bs 0 (2 * n)) n with | none => .error () | some l => .ok l)

/-- A launch packet from check 3 on (R402). -/
def checkLaunchPacket (x : Queue) (p : Partition) (k : Pkt) (s : State) : Checked :=
  match readHeader x (k.body 0) s with
  | none => (s, .error 3)
  | some (s1, hd, heads) =>
    match (if k.body 1 = 0 then some (s1, none) else (readHeader x (k.body 1) s1).map fun r => (r.1, some r.2)) with
    | none => (s, .error 3)
    | some (s2, svc) =>
      match readSeeds x k s2 with
      | none => (s, .error 3)
      | some (s3, seeds) => (s3, checkLaunch x p k hd heads svc seeds s3)

/-- A graph descriptor read under QPT (R127, R401). -/
def queueDescriptor (x : Queue) (va : Word) (s : State) : Option (State × List Byte) :=
  match queueRead x.id.part x.qpt va 32 s with
  | none => none
  | some (s1, hd) =>
    match queueRead x.id.part x.qpt (va + 32) (8 * (leNat ((hd.drop 8).take 2) + leNat ((hd.drop 12).take 2))) s1 with
    | none => none
    | some (s2, rest) => some (s2, hd ++ rest)

/-- The checks of R402 in their order. -/
def checkPacket (x : Queue) (p : Partition) (k : Pkt) (s : State) : Checked :=
  if k.kind = 0 ∨ 5 < k.kind then (s, .error 1)
  else if k.reservedSet then (s, .error 2)
  else
    match csigOk x k.csig s with
    | none => (s, .error 3)
    | some s1 =>
      match queueTouch x.id.part x.qpt k.addresses s1 with
      | none => (s, .error 3)
      | some s2 =>
        let priv := bitAt k.flags 0 && !x.privok
        if k.kind ≤ 2 then checkLaunchPacket x p k s2
        else if k.kind = 5 && (k.body 1).toNat % 4 < 2 then
          match queueDescriptor x (k.body 0) s2 with
          | none => (s, .error 3)
          | some (s3, _) => (s3, if priv then .error 7 else .ok none)
        else if priv then (s2, .error 7)
        else
          (s2, if (k.kind == 3 && 2 ^ 32 < (k.body 2).toNat) || (k.kind == 5 && (k.body 1).toNat % 4 == 3) then .error 11 else .ok none)

/-! ## Starting -/

/-- The packet that has passed its checks and not yet started. -/
def State.waitingPkt (s : State) (q : QueueId) : Option Pkt := s.pkts.find? fun k => k.queue == q && !k.started

/-- Whether a launch whose placement was rolled back stands at the head of a queue again (R176). -/
def State.launchWaits (s : State) (q : QueueId) : Bool := s.launches.any fun l => l.queue == q && l.state == .waiting

/-- PACKET_START (R402): the next packet is read, once every earlier one has completed if it is marked BARRIER, and checked; one
that is refused completes at once, the others start as their kind says. -/
def execPacketStart (q : QueueId) (s : State) : Res :=
  match s.queue? q, s.part? q.part with
  | some x, some p =>
    if !x.en || x.stopped || p.stopped || p.held || x.qwr ≤ x.qrd || (s.waitingPkt q).isSome || s.launchWaits q then .next s
    else
      match readPacket x x.qrd s with
      | none => .next (s.updQueue q fun x => { x with stopped := true, ringfault := true })
      | some (s1, k) =>
        if bitAt k.flags 2 && s.pkts.any fun y => y.queue == q then .next s
        else
          match checkPacket x p k s1 with
          | (s2, .error n) =>
            .next ({ s2 with pkts := s2.pkts ++ [{ k with started := true, done := some ⟨2, n, 0⟩ }] }.updQueue q
              fun x => { x with qrd := x.qrd + 1 })
          | (s2, .ok l) => .next (watchSignals x k { s2 with pkts := s2.pkts ++ [{ k with plan := l }] })
  | _, _ => .next s

/-- The waiting packet of a queue started: QRD stands past it (R402). -/
def startPkt (q : QueueId) (f : Pkt → Pkt) (s : State) : State :=
  let mine := fun (w : SigWatch) => w.queue == q && (s.waitingPkt q).any fun k => k.index == w.index
  { s with
    pkts := s.pkts.map fun (k : Pkt) => if k.queue = q ∧ k.started = false then f { k with started := true } else k
    sigs := s.sigs.filter fun w => !mine w }.updQueue q fun x => { x with qrd := x.qrd + 1 }

/-- Whether the queue's waiting packet is of this kind and may start. -/
def State.ready? (s : State) (q : QueueId) (kind : Nat) : Option (Queue × Pkt) :=
  match s.queue? q, s.waitingPkt q with
  | some x, some k =>
    if x.en && !x.stopped && !(s.part? q.part).elim true (fun p => p.stopped || p.held) && !s.launchWaits q && k.kind == kind then
      some (x, k)
    else none
  | _, _ => none

/-- A launch's seeds counted and put on their way as messages without payload (R140, R401); those of a SYSTEM instance that
another device aggregates are forwarded to it (R144). The sender that such a message names is not stated (log 52). -/
def seedLaunch (l : Launch) (s : State) : State :=
  match s.part? l.part with
  | none => s
  | some p =>
    let pts := l.seeds.map fun x => (x, (⟨seedInst p l.uid x.1 x.2.1, x.1, x.2.2⟩ : CountPt))
    let away := fun (x : (Nat × Nat × Word) × CountPt) => x.2.inst == .system l.part && s.aggregator != s.jobDevice
    let s0 := { s with devOut := s.devOut ++ (pts.filter away).map fun (x : (Nat × Nat × Word) × CountPt) => (⟨x.2, 1, []⟩ : Change) }
    let s1 := s0.updPart l.part fun p => s.applyBatch p ((pts.filter fun x => !away x).map fun (x : (Nat × Nat × Word) × CountPt) => (⟨x.2, 1, []⟩ : Change))
    pts.foldl (fun s x =>
      { s.bump 2 with
        nextId := s.nextId + 1
        msgs := s.msgs ++ [{ id := s.nextId, cls := (p.graph.locs[x.1.1]?).elim 0 (·.cls), part := l.part, launch := some l.uid,
                             team := x.1.2.1, cluster := none, pt := some x.2, loc := w64 x.1.1, folio := x.1.2.2, payload := [],
                             sender := Config.freeWord s.fresh, senderTeam := Config.freeWord (s.fresh + 1),
                             heldAt := none, held := false, gang := none, dev := none, origin := none }] }) s1

/-- A launch accepted by the work distributor (R57, R393, R401, R402): its instruction lines are fetched anew, its seeds
counted; it is held while its expected colophon number is above CLSEQ. -/
def startLaunch (q : QueueId) (l0 : Launch) (s : State) : State :=
  let seq := (s.part? l0.part).elim 0 (·.clseq)
  let l := { l0 with uid := s.nextId, startedAt := s.cc,
                     state := if l0.expect.elim false fun e => seq.toNat < e.toNat then .held else .placing }
  let s1 := startPkt q (fun k => { k with launch := some l.uid, plan := none }) s
  seedLaunch l { s1 with
    nextId := s.nextId + 1, launches := s1.launches ++ [l]
    icache := s1.icache.filter fun i => i.part != l.part
    codeOld := s1.codeOld.filter fun x => !((s1.part? l.part).elim true fun p => inRanges p.cfg.devRanges x.1 || hostBase ≤ x.1) }

/-- LAUNCH_PACKET (R401, R402). -/
def execLaunchPacket (q : QueueId) (s : State) : Res :=
  match s.ready? q 1 with
  | none => .next s
  | some (_, k) => match k.plan with | none => .next s | some l => .next (startLaunch q l s)

/-- FOLIO_LAUNCH_PACKET (R401, R402). -/
def execFolioLaunchPacket (q : QueueId) (s : State) : Res :=
  match s.ready? q 2 with
  | none => .next s
  | some (_, k) => match k.plan with | none => .next s | some l => .next (startLaunch q l s)

/-- EXPECTED_SEQ_RELEASE (R393): a launch held for colophon E issues once CLSEQ = E, and is refused when CLSEQ > E. -/
def execExpectedSeqRelease (launch : Nat) (s : State) : Res :=
  match s.launch? launch with
  | none => .next s
  | some l =>
    match s.part? l.part, l.expect with
    | some p, some e =>
      if l.state ≠ .held ∨ p.held ∨ p.clseq.toNat < e.toNat then .next s
      else if p.clseq = e then .next (s.updLaunch launch fun l => { l with state := .placing, startedAt := s.cc })
      else
        .next (completeLaunch launch ⟨2, 9, 0⟩
          ((dropLaunchMsgs launch 0 0 s).updLaunch launch fun l => { l with state := .ended }))
    | _, _ => .next s

/-- The launch of a restartable kernel run again from its start on the remaining tiles (R383, R410). -/
def restartLaunch (u : Nat) (s : State) : State :=
  match s.launch? u with
  | none => s
  | some l =>
    let ts := s.teams.filter fun t => t.id.launch == u && t.state != .ended
    let s1 := dropLaunchMsgs u 0 0 (ts.foldl (fun s t => killTeam t s) s)
    seedLaunch l ({ s1 with teams := s1.teams.filter fun t => t.id.launch != u }.updLaunch u fun l =>
      { l with state := .placing, placed := 0, startedAt := s.cc, origin := none, exits := [] })

/-- What a signal reads now, as a signed word; none when it fails translation. -/
def readSignals (x : Queue) (k : Pkt) (s : State) : Option (List Int) :=
  k.signals.mapM fun va => (queueRead x.id.part x.qpt va 8 s).map fun r => (BitVec.ofNat 64 (leNat r.2)).toInt

/-- Whether a signal of a wait has read negative since it was accepted (R404). -/
def State.sawNegative (s : State) (k : Pkt) : Bool :=
  s.sigs.any fun w => w.queue == k.queue && w.index == k.index && w.neg

/-- SIGNAL_WAIT_PACKET (R402): it starts, and completes, when every named signal reads 0. -/
def execSignalWaitPacket (q : QueueId) (s : State) : Res :=
  match s.ready? q 4 with
  | none => .next s
  | some (x, k) =>
    match readSignals x k s with
    | none => .next s
    | some vs =>
      if !s.sawNegative k && vs.all (· == 0) then .next (startPkt q (fun k => { k with done := some ⟨0, 0, 0⟩ }) s)
      else .next s

/-- Packets of a queue aborted in index order, up to QWR; one whose entry cannot be read is a ring fault there (R402, R404). -/
def abortFrom (x : Queue) (i : Nat) : Nat → State → State
  | 0, s => s.updQueue x.id fun y => { y with qrd := i }
  | n + 1, s =>
    match readPacket x i s with
    | none => s.updQueue x.id fun y => { y with qrd := i, ringfault := true }
    | some (s1, k) =>
      abortFrom x (i + 1) n { s1 with pkts := s1.pkts ++ [{ k with started := true, done := some ⟨3, 0, 0⟩ }] }

/-- SIGNAL_ABORT (R404): a signal that reads negative before the wait starts aborts it and every later packet of the queue. -/
def execSignalAbort (q : QueueId) (s : State) : Res :=
  match s.ready? q 4 with
  | none => .next s
  | some (x, k) =>
    if !(s.sawNegative k || (readSignals x k s).elim false fun vs => vs.any (· < 0)) then .next s
    else
      let s1 := { s with
        pkts := s.pkts.map fun y =>
          if y.queue = q ∧ y.started = false then { y with started := true, done := some ⟨3, 0, 0⟩ } else y
        sigs := s.sigs.filter fun w => w.queue != q }
      .next ((abortFrom x (x.qrd + 1) (x.qwr - (x.qrd + 1)) s1).updQueue q fun y => { y with stopped := true })

/-- A copy packet that has met a fault (R403): its destination bytes not yet written are undefined, and its trap goes to the
function's error queue. -/
def failCopy (x : Queue) (k : Pkt) (ti : TrapInfo) (dst : Word) (n : Nat) (s : State) : State :=
  let s1 := (pagesOf dst n).foldl (fun s va =>
    match queuePa x.id.part x.qpt va .store s with
    | none => s
    | some (s1, pa, _) =>
      freeBytes .mem pa (min (65536 - va.toNat % 65536) (n - (va.toNat - dst.toNat))) s1) s
  logError x.id ti 0 { s1 with pkts := s1.pkts.map fun y =>
    if y.queue = k.queue ∧ y.index = k.index then { y with copy := none, done := some ⟨1, ti.cause, ti.tval⟩ } else y }

/-- The trap of a copy packet's access (R403), if it has one, else the place. -/
def copyPlace (x : Queue) (va : Word) (k : AccKind) (s : State) : Except TrapInfo (State × Nat) :=
  if window va ≠ 0 then .error ⟨0x06, va, memInfo 0 k rBadWindow⟩
  else
    match s.part? x.id.part with
    | none => .error ⟨0x06, va, memInfo 1 k rNotGranted⟩
    | some p =>
      match walk s p x.qpt va k with
      | .error e => .error (e.trap va k)
      | .ok l => .ok ((setAccessed l k s).1, l.pa)

/-- The next 256 bytes, or less, of a copy packet (R106, R401, R403). -/
def copyBurst (x : Queue) (k : Pkt) (src dst : Word) (n : Nat) (s : State) : State :=
  let m := min (min 256 n) (min (65536 - src.toNat % 65536) (65536 - dst.toNat % 65536))
  match copyPlace x src .load s with
  | .error ti => failCopy x k ti dst n s
  | .ok (s1, a) =>
    match s1.errAt .mem a m with
    | some e => failCopy x k (machineTrap e.st src) dst n s1
    | none =>
      match copyPlace x dst .store s1 with
      | .error ti => failCopy x k ti dst n s1
      | .ok (s2, b) =>
        let s3 := writeOutside b (readSpace s2 .mem a m) s2
        { s3 with pkts := s3.pkts.map fun y =>
            if y.queue = k.queue ∧ y.index = k.index then
              { y with copy := if m = n then none else some (src + w64 m, dst + w64 m, n - m)
                       done := if m = n then some ⟨0, 0, 0⟩ else none }
            else y }

/-- COPY_PACKET (R401, R402): the copy is handed to the streamers; each further event moves its next burst. -/
def execCopyPacket (q : QueueId) (s : State) : Res :=
  match s.ready? q 3 with
  | some (_, k) =>
    let n := (k.body 2).toNat
    .next (startPkt q (fun k => { k with copy := if n = 0 then none else some (k.body 0, k.body 1, n),
                                         done := if n = 0 then some ⟨0, 0, 0⟩ else none }) s)
  | none =>
    match s.queue? q, s.pkts.find? fun k => k.queue == q && k.copy.isSome with
    | some x, some k => (match k.copy with | none => .next s | some (a, b, n) => .next (copyBurst x k a b n s))
    | _, _ => .next s

/-- GRAPH_INSTALL_PACKET (R401, R402): the walk of one partition at a time (R316) is handed the packet's operation. -/
def execGraphInstallPacket (q : QueueId) (s : State) : Res :=
  match s.ready? q 5 with
  | none => .next s
  | some (x, k) =>
    if (s.part? q.part).elim true (·.walk.isSome) then .next s
    else
      let op := (k.body 1).toNat % 4
      let (s1, bs) := if op = 2 then (s, []) else (queueDescriptor x (k.body 0) s).getD (s, [])
      .next (startWalk q.part op (bits (k.body 1).toNat 25 16) bs (.packet q k.index) (startPkt q (fun k => k) s1))

/-! ## Completion -/

/-- STATUS (R403). -/
def Completion.word (c : Completion) : Word := w64 (c.status % 256 + c.check % 256 * 256)

/-- An 8-byte word written under a queue's PTBASE; nothing where that fails. -/
def queueStore (x : Queue) (va v : Word) (s : State) : State :=
  match queuePa x.id.part x.qpt va .store s with
  | none => s
  | some (s1, pa, _) => writeOutside pa (toBytes 8 v.toNat) s1

/-- The completion signal (R403): on OK one less, on any other status −1. -/
def actOnSignal (x : Queue) (csig : Word) (ok : Bool) (s : State) : State :=
  match csigOk x csig s with
  | none => s
  | some _ =>
    if csig = 0 then s
    else
      match queuePa x.id.part x.qpt csig .store s with
      | none => s
      | some (s1, pa, _) =>
        let old := BitVec.ofNat 64 (leNat (rdBytes s1.mem pa 8))
        writeOutside pa (toBytes 8 (if ok then old - 1 else (-1 : Word)).toNat) s1

/-- PACKET_COMPLETION (R403): the oldest packet of a queue that has not completed writes STATUS and RESULT, then acts on its
signal; the queue's vector is raised (R395). -/
def execPacketCompletion (q : QueueId) (s : State) : Res :=
  match s.queue? q, s.pkts.find? fun k => k.queue == q with
  | some x, some k =>
    match k.done with
    | none => .next s
    | some d =>
      let s1 := queueStore x (k.va + 56) d.result (queueStore x (k.va + 48) d.word s)
      let s2 := actOnSignal x k.csig (d.status == 0) s1
      .next { s2 with pkts := s2.pkts.erase k, out := s2.out ++ [.msix q] }
  | _, _ => .next s

end Sys2Proof.Machine
end

