-- ==== Sys2Proof/Machine/Tenancy.lean ====
section
/-! DEFINITION. Killing by system software (R383), the scrub engine and tenant switches (R389 to R394), retired tiles (R394,
R397). -/

namespace Sys2Proof.Machine

/-- KILL (R383): system software kills a thread or a grid gang, and with it its team and its launch. -/
def execKill (c : CtxId) (s : State) : Res :=
  match s.thread? c with
  | some t => .next (killLaunch t.team.launch none s)
  | none =>
    match (s.gang? c).bind (·.team) with
    | some i => .next (killLaunch i.launch none s)
    | none => .next s

/-! ## Scrubbing a partition -/

/-- The clusters in which a partition holds quarters. -/
def Partition.clusters (p : Partition) : List Nat := (List.range 12).filter fun c => !(p.quarters c).isEmpty

/-- The tile ranks of a cluster that the firmware has not retired. -/
def State.goodTiles (s : State) (cl : Nat) : List Nat := (List.range 64).filter fun t => !s.retired.contains (cl, t)

/-- Every team of the outgoing tenant is ended (R389, step 1); a launch held for a later colophon is none of them (R393). No
completion is reported. -/
def endTenant (part : Nat) (s : State) : State :=
  let gone := s.launches.filter fun l => l.part == part && l.state != .held
  let s1 := gone.foldl (fun s l => killLaunch l.uid none s) s
  { s1 with
    launches := s1.launches.filter fun l => l.part != part || l.state == .held
    pkts := s1.pkts.filter fun k => k.queue.part != part || k.launch.elim false fun u =>
      s1.launches.any fun l => l.uid == u && l.state == .held
    sigs := s1.sigs.filter fun w => w.queue.part != part }

/-- Classes 0, 1, 7, 9, 10 and 12 of R390: contexts with their registers, gangs, the galley, channels, messages. -/
def scrubContexts (part : Nat) (s : State) : State :=
  let ids := ((s.threads.filter fun t => t.part == part).map (·.id)) ++ ((s.gangs.filter fun g => g.part == part).map (·.id))
  let teams := (s.teams.filter fun t => t.part == part).map (·.id)
  { s with
    threads := s.threads.filter fun t => t.part != part
    gangs := s.gangs.filter fun g => g.part != part
    teams := s.teams.filter fun t => t.part != part
    saved := s.saved.filter fun v => !teams.contains v.id
    ops := s.ops.filter fun o => !ids.contains o.owner
    engine := s.engine.filter fun e => !ids.contains e.1
    msgs := s.msgs.filter fun m => m.part != part
    keys := s.keys.filter fun k => k.part != part
    keyQueue := s.keyQueue.filter fun k => k.part != part
    launchRecs := s.launchRecs.filter fun r => r.part != part
    launches := s.launches.map fun l => if l.part = part then { l with seeds := [] } else l
    copyReqs := s.copyReqs.filter fun r => !teams.contains r.1
    races := s.races.filter fun r => !teams.contains r.team
    wide := s.wide.filter fun w => w.part != part
    errs := s.errs.filter fun e => e.reg.elim true fun r => !ids.contains r.1 }

/-- Class 8 of R390: the installed graph, its counts, and the changes on their way, those of teams whose launches are gone
among them. -/
def scrubCounts (part : Nat) (s : State) : State :=
  let mine := fun (c : Change) => match c.pt.inst with
    | .team t => (s.launch? t.launch).elim true fun l => l.part == part
    | i => s.instPart i == part
  let keep := fun (b : Batch) => b.filter fun c => !mine c
  { s with
    tileOut := s.tileOut.filter fun x => !mine x.2.2
    clusterIn := s.clusterIn.map fun (x : Nat × Batch) => (x.1, keep x.2)
    clusterOut := s.clusterOut.filter fun x => !mine x.2
    devIn := s.devIn.map keep
    devOut := keep s.devOut
    aggIn := s.aggIn.map keep, sentBatches := s.sentBatches.map fun (x : Nat × Batch) => (x.1, keep x.2) }.updPart part fun p =>
      { p with graph := Graph.empty, walk := none, opened := [], counts := [], announced := [] }

/-- Classes 2, 4 (pinned ways) and 13 of R390: scratchpad banks, pinned ways and device memory zero, without errors. -/
def scrubStorage (p : Partition) (s : State) : State :=
  let n := p.cfg.num
  let s1 := p.clusters.foldl (fun s c => scrubPinned n c (scrubScratch n c (s.goodTiles c) s)) s
  { s1 with
    mem := p.cfg.devRanges.foldl (fun m (r : Nat × Nat) => tclear r.1 (r.1 + r.2) m) s1.mem
    errs := s1.errs.filter fun e =>
      !(e.reg.isNone && (match e.st with
        | .scratchpad => p.cfg.pairs.contains (e.key * 8 / 2 ^ 26, e.key * 8 / 2 ^ 18 % 4)
        | .clusterCache =>
          if e.key < 2 ^ 60 then inRanges p.cfg.devRanges (e.key * 32)
          else p.cfg.pairs.contains ((e.key - 2 ^ 60) * 32 / 2 ^ 25, (e.key - 2 ^ 60) * 32 / 2 ^ 21 % 16 / 4)
        | _ => inRanges p.cfg.devRanges (e.key * 32))) }.updPart n fun p => { p with pins := [] }

/-- Classes 3 to 6 of R390: caches, directories, TLBs and what waits in them. -/
def scrubCaches (p : Partition) (s : State) : State :=
  let n := p.cfg.num
  let line := fun (l : Nat) => inRanges p.cfg.devRanges (l * 32)
  let region := fun (r : Nat) => inRanges p.cfg.devRanges (r * 4096)
  { s with
    wl1 := s.wl1.filter fun l => l.part != n
    tlb := s.tlb.filter fun e => e.part != n
    utlb := s.utlb.filter fun m => m.entry.part != n
    missq := s.missq.filter fun m => m.part != n
    icache := s.icache.filter fun l => l.part != n
    l1 := s.l1.filter fun l => !line l.line
    ccache := s.ccache.filter fun l => !inRanges p.cfg.devRanges (l.block * 256)
    home := s.home.filter fun h => !line h.line
    coh := s.coh.filter fun m => !line m.line
    ovf := s.ovf.filter fun r => !line r.line
    ovfEvents := s.ovfEvents.filter fun e => !line e.line
    region := s.region.filter fun e => !region e.region
    reg := s.reg.filter fun m => !region m.region
    merges := s.merges.filter fun m => !inRanges p.cfg.devRanges (m.block * 256) }

/-- Steps 1 and 2 of R389. -/
def scrubPartition (p : Partition) (s : State) : State :=
  let n := p.cfg.num
  scrubCaches p (scrubStorage p (scrubContexts n (scrubCounts n (endTenant n s))))

/-! ## Colophons -/

/-- Device time in ns since the release from reset (R391): a nominal cc of the time base is 0.625 ns (R2, R120). -/
def State.timeNs (s : State) : Nat := s.time * 5 / 8

/-- The 128-byte body of a colophon (R391). -/
def colophonBody (s : State) (p : Partition) (seq : Nat) (out inc : Word) (start stop : Nat) : List Byte :=
  let tiles := ((List.range 64).filter fun t => p.clusters.all fun c => !s.retired.contains (c, t)).foldl (fun a t => a + 2 ^ t) 0
  toBytes 4 0x4850_4C43 ++ toBytes 2 1 ++ toBytes 1 p.cfg.num ++ toBytes 1 0 ++ (Config.sha384 Config.serialNumber).take 8 ++
    toBytes 8 seq ++ toBytes 8 out.toNat ++ toBytes 8 inc.toNat ++ toBytes 4 0x3FFF ++ toBytes 4 0 ++ toBytes 8 p.pairsWord.toNat ++
    toBytes 8 tiles ++ toBytes 8 start ++ toBytes 8 stop ++ Config.sha384 s.fw.running

/-- A colophon: the body with its signatures (R391). -/
def signed (body : List Byte) : List Byte := body ++ Config.ed25519 body ++ Config.mlDsa65 body

/-- The last scrub sequence number of a partition number (R392). -/
def State.seqOf (s : State) (part : Nat) : Nat :=
  match s.scrubSeq.find? fun x => x.1 == part with
  | some x => x.2
  | none => 0

/-- The longest time of steps 2 and 3 in ns (R389): 10 ms, and 5 ms for each 48 GiB of device memory or part of it. -/
def scrubBound (p : Partition) : Nat :=
  10_000_000 + 5_000_000 * (((p.cfg.devRanges.map (·.2)).sum + 48 * 2 ^ 30 - 1) / (48 * 2 ^ 30))

/-- A time in ns passes: fewer cc than nominal ones while the clocks are throttled (R2, R120). -/
def State.passNs (s : State) (ns : Nat) : State :=
  let n := ns * 8 / 5
  s.passTo (s.cc + (n - if s.throttled then min n (Config.throttleExtra s.cc) else 0))

/-- Step 4 of R389: the colophon with the next sequence number is written, then CLSEQ advances (R391, R392); steps 2 and 3 took
a time within their bound. -/
def writeColophon (p : Partition) (out inc : Word) (s0 : State) : State :=
  let n := p.cfg.num
  let s := (s0.bump 1).passNs (Config.freePick s0.fresh % (scrubBound p + 1))
  let seq := s.seqOf n + 1
  let s1 := writeOutside p.cfg.claddr (signed (colophonBody s p seq out inc s0.timeNs s.timeNs)) s
  { s1 with scrubSeq := (n, seq) :: s1.scrubSeq.filter fun x => x.1 != n }.updPart n fun p =>
    { p with
      clseq := w64 seq, held := false, drainlim := 0x7D00, cfg := { p.cfg with tenant := inc }
      counters := { p.counters with coloph := p.counters.coloph + 1 } }

/-- Whether two lists of ranges meet. -/
def rangesMeet (a b : List (Nat × Nat)) : Bool := a.any fun x => b.any fun y => x.1 < y.1 + y.2 && y.1 < x.1 + x.2

/-- Whether a configuration keeps to R3, R22, R23 and R397, on its own. -/
def configOk (c : PartConfig) : Bool :=
  c.num < 48 && !c.pairs.isEmpty && c.pairs.Nodup && (c.pairs.all fun x => x.1 < 12 && x.2 < 4) &&
    c.devRanges.length ≤ 16 && c.hostRanges.length ≤ 16 &&
    (c.devRanges.all fun r => r.1 % 2 ^ 29 == 0 && r.2 % 2 ^ 29 == 0 && r.1 + r.2 ≤ 0x90_0000_0000) &&
    (c.hostRanges.all fun r => hostBase ≤ r.1) && (c.hostVisible.all fun r => c.devRanges.contains r) &&
    c.claddr % 4096 == 0 && inRanges c.hostVisible c.claddr

/-- Whether a new configuration leaves the resources of the others alone (R397). -/
def configsApart (a b : PartConfig) : Bool :=
  a.num != b.num && !(a.pairs.any b.pairs.contains) && !rangesMeet a.devRanges b.devRanges

/-- A partition with another configuration (R397): its QUOTA is the sum of its ranges. -/
def Partition.configured (p : Partition) (cfg : PartConfig) : Partition :=
  { p with cfg := cfg, quota := (cfg.devRanges.map (·.2)).sum, slice := cfg.slice }

/-- TENANT_SWITCH (R389 to R394, R397): pairs and ranges change only here, to those of the configuration given, which are scrubbed
as the old ones are. When a step fails, the partition stays held, no colophon is written and the firmware reports it. -/
def execTenantSwitch (part : Nat) (incoming : Incoming) (fails : Bool) (s : State) : Res :=
  let cfg := incoming.cfg
  match s.part? part with
  | none => .next s
  | some p =>
    if cfg.elim false fun c => c.num != part || !configOk c || !s.parts.all fun q => q.cfg.num == part || configsApart c q.cfg then
      .next s
    else
      let q := cfg.elim p p.configured
      let s1 := (scrubPartition p s).updPart part fun x => cfg.elim x x.configured
      let s2 := if cfg.isNone then s1 else scrubPartition q s1
      if fails then
        .next ({ s2.updPart part fun p => { p with held := true } with
          out := s2.out ++ [Output.scrubFailure part] } : State)
      else .next (writeColophon q p.cfg.tenant incoming.tenant s2)

/-- TILE_RETIRE (R394, R397): the tile is outside every partition of its cluster. -/
def execTileRetire (cluster tile : Nat) (s : State) : Res :=
  .next (if s.retired.contains (cluster, tile) then s else { s with retired := s.retired ++ [(cluster, tile)] })

end Sys2Proof.Machine
end

