-- ==== Sys2Proof/Machine/Device.lean ====
section
/-! DEFINITION. The debug port (R405), device links (R406, R407), faults of parts and devices (R150, R410), live migration
(R408, R409), counter snapshots (R413), errors that arise by themselves (R77). -/

namespace Sys2Proof.Machine

/-! ## The debug port -/

/-- The number by which a debug access names the physical function; virtual functions are 0 to 191 (R395). -/
def physicalFunction : Nat := 192

/-- The gang that a debug access names, if it may be reached (R405): through the physical function, or through a function of
the owning partition once debugging is enabled. -/
def State.debugGang (s : State) (part vf ident team gang : Nat) : Option Gang :=
  let may := vf == physicalFunction ||
    ((s.vfs.any fun v => v.part == part && v.num == vf) && (s.part? part).elim false (·.debug))
  if !may then none
  else
    (s.launches.find? fun l => l.part == part && l.ident == ident && l.state != .ended).bind fun l =>
      s.gangs.find? fun g => g.team == some ⟨l.uid, team⟩ && g.num == gang

/-- Whether a gang holds an item (R220, R405). -/
def Gang.holds (g : Gang) (i : DebugItem) : Bool :=
  match i with
  | .v r l => r < g.vregs && l < g.width
  | .s r => r ≤ g.sregs
  | .pred p => p < 16
  | .flag f => f < 12
  | .acc a r c => a < g.accs && r < 64 && c < 64
  | .stack n => n < g.stack.length

/-- A mask of lanes as two words. -/
def maskWords (m : Mask) : List Word := [m.extractLsb' 0 64, m.extractLsb' 64 64]

/-- What the debug port reads (R405): a stack entry is its PC with its lanes. -/
def Gang.debugRead (g : Gang) (i : DebugItem) : List Word :=
  match i with
  | .v r l => [(g.getV r l).zeroExtend 64]
  | .s r => [g.getS r]
  | .pred p => maskWords (if p = 0 then ~~~0 else g.preds[p]?.getD 0)
  | .flag f => [w64 (g.flags[f]?.getD 0)]
  | .acc a r c => [(g.getAcc a r c).zeroExtend 64]
  | .stack n => match g.stack[n]? with | none => [] | some x => x.pc :: maskWords x.lanes

/-- A mask of lanes from two words. -/
def wordsMask (lo hi : Word) : Mask := lo.zeroExtend 128 ||| (hi.zeroExtend 128 <<< 64)

/-- What the debug port writes (R405). -/
def Gang.debugWrite (g : Gang) (i : DebugItem) (v : List Word) : Gang :=
  let w := v.getD 0 0
  match i with
  | .v r l => g.setV r l (w.extractLsb' 0 32)
  | .s r => g.setS r w
  | .pred p => if p = 0 then g else { g with preds := g.preds.setIfInBounds p (wordsMask w (v.getD 1 0)) }
  | .flag f => { g with flags := g.flags.setIfInBounds f (w.toNat % 64) }
  | .acc a r c => g.setAcc a r c (w.extractLsb' 0 32)
  | .stack n => { g with stack := g.stack.set n ⟨w, wordsMask (v.getD 1 0) (v.getD 2 0), none⟩ }

/-- Whether a gang is PARKED (R155): on the device, and waiting. -/
def Gang.isParked (g : Gang) : Bool := g.id.onDevice && (match g.state with | .parked _ => true | _ => false)

/-- DEBUG_PORT_READ (R405): a gang that is neither PARKED nor SAVED does not answer. -/
def execDebugPortRead (part vf ident team gang : Nat) (item : DebugItem) (s : State) : Res :=
  let answer := match s.debugGang part vf ident team gang with
    | none => none
    | some g => if (g.isParked || !g.id.onDevice) && g.holds item then some (g.debugRead item) else none
  .next { s with out := s.out ++ [.debug answer] }

/-- DEBUG_PORT_WRITE (R405): only a PARKED gang is written. -/
def execDebugPortWrite (part vf ident team gang : Nat) (item : DebugItem) (value : List Word) (s : State) : Res :=
  match s.debugGang part vf ident team gang with
  | none => .next { s with out := s.out ++ [.debug none] }
  | some g =>
    if g.isParked && g.holds item then
      let s1 := s.setGang (g.debugWrite item value)
      let s2 := match item with
        | .v r l => s1.clearErr g.id (.v r l)
        | .s r => s1.clearErr g.id (.s r)
        | .acc a r c => s1.endAccErrs g.id a fun e => e == 64 * r + c
        | _ => s1
      .next { s2 with out := s2.out ++ [.debug (some [])] }
    else .next { s with out := s.out ++ [.debug none] }

/-- DEBUG_ENABLE (R405): the firmware enables debugging for a partition. -/
def execDebugEnable (part : Nat) (on : Bool) (s : State) : Res := .next (s.updPart part fun p => { p with debug := on })

/-! ## Device links -/

/-- The partition whose device memory holds n bytes. -/
def State.ownerOf (s : State) (pa n : Nat) : Option Partition :=
  s.parts.find? fun p => inRanges p.cfg.devRanges pa && inRanges p.cfg.devRanges (pa + n - 1)

/-- The bytes of a link access counted (R412). -/
def countLink (pa n : Nat) (s : State) : State :=
  match s.ownerOf pa n with
  | none => s
  | some p => s.updPart p.cfg.num fun p => { p with counters := { p.counters with linkb := p.counters.linkb + n } }

/-- A batch of this device that the aggregating device has applied (R146): its instances are open, and its producers have their
acknowledgements. -/
def batchAcked (num : Nat) (s : State) : State :=
  let b := (s.sentBatches.filter fun x => x.1 == num).flatMap (·.2)
  let opened := fun (p : Partition) => (b.filter fun c => c.pt.inst == .system p.cfg.num).foldl (fun l c => openInst c.pt.inst l) p.opened
  (b.flatMap (·.producers)).foldl State.ack
    { s with sentBatches := s.sentBatches.filter fun x => x.1 != num
             parts := s.parts.map fun p => { p with opened := opened p } }

/-- What a device link delivers takes effect (R144, R146, R147, R301, R407): loads, stores and atomics act at .sy. -/
def deliverLink (dev : Nat) (m : LinkMsg) (s : State) : State :=
  match m with
  | .load pa n =>
    let s1 := countLink pa n s
    { s1 with out := s1.out ++ [.link dev (rdBytes s.mem pa n)] }
  | .store pa data =>
    if (s.ownerOf pa data.length).isNone then s
    else arriveReg ⟨13, true, .link dev m⟩ (pa / 4096) (countLink pa data.length s)
  | .add pa _ => if (s.ownerOf pa 8).isNone then s else arriveReg ⟨13, true, .link dev m⟩ (pa / 4096) (countLink pa 8 s)
  | .counts num b =>
    let s1 := applyUnit (b.map fun x => ⟨⟨.system x.1, x.2.1, x.2.2.1⟩, x.2.2.2, []⟩) s
    { s1 with out := s1.out ++ [.countAck dev num] }
  | .frontier part loc f =>
    if (s.part? part).elim false fun p => (p.told? (.system part) loc).all (fun a => frontierGrew a.folio f) then
      setAnnounced part (.system part) loc f (s.updPart part fun p => { p with opened := openInst (.system part) p.opened })
    else s
  | .countAck num => finishWaiting (batchAcked num s)
  | .countQuery part locs =>
    let busy := (s.part? part).elim false fun p =>
      p.counts.any fun c => c.pt.inst == .system part && locs.contains c.pt.loc && c.n != 0
    { s with out := s.out ++ [.countState dev part busy] }
  | .countState part busy =>
    s.updPart part fun p => { p with walk := p.walk.map fun w => if w.remote = some none then { w with remote := some (some busy) } else w }
  | .message num part cls team loc f pl snd sndT =>
    { s with
      nextId := s.nextId + 1
      msgs := s.msgs ++ [{ id := s.nextId, cls := cls, part := part, launch := none, team := team, cluster := none,
                           pt := some ⟨.system part, loc.toNat, f⟩, loc := loc, folio := f, payload := pl, sender := snd,
                           senderTeam := sndT, heldAt := none, held := false, gang := none, dev := none,
                           origin := some (dev, num) }] }
  | .accepted id =>
    match s.msgs.find? fun m => m.id == id && m.dev == some dev with
    | none => s
    | some m => acceptMsg m { s with msgs := s.msgs.filter fun x => x.id != id }

/-- The next sequence number that a sender's class awaits (R406). -/
def State.linkSeq (s : State) (dev cls : Nat) : Nat :=
  match s.linkSeqs.find? fun x => x.1 == dev && x.2.1 == cls with
  | some x => x.2.2
  | none => 0

/-- Flits that arrived early delivered in sequence order, as far as they reach (R406). -/
def deliverHeld (dev cls : Nat) : Nat → State → State
  | 0, s => s
  | n + 1, s =>
    match s.linkHeld.find? fun x => x.1 == dev && x.2.1 == cls && x.2.2.1 == s.linkSeq dev cls with
    | none => s
    | some x =>
      deliverHeld dev cls n (deliverLink dev x.2.2.2 { s with
        linkHeld := s.linkHeld.filter fun y => !(y.1 == dev && y.2.1 == cls && y.2.2.1 == x.2.2.1)
        linkSeqs := (dev, cls, s.linkSeq dev cls + 1) :: s.linkSeqs.filter fun y => !(y.1 == dev && y.2.1 == cls) })

/-- LINK_FLIT_RECEIVE (R406): a flit that fails its CRC is retried; the traffic of a class from one sender is delivered in
sequence order, whatever link it took, and duplicates are discarded. -/
def execLinkFlitReceive (link : Nat) (crcOk : Bool) (dev cls seq : Nat) (m : LinkMsg) (s : State) : Res :=
  if !(s.links[link]?.getD false) then .next s
  else if !crcOk then .next (s.countErr (256 + link))
  else if seq < s.linkSeq dev cls || s.linkHeld.any fun x => x.1 == dev && x.2.1 == cls && x.2.2.1 == seq then .next s
  else .next (deliverHeld dev cls (s.linkHeld.length + 1) { s with linkHeld := s.linkHeld ++ [(dev, cls, seq, m)] })

/-- A device of the job counts as faulted (R150, R406, R410). -/
def jobFault (dev : Nat) (s : State) : State :=
  { s with jobFaulted := true, faultedDevices := if s.faultedDevices.contains dev then s.faultedDevices else s.faultedDevices ++ [dev] }

/-- LINK_FAILURE (R406): the link is taken out of use; with no link left, every device beyond them counts as faulted. -/
def linkFail (n : Nat) (s : State) : State :=
  let s1 := { s with links := s.links.setIfInBounds n false }
  if s1.links.toList.any id then s1 else { s1 with jobFaulted := true }

def execLinkFailure (n : Nat) (s : State) : Res := .next (linkFail n s)

/-! ## Faults of parts and devices -/

/-- A started launch that ends because of a part (R403, R410). -/
def endByPart (u : Nat) (s : State) : State := killLaunch u none (completeLaunch u ⟨4, 0, 0⟩ s)

/-- A started launch that a part's fault meets is run again, when its header says so, or ends (R410). -/
def hitLaunch (u : Nat) (s : State) : State :=
  match s.launch? u with
  | none => s
  | some l =>
    if l.state = .ended ∨ l.state = .held then s
    else if l.hdr.flags % 2 = 1 then restartLaunch u s
    else endByPart u s

/-- The launches at work on a tile (R410): those with a team there that is not saved, and those of the callers of its galley
gangs (R171). -/
def State.launchesOn (s : State) (cl t : Nat) : List Nat :=
  ((s.teams.filter fun x => x.home == cl && x.tile == t && x.state != .ended && x.state != .saved).map (·.id.launch) ++
    (s.gangs.filter fun g => g.id.cluster == cl && g.id.tile == t && g.state != .exited).flatMap fun g =>
      g.callers.filterMap fun c => (c.bind s.thread?).map (·.team.launch)).eraseDups

/-- PART_FAULT (R410): of a tile, with the launches of the teams there and of the callers of galley gangs there; of a stack, with
those of every partition that has device memory, since each range of 512 MiB (R397) has regions in every stack (R70). A management
or helper core holds no accepted work. -/
def execPartFault (p : Part) (s : State) : Res :=
  match p with
  | .tile cl t =>
    let us := s.launchesOn cl t
    let s1 := if s.retired.contains (cl, t) then s else { s with retired := s.retired ++ [(cl, t)] }
    .next (us.foldl (fun s u => hitLaunch u s) s1)
  | .stack _ =>
    let us := (s.launches.filter fun l => (s.part? l.part).elim false fun p => !p.cfg.devRanges.isEmpty).map (·.uid)
    .next (us.foldl (fun s u => hitLaunch u s) s)
  | .link n => .next (linkFail n s)
  | .managementCore => .next s
  | .helperCore _ => .next s

/-- DEVICE_FAULT (R150): no SYSTEM closure is announced until the job's counts are restored or the job ends. -/
def execDeviceFault (dev : Nat) (s : State) : Res := .next (jobFault dev s)

/-- JOB_COUNT_RESTORE (R150, R410): the job's counts are those of the last saved images. -/
def execJobCountRestore (part : Nat) (counts : List (Nat × Word × Int)) (s : State) : Res :=
  let put := fun (l : List Count) (c : Nat × Word × Int) => addCount ⟨.system part, c.1, c.2.1⟩ c.2.2 l
  let restore := fun (p : Partition) =>
    { p with
      counts := counts.foldl put (p.counts.filter fun (c : Count) => c.pt.inst != Inst.system part)
      opened := openInst (.system part) p.opened }
  .next ({ s.updPart part restore with jobFaulted := false, faultedDevices := [] } : State)

/-! ## Live migration -/

/-- EXPORT_TRACKING (R408): a round begins; OVERFLOW stays as it was. -/
def execExportTracking (part : Nat) (log cap : Nat) (s : State) : Res :=
  .next (s.updPart part fun p =>
    { p with exporting := some { log := log, cap := min cap 1_048_576, pages := [],
                                 overflow := p.exporting.elim false (·.overflow) } })

/-- EXPORT_TRACKING_DISABLE (R408). -/
def execExportTrackingDisable (part : Nat) (s : State) : Res := .next (s.updPart part fun p => { p with exporting := none })

/-- Every 64 KiB page of a partition's device ranges. -/
def Partition.allPages (p : Partition) : List Nat :=
  p.cfg.devRanges.flatMap fun r => (List.range (r.2 / 65536)).map fun i => r.1 / 65536 + i

/-- The images of a partition's saved teams (R384, R409). -/
def State.imagesOf (s : State) (part : Nat) : Images :=
  let ts := s.teams.filter fun t => t.part == part && t.state == .saved
  let mine := fun (i : TeamId) => ts.any fun t => t.id == i
  let at_ := fun (c : CtxId) => ts.any fun t => t.cluster == c.cluster
  { launches := s.launches.filter fun l => l.part == part && l.state != .ended
    teams := ts, threads := s.threads.filter fun x => mine x.team, gangs := s.gangs.filter fun g => g.team.elim false mine
    ops := s.ops.filter fun o => at_ o.owner, msgs := s.msgs.filter fun m => m.part == part
    saved := s.saved.filter fun x => mine x.id
    scratch := s.scratch.filter fun x => ts.any fun t => savedKey t.cluster t.tile ≤ x.1 && x.1 < savedKey t.cluster t.tile + t.scrSize
    pkts := s.pkts.filter fun k => k.queue.part == part && k.started }

/-- The six registers of a queue (R398). -/
def Queue.registers (x : Queue) : List Nat := [x.qbase.toNat, x.qsize, x.qwr, x.qrd, x.qctl.toNat, x.qpt.toNat]

/-- The canonical export (R409): magic, version, function number, queue count and flags; for each queue its registers and the
start states of its packets; the list of team images. -/
def exportBytes (r : ExportRec) : List Byte :=
  Config.exportBody ([0x5850_5145, 1, r.vf, r.queues.length, b2n r.incomplete] ++
    (r.queues.flatMap fun x => x.registers ++ (r.images.pkts.filter fun k => k.queue == x.id).map (·.index)) ++
    r.images.teams.flatMap fun t => [t.id.launch, t.id.team])

/-- Images brought back (R409): the launches that are not on this device any more, with all that their teams hold. -/
def restoreImages (i : Images) (s : State) : State :=
  let ls := i.launches.filter fun l => !s.launches.any fun x => x.uid == l.uid && x.state != .ended
  let back := fun (u : Nat) => ls.any fun l => l.uid == u
  let cs := (i.threads.filter fun x => back x.team.launch).map (·.id) ++
    (i.gangs.filter fun g => g.team.elim false fun t => back t.launch).map (·.id)
  let ts := i.teams.filter fun t => back t.id.launch
  let bytes := i.scratch.filter fun x => ts.any fun t =>
    savedKey t.cluster t.tile ≤ x.1 && x.1 < savedKey t.cluster t.tile + t.scrSize
  { s with
    launches := (s.launches.filter fun l => !back l.uid) ++ ls, teams := s.teams ++ ts
    threads := s.threads ++ i.threads.filter fun x => back x.team.launch
    gangs := s.gangs ++ i.gangs.filter fun g => g.team.elim false fun t => back t.launch
    ops := s.ops ++ i.ops.filter fun o => cs.contains o.owner
    msgs := s.msgs ++ i.msgs.filter fun m => !s.msgs.any fun x => x.id == m.id
    saved := s.saved ++ i.saved.filter fun x => back x.id.launch
    scratch := bytes.foldl (fun m x => tput 0 m x.1 x.2) s.scratch
    pkts := s.pkts ++ i.pkts.filter fun k => !s.pkts.any fun x => x.queue == k.queue && x.index == k.index }

/-- The shape of a set of pairs (R409): how many quarters each of its clusters has. -/
def pairsShape (ps : List (Nat × Nat)) : List Nat :=
  ((List.range 12).map fun c => (ps.filter fun x => x.1 == c).length).filter fun n => n != 0

/-- FINAL_EXPORT (R409): the queues stop, every team is saved once it can be, and the canonical export is written. -/
def execFinalExport (part vf dst : Nat) (s : State) : Res :=
  match s.part? part with
  | none => .next s
  | some p =>
    let ts := s.teams.filter fun t => t.part == part && t.state == .running
    if !(s.vfs.any fun v => v.part == part && v.num == vf) || s.teams.any fun t => t.part == part && t.state == .draining then .next s
    else if !ts.all s.savable then .next (s.askSaves ts)
    else
      let bad := p.exporting.elim false (·.overflow)
      let s1 := saveGroups (ts.map (·.id)) (s.updPart part fun p => { p with stopped := true })
      let r : ExportRec :=
        { part := part, pairs := p.cfg.pairs, vf := vf
          queues := s1.queues.filter fun x => x.id.part == part && x.id.vf == vf, images := s1.imagesOf part, incomplete := bad }
      let s2 := writeOutside dst (exportBytes r) { s1 with exports := s1.exports ++ [r] }
      .next { s2 with out := s2.out ++ [.exported part bad (if bad then p.allPages else p.exporting.elim [] (·.pages))] }

/-- The newest complete export of a partition's function whose bytes stand at an address (log 70). -/
def State.exportAt (s : State) (part vf src : Nat) : Option ExportRec :=
  s.exports.reverse.find? fun r => r.part == part && r.vf == vf && !r.incomplete &&
    rdBytes s.mem src (exportBytes r).length == exportBytes r

/-- IMPORT (R409): the registers and images of a complete export that stands at an address are restored in a partition of pairs
of the same shape, and its queues resume at QRD. -/
def execImportState (part vf src : Nat) (s : State) : Res :=
  match s.part? part, s.exportAt part vf src with
  | some p, some r =>
    if pairsShape p.cfg.pairs = pairsShape r.pairs then
      let back := fun (x : Queue) => (r.queues.find? fun (y : Queue) => y.id == x.id).getD x
      let s1 := restoreImages r.images (s.updPart part fun p => { p with stopped := false })
      .next ({ s1 with queues := s.queues.map back } : State)
    else .next s
  | _, _ => .next s

/-! ## Snapshots -/

/-- The counters in the order of R412. -/
def Counters.list (c : Counters) : List Nat :=
  [c.issueScalar, c.issueWide, c.mac16, c.mac8f, c.mac8i, c.mac4, c.memb, c.linkb, c.hostb, c.energy, c.coloph]

/-- SNAPSHOT_REQUEST (R413): the counters of a function, or with 0xFF of the partition, with both signatures. -/
def execSnapshotRequest (part vf dst : Nat) (s : State) : Res :=
  let cs := if vf = 0xFF then (s.part? part).map (·.counters)
    else (s.vfs.find? fun v => v.part == part && v.num == vf).map (·.counters)
  match cs with
  | none => .next s
  | some c =>
    let body := Config.snapshotBody
      ([0x5041_4E53, part, vf, leNat ((Config.sha384 Config.serialNumber).take 8), s.timeNs, s.snapshots + 1] ++ c.list)
    .next (writeOutside dst (signed body) { s with snapshots := s.snapshots + 1 })

/-! ## Errors -/

/-- The context and place behind a key of UNCORRECTABLE_ERROR for a register file or an accumulator tile: CTXID (R274) above bit 17, below it an
x register, 128 × register + lane, bit 16 with an s register, or 4096 × tile + 64 × row + column. -/
def errReg (s : State) (st : ErrStruct) (key : Nat) : Option (CtxId × Dst × Nat) :=
  let c := CtxId.ofWord (w64 (key / 2 ^ 17))
  let k := key % 2 ^ 17
  match st with
  | .regFile =>
    match s.thread? c with
    | some t => some (c, t.dst (k % 32), 0)
    | none =>
      (s.gang? c).map fun _ => (c, if bitAt k 16 then Dst.s (k % 32) else Dst.v (k / 128 % 512) (k % 128), 0)
  | .accTile => (s.gang? c).map fun _ => (c, Dst.none, k % 2 ^ 16)
  | _ => none

/-- UNCORRECTABLE_ERROR (R77, R405): in the only copy of data the error stays until the data is written; a clean copy is
invalidated and served again. -/
def execUncorrectableError (st : ErrStruct) (key : Nat) (onlyCopy : Bool) (s : State) : Res :=
  let s1 := s.countErr st.code
  if onlyCopy then
    match st with
    | .regFile =>
      .next (match errReg s st key with
        | none => s1
        | some (c, d, _) => { s1 with errs := s1.errs ++ [⟨st, 0, 0, some (c, d)⟩] })
    | .accTile =>
      .next (match errReg s st key with
        | none => s1
        | some (c, d, k) => { s1 with errs := s1.errs ++ [⟨st, k, 0, some (c, d)⟩] })
    | _ => .next { s1 with errs := s1.errs ++ [⟨st, key, 0, none⟩] }
  else
    .next (match st with
      | .scalarL1 =>
        let clean := s1.l1.filter fun l => l.line == key && l.st != .m
        { s1 with
          l1 := s1.l1.filter fun l => !clean.contains l
          coh := s1.coh ++ clean.map fun l => ⟨l.st.put, l.core, l.line, 0, false⟩ }
      | .wideL1 => { s1 with wl1 := (s1.wl1.map fun l =>
          if l.pa = key * 32 / 256 * 256 then { l with valid := l.dirty } else l).filter fun l => l.valid != 0 }
      | .clusterCache =>
        let sector : BitVec 8 := BitVec.ofNat 8 (2 ^ (key % 8))
        { s1 with ccache := s1.ccache.map fun l =>
            if l.block = key / 8 then { l with valid := l.valid &&& (~~~ sector ||| l.dirty) } else l }
      | .pte => s1.dropTlb fun e => s1.tlb[key]? == some e
      | _ => { s1 with icache := s1.icache.filter fun l => l.pa / 32 != key && l.pa / 32 + 1 != key })

end Sys2Proof.Machine
end

