-- ==== Sys2Proof/Machine/Firmware.lean ====
section
/-! DEFINITION. Boot, firmware and trust (R411, R414 to R416), partitions and functions as the firmware makes them (R396, R397,
R416). -/

namespace Sys2Proof.Machine

/-! ## Boot -/

/-- POWER_ON (R416): the security core starts first; the firmware slot is as it was. -/
def execPowerOn (s : State) : Res :=
  .next (match s.fw.boot with
    | .off => { s with fw := { s.fw with boot := .securityCore }, links := Vector.replicate 16 true }
    | _ => s)

/-- RESET_BOOT (R414, R415): every register and context is as after reset; memory, the image slot and the scrub sequence
numbers keep what they hold. The verified image runs and is measured; a failed verification, or a slot whose last write was
interrupted, holds the device in recovery mode. -/
def execResetBoot (verified : Bool) (s : State) : Res :=
  let fw := if verified && !s.fw.interrupted then
      { s.fw with boot := .running, running := s.fw.slot, measurement := Config.sha384 s.fw.slot }
    else { s.fw with boot := .recovery, running := [], measurement := [] }
  .next { State.reset with
    fw := fw, scrubSeq := s.scrubSeq, mem := s.mem, out := s.out, agenda := s.agenda, fresh := s.fresh, nextId := s.nextId }

/-! ## SPDM -/

/-- An answer through the DOE mailbox (R414), which answers in recovery mode too (R415). -/
def spdmReply (data : State → List Byte) (s : State) : Res :=
  .next (match s.fw.boot with
    | .running => { s with out := s.out ++ [.spdm (data s)] }
    | .recovery => { s with out := s.out ++ [.spdm (data s)] }
    | _ => s)

/-- GET_VERSION (R414). -/
def execGetVersion (s : State) : Res := spdmReply (fun _ => Config.spdmAnswer 0x84 []) s

/-- GET_CAPABILITIES (R414). -/
def execGetCapabilities (s : State) : Res := spdmReply (fun _ => Config.spdmAnswer 0xE1 []) s

/-- NEGOTIATE_ALGORITHMS (R414): SHA-384 and Ed25519. -/
def execNegotiateAlgorithms (s : State) : Res := spdmReply (fun _ => Config.spdmAnswer 0xE3 []) s

/-- GET_DIGESTS (R414): the digests of the chains of slots 0 and 1. -/
def execGetDigests (s : State) : Res :=
  spdmReply (fun _ => Config.spdmAnswer 0x81
    (Config.sha384 (Config.spdmCertificate 0) ++ Config.sha384 (Config.spdmCertificate 1))) s

/-- GET_CERTIFICATE (R414): there are slots 0 and 1. -/
def execGetCertificate (slot : Nat) (s : State) : Res :=
  if slot < 2 then spdmReply (fun _ => Config.spdmAnswer 0x82 (Config.spdmCertificate slot)) s else .next s

/-- The bytes of a partition's configuration that measurement 5 covers (R414). -/
def configBytes (c : PartConfig) : List Byte :=
  let rs := fun (l : List (Nat × Nat)) => l.flatMap fun r => toBytes 8 r.1 ++ toBytes 8 r.2
  toBytes 8 c.num ++ rs c.pairs ++ rs c.devRanges ++ rs c.hostVisible ++ rs c.hostRanges ++ toBytes 8 c.claddr ++
    toBytes 8 c.tenant.toNat

/-- Measurements 1 to 5 (R414): the boot ROM, the trusted firmware, the management image, the helper image, the partition
configuration. -/
def State.measurement (s : State) (i : Nat) : List Byte :=
  match i with
  | 1 => Config.sha384 Config.bootRom
  | 2 => s.fw.measurement
  | 3 => Config.sha384 Config.managementImage
  | 4 => Config.sha384 Config.helperImage
  | _ => Config.sha384 (s.parts.flatMap fun p => configBytes p.cfg)

/-- The signed answer that binds a nonce to all measurements (R414). -/
def State.allMeasurements (s : State) : List Byte := ([1, 2, 3, 4, 5].map s.measurement).flatten

/-- CHALLENGE (R414): signed with the identity key. -/
def execChallenge (nonce : List Byte) (s : State) : Res :=
  spdmReply (fun s =>
    let body := Config.spdmAnswer 0x83 (nonce ++ s.allMeasurements)
    body ++ Config.ed25519 body) s

/-- GET_MEASUREMENTS (R414): one of 1 to 5, or all with 0xFF. -/
def execGetMeasurements (index : Nat) (s : State) : Res :=
  if (1 ≤ index && index ≤ 5) || index == 0xFF then
    spdmReply (fun s => Config.spdmAnswer 0xE0 (if index = 0xFF then s.allMeasurements else s.measurement index)) s
  else .next s

/-! ## Images -/

/-- FIRMWARE_UPDATE (R415): through the physical function, which does not answer in recovery mode; a rejected image leaves the
slot as it is, and an interrupted write leaves it to the next reset. -/
def execFirmwareUpdate (image : List Byte) (version : Nat) (verified interrupted : Bool) (s : State) : Res :=
  if s.fw.boot ≠ .running ∨ !verified ∨ version < s.fw.version then .next s
  else if interrupted then .next { s with fw := { s.fw with interrupted := true } }
  else .next { s with fw := { s.fw with slot := image, version := version, interrupted := false } }

/-- RECOVERY_IMAGE_LOAD (R415): in recovery mode the host loads a verified image through the DOE mailbox. -/
def execRecoveryImageLoad (image : List Byte) (version : Nat) (verified : Bool) (s : State) : Res :=
  if s.fw.boot ≠ .recovery ∨ !verified then .next s
  else
    .next { s with fw := { s.fw with boot := .running, slot := image, version := version, interrupted := false, running := image,
                                     measurement := Config.sha384 image } }

/-! ## Partitions and functions -/

/-- A partition as the firmware creates it (R397, R412, R416). -/
def freshPartition (cfg : PartConfig) : Partition :=
  { cfg := cfg, quota := (cfg.devRanges.map (·.2)).sum, clseq := 0, drainlim := 0x7D00, held := false, pins := [],
    counters := Counters.zero, exporting := none, stopped := false, debug := false, slice := cfg.slice, sliceLeft := cfg.slice,
    graph := Graph.empty, walk := none, opened := [], counts := [], announced := [] }

/-- PARTITION_CREATE (R397, R416): the first colophon has OUTGOING 0; memory and scratchpads are scrubbed for it. -/
def execPartitionCreate (cfg : PartConfig) (s : State) : Res :=
  if s.fw.boot ≠ .running ∨ !configOk cfg ∨ !s.parts.all (fun p => configsApart cfg p.cfg) then .next s
  else
    let p := freshPartition cfg
    .next (writeColophon p 0 cfg.tenant (scrubPartition p { s with parts := s.parts ++ [p] }))

/-- VF_ASSIGN (R396, R398, R412): a function belongs to one partition, which has at most four. -/
def execVfAssign (part vf : Nat) (s : State) : Res :=
  if s.fw.boot ≠ .running ∨ (s.part? part).isNone ∨ 192 ≤ vf ∨ s.vfs.any (fun v => v.num == vf) ∨
      4 ≤ (s.vfs.filter fun v => v.part == part).length then .next s
  else
    .next { s with
      vfs := s.vfs ++ [{ part := part, num := vf, errq := [], drops := 0, counters := Counters.zero }]
      queues := s.queues ++ (List.range 16).map fun i => Queue.fresh ⟨part, vf, i⟩ }

end Sys2Proof.Machine
end

