-- ==== Sys2Proof/Machine/LoadStore.lean ====
section
/-! DEFINITION. Loads and stores, prefetches and cache control (R278 to R288). -/

namespace Sys2Proof.Machine

/-- A scope of `ld.acq` and `st.rel` among all scopes (R281). -/
def Scope4.scope (s : Scope4) : Scope :=
  match s with
  | .tm => .tm
  | .cl => .cl
  | .dv => .dv
  | .sy => .sy

/-- `ld` (R281, R283). -/
def execLd (h : Hd) (sz : LdSize) (r : RI) (s : State) : Res :=
  loadInstr h r.g [r.xa] (baseImm r.imm) [(sz, r.xd.toNat)] sz.bytes none s

/-- `ldx` (R281). -/
def execLdx (h : Hd) (sz : LdSize) (r : RX) (s : State) : Res :=
  loadInstr h r.g [r.xa, r.xb] (baseIdx r.s) [(sz, r.xd.toNat)] sz.bytes none s

/-- `st` (R281, R283). -/
def execSt (h : Hd) (sz : StSize) (r : RI) (s : State) : Res :=
  storeInstr h r.g [r.xa] [r.xd] (baseImm r.imm) [sz] sz.bytes none s

/-- `stx` (R281). -/
def execStx (h : Hd) (sz : StSize) (r : RX) (s : State) : Res :=
  storeInstr h r.g [r.xa, r.xb] [r.xd] (baseIdx r.s) [sz] sz.bytes none s

/-- `ld.acq` (R285): the load, then the acquire action of its scope. -/
def execLdAcq (h : Hd) (sz : LdSize) (sc : Scope4) (r : RI) (s : State) : Res :=
  loadInstr h r.g [r.xa] (baseImm r.imm) [(sz, r.xd.toNat)] sz.bytes (some (Scope4.scope sc)) s

/-- `st.rel` (R285): the release action of its scope, then the store. -/
def execStRel (h : Hd) (sz : StSize) (sc : Scope4) (r : RI) (s : State) : Res :=
  storeInstr h r.g [r.xa] [r.xd] (baseImm r.imm) [sz] sz.bytes (some (Scope4.scope sc)) s

/-- ILLEGAL_OP, REGISTER at the head of either kind of core. -/
def badRegister (s : State) : Res :=
  withCur s (fun t => trapT t.id (illegalOp t.pc t.line rRegister) false s)
    fun g => trapG g.id (illegalOp g.pc g.line rRegister) false s

/-- `ldp` (R284). -/
def execLdp (h : Hd) (r : RI) (s : State) : Res :=
  if pairBad r.xd then badRegister s
  else loadInstr h r.g [r.xa] (baseImm r.imm) [(.n64, r.xd.toNat), (.n64, r.xd.toNat + 1)] 8 none s

/-- `stp` (R284). -/
def execStp (h : Hd) (r : RI) (s : State) : Res :=
  if pairBad r.xd then badRegister s
  else storeInstr h r.g [r.xa] [r.xd, r.xd + 1] (baseImm r.imm) [.n64, .n64] 8 none s

/-! ## Prefetch and cache control -/

/-- What a prefetch or a cache control does at one address: done, a trap, or a wait. -/
inductive LineRes where
  | done (s : State)
  | trap (s : State) (t : TrapInfo)
  | wait (s : State)

/-- What the lanes of a gang do at their addresses, up to the first that must wait: the traps of lanes, the state, and whether one
waits. -/
def lineLanes (body : Word → State → LineRes) : List (Nat × Word) → State → List (Nat × TrapInfo) × State × Bool
  | [], s => ([], s, false)
  | (l, a) :: r, s =>
    match body a s with
    | .wait s1 => ([], s1, true)
    | .done s1 => lineLanes body r s1
    | .trap s1 t =>
      let (bad, s2, w) := lineLanes body r s1
      ((l, t) :: bad, s2, w)

/-- The addresses that a prefetch or cache control names: one for a thread or under G = 1, one per active lane otherwise;
none while a source is empty. body says what each does; faults are those of its checks. -/
def lineInstr (h : Hd) (m : MemOp) (body : Agent → Word → State → LineRes) (s : State) : Res :=
  withCur s
    (fun t =>
      if !t.guard h then endT t.id s
      else
        match t.readX m.xa.toNat with
        | none => parkT t.id .retry s
        | some (v, t1) =>
          match s.regErr t.id [t.dst m.xa.toNat] with
          | some e => trapT t.id (machineTrap e.st e.va) false s
          | none =>
            match body t.agent (baseImm m.imm [v]) s with
            | .trap s1 ti => trapT t.id ti false s1
            | .wait s1 => parkT t.id .retry s1
            | .done s1 => endT t.id (s1.updThread t.id fun u => { u with recvq := t1.recvq }))
    fun g =>
      if m.g then
        if !g.sOk [m.xa.toNat] then trapG g.id (illegalOp g.pc g.line rRegister) false s
        else
          match s.regErr g.id [.s m.xa.toNat] with
          | some e => trapG g.id (machineTrap e.st e.va) false s
          | none =>
            match body g.agent (baseImm m.imm [g.getS m.xa.toNat]) s with
            | .trap s1 ti => trapG g.id ti false s1
            | .wait s1 => parkG g.id .retry s1
            | .done s1 => endG g.id s1
      else if !g.xOk [m.xa.toNat] then trapG g.id (illegalOp g.pc g.line rRegister) false s
      else
        match (g.active h).mapM fun l => (g.readX m.xa.toNat l).map fun v => (l, baseImm m.imm [v]) with
        | none => parkG g.id .retry s
        | some rows =>
          let mach := laneErrs s g.id (fun l => [xDst m.xa.toNat l]) (g.active h)
          let r := lineLanes (body g.agent) (rows.filter fun x => !mach.any fun b => b.1 == x.1) s
          if r.2.2 then parkG g.id .retry r.2.1
          else gangFaults g.id (mergeFaults mach r.1) false s (r.2.1.updGang g.id Gang.next)

/-- A prefetch (R286): dropped when a check fails or outside the global window. Into the L1, a scalar core asks the home for the
line, and a wide core loads it without a destination; into the cluster cache, the sectors of the line are asked for. -/
def prefetch (l1 : Bool) (ag : Agent) (va : Word) (s : State) : LineRes :=
  if window va ≠ 0 then .done s
  else
    match checkPlain ag va 1 1 .load true s with
    | .ok s1 a _ =>
      if !a.cached then .done s1
      else if !l1 then
        .done ((s1.await ag.id.wideCore ag.id.quarter ((List.range 8).map fun k => .read (a.addr / 256 * 8 + k))).getD s1)
      else if ag.id.wide then
        if s1.hits ag.id a 1 then .done s1
        else .done (s1.addOp ag.id none (.load [{ acc := a, size := .n8, dst := .none, val := none }]))
      else .done (loadMiss ag.id a s1)
    | .wait s1 => .wait s1
    | _ => .done s

/-- `pref.l1` (R286). -/
def execPrefL1 (h : Hd) (m : MemOp) (s : State) : Res := lineInstr h m (prefetch true) s

/-- `pref.cc` (R286). -/
def execPrefCc (h : Hd) (m : MemOp) (s : State) : Res := lineInstr h m (prefetch false) s

/-- A cache control on the line of a global address that a load may read (R287); nothing in the other windows. -/
def cacheControl (body : Agent → Acc → State → LineRes) (ag : Agent) (va : Word) (s : State) : LineRes :=
  match checkPlain ag va 1 1 .load true s with
  | .trap s1 t => .trap s1 t
  | .stall s1 _ => .done s1
  | .wait s1 => .wait s1
  | .ok s1 a _ => if a.space = .mem then body ag a s1 else .done s1

/-- The write-back that `cc.wb.l1` starts (R287): the store buffer up to the youngest entry that covers the 32-byte line, or the
dirty bytes of the 256-byte line. -/
def ccWriteBack (ag : Agent) (a : Acc) (s : State) : LineRes :=
  .done (if ag.id.wide then (s.wline? ag.id ag.part a.addr).elim s fun l => s.modWline l (·.start (~~~ 0))
    else sbPush ag.id (fun e => e.pa == a.addr / 32 * 32) s)

/-- `cc.wb.l1` (R287). -/
def execCcWbL1 (h : Hd) (m : MemOp) (s : State) : Res := lineInstr h m (cacheControl ccWriteBack) s

/-- The dirty sectors of a line of the issuing cluster's cache written to Quire; the line stays (R287). -/
def ccClean (ag : Agent) (a : Acc) (s : State) : LineRes :=
  let mine := fun (l : CcLine) => l.cluster == ag.id.cluster && l.block == a.addr / 256
  .done (if s.ccache.any fun l => mine l && l.dirty != 0 then
    { s with ccache := s.ccache.map fun l => if mine l then { l with dirty := 0 } else l }.postReg .wb ag.id.cluster (a.addr / 4096)
  else s)

/-- `cc.wb.cc` (R287). -/
def execCcWbCc (h : Hd) (m : MemOp) (s : State) : Res := lineInstr h m (cacheControl ccClean) s

/-- The line that a wide-core `cc.inv.l1` names loses its clean bytes; a scalar L1 has no effect of it (R287). -/
def ccInvalidateL1 (ag : Agent) (a : Acc) (s : State) : LineRes :=
  .done (if ag.id.wide then
      (s.wline? ag.id ag.part a.addr).elim s fun l => s.modWline l fun l => { l with valid := l.valid &&& l.dirty }
    else s)

/-- `cc.inv.l1` (R287): the clean bytes of the quarter's line; no effect on a scalar core. -/
def execCcInvL1 (h : Hd) (m : MemOp) (s : State) : Res := lineInstr h m (cacheControl ccInvalidateL1) s

/-- A line recalled from the cluster's scalar L1s, written back and removed from the issuing cluster's cache (R60, R287); the
instruction waits for the recall. -/
def ccRecall (ag : Agent) (a : Acc) (s : State) : LineRes :=
  match s.ccClear ag.id.cluster fun l => l.block == a.addr / 256 with
  | (s1, true) => .done s1
  | (s1, false) => .wait s1

/-- `cc.inv.cc` (R287). -/
def execCcInvCc (h : Hd) (m : MemOp) (s : State) : Res := lineInstr h m (cacheControl ccRecall) s

/-- The new number of pinned ways of a partition in a cluster. -/
def Partition.setPinned (p : Partition) (cl n : Nat) : Partition :=
  { p with pins := (p.pins.filter fun x => x.1 != cl) ++ [(cl, n)] }

/-- The bytes of a way out of the table: a way that becomes pinned reads as zero, one that is released loses its contents
(R73, R74). -/
def clearWay (cl way : Nat) (s : State) : State :=
  { s with pinned := tclear (cl * 2 ^ 25 + way * 2 ^ 21) (cl * 2 ^ 25 + way * 2 ^ 21 + 2 ^ 21) s.pinned }

/-- The ways of a partition's quarters in a cluster that become pinned, or unpinned, when it pins n (R73, R288). -/
def Partition.pinChanges (p : Partition) (cl n : Nat) : List Nat :=
  (p.quarters cl).flatMap fun q =>
    ((List.range 4).filter fun i => decide (4 - p.pinned cl ≤ i) != decide (4 - n ≤ i)).map fun i => 4 * q + i

/-- `cc.pin` (R288): privileged. The cached lines of ways that become pinned are written back and removed first (R73); the
accesses to the pinned window in flight come first; ways that change are cleared. -/
def execCcPin (h : Hd) (xd : Reg) (n : BitVec 2) (s : State) : Res :=
  withCur s
    (fun t =>
      if !t.guard h then endT t.id s
      else if !t.priv then trapT t.id (privTrap t.pc t.line) false s
      else if s.busy t.id [t.dst xd.toNat] || s.pushBlocked t [xd.toNat] then parkT t.id .retry s
      else
        match s.part? t.part with
        | none => endT t.id s
        | some p =>
          let cl := t.id.cluster
          let s1 := (s.ops.filter fun o => o.owner.cluster == cl && o.part == t.part &&
            o.kind.spans.any fun x => x.1 == .pinned).foldl (fun s o => performOp o s) s
          let ways := p.pinChanges cl n.toNat
          match s1.ccClear cl fun l => ways.contains l.way with
          | (s2, false) => parkT t.id .retry s2
          | (s2, true) =>
            let s3 := (ways.foldl (fun s w => clearWay cl w s) s2).updPart t.part fun p => p.setPinned cl n.toNat
            endT t.id (writeX t.id xd.toNat (w64 (n.toNat * (p.quarters cl).length * 2 ^ 21)) s3))
    fun g => notForGang g h [xd.toNat] (privTrap g.pc g.line) s

end Sys2Proof.Machine
end

