-- ==== Sys2Proof/Machine/Predicate.lean ====
section
/-! DEFINITION. Comparisons, predicates and full/empty bits (R256 to R260). -/

namespace Sys2Proof.Machine

/-- `cmp` (R256). -/
def execCmp (h : Hd) (c : Cond) (k : Comb) (pd : PReg) (xa xb : Reg) (g : Bool) (s : State) : Res :=
  predOp h g [xa, xb] pd (fun i => combine k (i.p pd) (condInt c (i.v 0) (i.v 1))) s
/-- `cmpi` (R256). -/
def execCmpi (h : Hd) (c : Cond) (k : Comb) (pd : PReg) (xa : Reg) (imm : BitVec 32) (g : Bool) (s : State) : Res :=
  predOp h g [xa] pd (fun i => combine k (i.p pd) (condInt c (i.v 0) (imm.signExtend 64))) s

/-- `pand` (R257). -/
def execPand (h : Hd) (pd pa pb : PReg) (na nb : Bool) (s : State) : Res :=
  predOp h false [] pd (fun i => (i.p pa != na) && (i.p pb != nb)) s
/-- `por` (R257). -/
def execPor (h : Hd) (pd pa pb : PReg) (na nb : Bool) (s : State) : Res :=
  predOp h false [] pd (fun i => (i.p pa != na) || (i.p pb != nb)) s
/-- `pxor` (R257). -/
def execPxor (h : Hd) (pd pa pb : PReg) (na nb : Bool) (s : State) : Res :=
  predOp h false [] pd (fun i => (i.p pa != na) != (i.p pb != nb)) s

/-- `pset` (R258). -/
def execPset (h : Hd) (pd : PReg) (b : Bool) (s : State) : Res := predOp h false [] pd (fun _ => b) s
/-- `pset.nz` (R258). -/
def execPsetNz (h : Hd) (pd : PReg) (xa : Reg) (s : State) : Res := predOp h false [xa] pd (fun i => i.v 0 != 0) s
/-- `pset.all` (R258). -/
def execPsetAll (h : Hd) (xa : Reg) (s : State) : Res :=
  regInstr false false h false [xa] []
    (fun i => ((List.range 15).map fun k => .p (BitVec.ofNat 4 (k + 1)) ((i.v 0).getLsbD (k + 1)), i.seed)) s
/-- `pget` (R258). -/
def execPget (h : Hd) (xd : Reg) (s : State) : Res :=
  pureOp h false [] xd (fun i => (i.preds ||| 1).zeroExtend 64) s

/-- `fe.clr` (R259, R260): it waits for nothing, and a pending fill still arrives. -/
def execFeClr (h : Hd) (xd : Reg) (s : State) : Res :=
  withCur s
    (fun t =>
      if !t.guard h then endT t.id s
      else if t.queueOn && (xd == 6 || xd == 7) then trapT t.id (illegalOp t.pc t.line rVariant) false s
      else endT t.id (s.markEmpty t.id (t.dst xd.toNat)))
    fun g =>
      if !g.xOk [xd.toNat] then trapG g.id (illegalOp g.pc g.line rRegister) false s
      else endG g.id (s.updGang g.id fun g => (g.active h).foldl (fun g l => g.clrPair xd.toNat l) g)

/-- `fe.tst` (R259, R260): it never parks; on a wide core both halves must be full. -/
def execFeTst (h : Hd) (pd : PReg) (xa : Reg) (s : State) : Res :=
  withCur s
    (fun t =>
      if !t.guard h then endT t.id s
      else
        let b :=
          if xa = 0 then true
          else if t.queueOn && xa == 6 then !t.recvq.isEmpty
          else if t.queueOn && xa == 7 then !s.pushBlocked t [7]
          else (t.getX xa.toNat).full
        endT t.id (s.updThread t.id fun t => t.setPred pd.toNat b))
    fun g =>
      if !g.xOk [xa.toNat] then trapG g.id (illegalOp g.pc g.line rRegister) false s
      else
        endG g.id (s.updGang g.id fun g => (g.active h).foldl (fun u l =>
          u.setPred pd.toNat l (xa == 0 || (g.fullV (2 * xa.toNat) l && g.fullV (2 * xa.toNat + 1) l))) g)

end Sys2Proof.Machine
end

