-- ==== Sys2Proof/Machine/ScalarFp.lean ====
section
/-! DEFINITION. Scalar floating point (R261 to R269). -/

namespace Sys2Proof.Machine

/-- The format of a scalar floating-point instruction. -/
def fpFmt (dbl : Bool) : FF := if dbl then .f64 else .f32

/-- The code of an operand: FP32 from the low half (R261). -/
def fpCode (dbl : Bool) (w : Word) : Nat := if dbl then w.toNat else w.toNat % 2 ^ 32

/-- The value of an operand. -/
def fpVal (dbl : Bool) (w : Word) : FVal := (fpFmt dbl).decode (fpCode dbl w)

/-- An instruction whose result is one rounding of an exact value (R197, R261, R269). -/
def fpRound (late : Bool) (h : Hd) (g dbl : Bool) (rm : Rnd) (srcs : List Reg) (xd : Reg) (f : In → Exact) (s : State) :
    Res :=
  regInstr late false h g srcs [xd]
    (fun i => ([.x xd (w64 (roundTo (fpFmt dbl) rm false (f i) (srStep i.seed)))], srNext rm i.seed)) s

/-- `fadd` (R262). -/
def execFadd (h : Hd) (dbl : Bool) (rm : Rnd) (r : R3) (s : State) : Res :=
  fpRound false h r.g dbl rm [r.xa, r.xb] r.xd (fun i => exactAdd rm (fpVal dbl (i.v 0)) (fpVal dbl (i.v 1))) s
/-- `fsub` (R262). -/
def execFsub (h : Hd) (dbl : Bool) (rm : Rnd) (r : R3) (s : State) : Res :=
  fpRound false h r.g dbl rm [r.xa, r.xb] r.xd (fun i => exactAdd rm (fpVal dbl (i.v 0)) (fpVal dbl (i.v 1)).neg) s
/-- `fmul` (R262). -/
def execFmul (h : Hd) (dbl : Bool) (rm : Rnd) (r : R3) (s : State) : Res :=
  fpRound false h r.g dbl rm [r.xa, r.xb] r.xd (fun i => exactMul (fpVal dbl (i.v 0)) (fpVal dbl (i.v 1))) s
/-- `ffma` (R263): a single rounding. -/
def execFfma (h : Hd) (neg dbl : Bool) (rm : Rnd) (r : R3) (xc : Reg) (s : State) : Res :=
  fpRound false h r.g dbl rm [r.xa, r.xb, xc] r.xd
    (fun i => exactFma rm neg (fpVal dbl (i.v 0)) (fpVal dbl (i.v 1)) (fpVal dbl (i.v 2))) s

/-- `fmin` (R264). -/
def execFmin (h : Hd) (dbl : Bool) (r : R3) (s : State) : Res :=
  pureOp h r.g [r.xa, r.xb] r.xd (fun i => w64 (fminmax (fpFmt dbl) false (fpCode dbl (i.v 0)) (fpCode dbl (i.v 1)))) s
/-- `fmax` (R264). -/
def execFmax (h : Hd) (dbl : Bool) (r : R3) (s : State) : Res :=
  pureOp h r.g [r.xa, r.xb] r.xd (fun i => w64 (fminmax (fpFmt dbl) true (fpCode dbl (i.v 0)) (fpCode dbl (i.v 1)))) s
/-- `fcmp` (R265). -/
def execFcmp (h : Hd) (dbl : Bool) (c : FCond) (pd : PReg) (xa xb : Reg) (g : Bool) (s : State) : Res :=
  predOp h g [xa, xb] pd (fun i => condHolds c (fcmpVal (fpVal dbl (i.v 0)) (fpVal dbl (i.v 1)))) s

/-- A converted code as `fcvt` writes it: a signed integer sign-extended, the rest zero-extended (R266). -/
def cvtWord (d : XFmt) (c : Nat) : Word :=
  match xfmtInt d with
  | some (w, true) => signField' c w
  | _ => w64 c
where
  signField' (v n : Nat) : Word := w64 (wrapInt 64 (intVal n true (v % 2 ^ n)))

/-- Whether a conversion rounds, so that .rs steps the seed (R200). -/
def cvtSeed (rm : Rnd) (seed : BitVec 32) : BitVec 32 := srNext rm seed

/-- `fcvt` (R266). -/
def execFcvt (h : Hd) (dst src : XFmt) (rm : Rnd) (sat : Bool) (r : R2) (s : State) : Res :=
  regInstr false false h r.g [r.xa] [r.xd]
    (fun i => ([.x r.xd (cvtWord dst (convert dst src rm sat (i.v 0).toNat (srStep i.seed)))], cvtSeed rm i.seed)) s

/-- `frcp` (R267): filled late. -/
def execFrcp (h : Hd) (dbl : Bool) (rm : Rnd) (r : R2) (s : State) : Res :=
  fpRound true h r.g dbl rm [r.xa] r.xd (fun i => exactRcp (fpVal dbl (i.v 0))) s
/-- `frsq` (R267): filled late. -/
def execFrsq (h : Hd) (dbl : Bool) (rm : Rnd) (r : R2) (s : State) : Res :=
  fpRound true h r.g dbl rm [r.xa] r.xd (fun i => exactRsq (fpVal dbl (i.v 0))) s

/-- The sign that a sign operation gives xa's magnitude (R268). -/
def sgnOf (f : FF) (op : SgnOp) (a b : Nat) : Bool :=
  match op with
  | .cp => f.neg b
  | .ncp => !f.neg b
  | .xor => f.neg a != f.neg b

/-- `fsgn` (R268): bits only. -/
def execFsgn (h : Hd) (dbl : Bool) (op : SgnOp) (r : R3) (s : State) : Res :=
  pureOp h r.g [r.xa, r.xb] r.xd
    (fun i =>
      let f := fpFmt dbl
      w64 (setSign f (fpCode dbl (i.v 0)) (sgnOf f op (fpCode dbl (i.v 0)) (fpCode dbl (i.v 1))))) s
/-- `fclass` (R268). -/
def execFclass (h : Hd) (dbl : Bool) (r : R2) (s : State) : Res :=
  pureOp h r.g [r.xa] r.xd (fun i => w64 (fclassMask (fpFmt dbl) (fpCode dbl (i.v 0)))) s

end Sys2Proof.Machine
end

