-- ==== Sys2Proof/Machine/Dispatch.lean ====
section
/-! DEFINITION. Which meaning each instruction and each step of the device has: one arm per constructor of `Instr`. -/

namespace Sys2Proof.Machine

def exec (i : Instr) (s : State) : Host.Outcome State Fault Refusal :=
  match i with
  | .br h t => Sys2Proof.Machine.execBr h t s
  | .jal h xd t => Sys2Proof.Machine.execJal h xd t s
  | .jalr h xd xa lines => Sys2Proof.Machine.execJalr h xd xa lines s
  | .call h t => Sys2Proof.Machine.execCall h t s
  | .callr h xa => Sys2Proof.Machine.execCallr h xa s
  | .ret h => Sys2Proof.Machine.execRet h s
  | .loop h xa t => Sys2Proof.Machine.execLoop h xa t s
  | .trap h code => Sys2Proof.Machine.execTrap h code s
  | .sysc h code => Sys2Proof.Machine.execSysc h code s
  | .brk h code => Sys2Proof.Machine.execBrk h code s
  | .eret h => Sys2Proof.Machine.execEret h s
  | .nop h => Sys2Proof.Machine.execNop h s
  | .yield h => Sys2Proof.Machine.execYield h s
  | .sleep h ticks => Sys2Proof.Machine.execSleep h ticks s
  | .exit h xa => Sys2Proof.Machine.execExit h xa s
  | .add h r => Sys2Proof.Machine.execAdd h r s
  | .sub h r => Sys2Proof.Machine.execSub h r s
  | .mul h r => Sys2Proof.Machine.execMul h r s
  | .and h r => Sys2Proof.Machine.execAnd h r s
  | .or h r => Sys2Proof.Machine.execOr h r s
  | .xor h r => Sys2Proof.Machine.execXor h r s
  | .andn h r => Sys2Proof.Machine.execAndn h r s
  | .orn h r => Sys2Proof.Machine.execOrn h r s
  | .xnor h r => Sys2Proof.Machine.execXnor h r s
  | .clz h r => Sys2Proof.Machine.execClz h r s
  | .ctz h r => Sys2Proof.Machine.execCtz h r s
  | .popc h r => Sys2Proof.Machine.execPopc h r s
  | .brev h r => Sys2Proof.Machine.execBrev h r s
  | .bswap h r => Sys2Proof.Machine.execBswap h r s
  | .mov h r => Sys2Proof.Machine.execMov h r s
  | .addi h r => Sys2Proof.Machine.execAddi h r s
  | .andi h r => Sys2Proof.Machine.execAndi h r s
  | .ori h r => Sys2Proof.Machine.execOri h r s
  | .xori h r => Sys2Proof.Machine.execXori h r s
  | .li h xd imm g => Sys2Proof.Machine.execLi h xd imm g s
  | .liZ h xd imm g => Sys2Proof.Machine.execLiZ h xd imm g s
  | .liHi h xd xa imm g => Sys2Proof.Machine.execLiHi h xd xa imm g s
  | .addpc h xd t g => Sys2Proof.Machine.execAddpc h xd t g s
  | .mulh h k r => Sys2Proof.Machine.execMulh h k r s
  | .div h uns r => Sys2Proof.Machine.execDiv h uns r s
  | .rem h uns r => Sys2Proof.Machine.execRem h uns r s
  | .shl h r amt => Sys2Proof.Machine.execShl h r amt s
  | .shr h r amt => Sys2Proof.Machine.execShr h r amt s
  | .sar h r amt => Sys2Proof.Machine.execSar h r amt s
  | .rotr h r amt => Sys2Proof.Machine.execRotr h r amt s
  | .shfi h r amt => Sys2Proof.Machine.execShfi h r amt s
  | .bfe h sgn r lsb len1 => Sys2Proof.Machine.execBfe h sgn r lsb len1 s
  | .bfi h r lsb len1 => Sys2Proof.Machine.execBfi h r lsb len1 s
  | .min h uns r => Sys2Proof.Machine.execMin h uns r s
  | .max h uns r => Sys2Proof.Machine.execMax h uns r s
  | .sel h xd xa xb pc => Sys2Proof.Machine.execSel h xd xa xb pc s
  | .sext h r n1 => Sys2Proof.Machine.execSext h r n1 s
  | .zext h r n1 => Sys2Proof.Machine.execZext h r n1 s
  | .cmp h c k pd xa xb g => Sys2Proof.Machine.execCmp h c k pd xa xb g s
  | .cmpi h c k pd xa imm g => Sys2Proof.Machine.execCmpi h c k pd xa imm g s
  | .pand h pd pa pb na nb => Sys2Proof.Machine.execPand h pd pa pb na nb s
  | .por h pd pa pb na nb => Sys2Proof.Machine.execPor h pd pa pb na nb s
  | .pxor h pd pa pb na nb => Sys2Proof.Machine.execPxor h pd pa pb na nb s
  | .pset h pd b => Sys2Proof.Machine.execPset h pd b s
  | .psetNz h pd xa => Sys2Proof.Machine.execPsetNz h pd xa s
  | .psetAll h xa => Sys2Proof.Machine.execPsetAll h xa s
  | .pget h xd => Sys2Proof.Machine.execPget h xd s
  | .feClr h xd => Sys2Proof.Machine.execFeClr h xd s
  | .feTst h pd xa => Sys2Proof.Machine.execFeTst h pd xa s
  | .fadd h dbl rm r => Sys2Proof.Machine.execFadd h dbl rm r s
  | .fsub h dbl rm r => Sys2Proof.Machine.execFsub h dbl rm r s
  | .fmul h dbl rm r => Sys2Proof.Machine.execFmul h dbl rm r s
  | .ffma h neg dbl rm r xc => Sys2Proof.Machine.execFfma h neg dbl rm r xc s
  | .fmin h dbl r => Sys2Proof.Machine.execFmin h dbl r s
  | .fmax h dbl r => Sys2Proof.Machine.execFmax h dbl r s
  | .fcmp h dbl c pd xa xb g => Sys2Proof.Machine.execFcmp h dbl c pd xa xb g s
  | .fcvt h dst src rm sat r => Sys2Proof.Machine.execFcvt h dst src rm sat r s
  | .frcp h dbl rm r => Sys2Proof.Machine.execFrcp h dbl rm r s
  | .frsq h dbl rm r => Sys2Proof.Machine.execFrsq h dbl rm r s
  | .fsgn h dbl op r => Sys2Proof.Machine.execFsgn h dbl op r s
  | .fclass h dbl r => Sys2Proof.Machine.execFclass h dbl r s
  | .csrr h xd n => Sys2Proof.Machine.execCsrr h xd n s
  | .csrw h n xa => Sys2Proof.Machine.execCsrw h n xa s
  | .csrxSwap h xd n xa => Sys2Proof.Machine.execCsrxSwap h xd n xa s
  | .csrxSet h xd n xa => Sys2Proof.Machine.execCsrxSet h xd n xa s
  | .csrxClr h xd n xa => Sys2Proof.Machine.execCsrxClr h xd n xa s
  | .ld h sz r => Sys2Proof.Machine.execLd h sz r s
  | .ldx h sz r => Sys2Proof.Machine.execLdx h sz r s
  | .st h sz r => Sys2Proof.Machine.execSt h sz r s
  | .stx h sz r => Sys2Proof.Machine.execStx h sz r s
  | .ldAcq h sz sc r => Sys2Proof.Machine.execLdAcq h sz sc r s
  | .stRel h sz sc r => Sys2Proof.Machine.execStRel h sz sc r s
  | .ldp h r => Sys2Proof.Machine.execLdp h r s
  | .stp h r => Sys2Proof.Machine.execStp h r s
  | .prefL1 h m => Sys2Proof.Machine.execPrefL1 h m s
  | .prefCc h m => Sys2Proof.Machine.execPrefCc h m s
  | .ccWbL1 h m => Sys2Proof.Machine.execCcWbL1 h m s
  | .ccWbCc h m => Sys2Proof.Machine.execCcWbCc h m s
  | .ccInvL1 h m => Sys2Proof.Machine.execCcInvL1 h m s
  | .ccInvCc h m => Sys2Proof.Machine.execCcInvCc h m s
  | .ccPin h xd n => Sys2Proof.Machine.execCcPin h xd n s
  | .amo h op sc ord sz8 r off => Sys2Proof.Machine.execAmo h op sc ord sz8 r off s
  | .cas h sc ord sz8 r xc off => Sys2Proof.Machine.execCas h sc ord sz8 r xc off s
  | .red h op sc rel sz8 xa xb g off => Sys2Proof.Machine.execRed h op sc rel sz8 xa xb g off s
  | .fence h sc pred succ => Sys2Proof.Machine.execFence h sc pred succ s
  | .watch h r => Sys2Proof.Machine.execWatch h r s
  | .unwatch h xd => Sys2Proof.Machine.execUnwatch h xd s
  | .cpy h v f ch r => Sys2Proof.Machine.execCpy h v f ch r s
  | .cpyg h esz v f ch r => Sys2Proof.Machine.execCpyg h esz v f ch r s
  | .chsetFill h ch xa g => Sys2Proof.Machine.execChsetFill h ch xa g s
  | .chsetTable h ch xa g => Sys2Proof.Machine.execChsetTable h ch xa g s
  | .chsetNsrc h ch xa g => Sys2Proof.Machine.execChsetNsrc h ch xa g s
  | .chsetFolio h ch xa loc g => Sys2Proof.Machine.execChsetFolio h ch xa loc g s
  | .chwm h xd ch g => Sys2Proof.Machine.execChwm h xd ch g s
  | .chwmSt h xd ch g => Sys2Proof.Machine.execChwmSt h xd ch g s
  | .send h e n xd xa => Sys2Proof.Machine.execSend h e n xd xa s
  | .done h => Sys2Proof.Machine.execDone h s
  | .bind h cls xa => Sys2Proof.Machine.execBind h cls xa s
  | .fenter h r => Sys2Proof.Machine.execFenter h r s
  | .fleave h r => Sys2Proof.Machine.execFleave h r s
  | .fhold h xd xa loc => Sys2Proof.Machine.execFhold h xd xa loc s
  | .finc h xa xb => Sys2Proof.Machine.execFinc h xa xb s
  | .fdrop h xa => Sys2Proof.Machine.execFdrop h xa s
  | .fwait h xa loc g => Sys2Proof.Machine.execFwait h xa loc g s
  | .fprobe h xd loc g => Sys2Proof.Machine.execFprobe h xd loc g s
  | .fprobeInfo h xd loc g => Sys2Proof.Machine.execFprobeInfo h xd loc g s
  | .gcallLabel h t => Sys2Proof.Machine.execGcallLabel h t s
  | .gcallReg h xa => Sys2Proof.Machine.execGcallReg h xa s
  | .gret h => Sys2Proof.Machine.execGret h s
  | .tlbinvPg h xd xa asid => Sys2Proof.Machine.execTlbinvPg h xd xa asid s
  | .tlbinvAs h xd asid => Sys2Proof.Machine.execTlbinvAs h xd asid s
  | .tlbinvAll h xd => Sys2Proof.Machine.execTlbinvAll h xd s
  | .scrub h xd xa classes => Sys2Proof.Machine.execScrub h xd xa classes s
  | .ctxsave h xd xa xb => Sys2Proof.Machine.execCtxsave h xd xa xb s
  | .ctxrest h xd xa => Sys2Proof.Machine.execCtxrest h xd xa s
  | .ipi h xd xa => Sys2Proof.Machine.execIpi h xd xa s
  | .fgraphIns h xd xa => Sys2Proof.Machine.execFgraphIns h xd xa s
  | .fgraphExt h xd xa => Sys2Proof.Machine.execFgraphExt h xd xa s
  | .fgraphDel h xd n => Sys2Proof.Machine.execFgraphDel h xd n s
  | .vadd h r => Sys2Proof.Machine.execVadd h r s
  | .vsub h r => Sys2Proof.Machine.execVsub h r s
  | .vmul h r => Sys2Proof.Machine.execVmul h r s
  | .vfma h neg r vc => Sys2Proof.Machine.execVfma h neg r vc s
  | .vmin h ty r => Sys2Proof.Machine.execVmin h ty r s
  | .vmax h ty r => Sys2Proof.Machine.execVmax h ty r s
  | .vmulh h ty r => Sys2Proof.Machine.execVmulh h ty r s
  | .vdiv h ty rm rem r => Sys2Proof.Machine.execVdiv h ty rm rem r s
  | .vsqrt h ty rm vd va => Sys2Proof.Machine.execVsqrt h ty rm vd va s
  | .vrcp h ty rm vd va => Sys2Proof.Machine.execVrcp h ty rm vd va s
  | .vrsq h ty rm vd va => Sys2Proof.Machine.execVrsq h ty rm vd va s
  | .vexp2 h ty rm vd va => Sys2Proof.Machine.execVexp2 h ty rm vd va s
  | .vlog2 h ty rm vd va => Sys2Proof.Machine.execVlog2 h ty rm vd va s
  | .vsgnCp h ty r => Sys2Proof.Machine.execVsgnCp h ty r s
  | .vsgnNcp h ty r => Sys2Proof.Machine.execVsgnNcp h ty r s
  | .vsgnXor h ty r => Sys2Proof.Machine.execVsgnXor h ty r s
  | .vsgnAbs h ty vd va => Sys2Proof.Machine.execVsgnAbs h ty vd va s
  | .vsgnNeg h ty vd va => Sys2Proof.Machine.execVsgnNeg h ty vd va s
  | .vand h r => Sys2Proof.Machine.execVand h r s
  | .vor h r => Sys2Proof.Machine.execVor h r s
  | .vxor h r => Sys2Proof.Machine.execVxor h r s
  | .vandn h r => Sys2Proof.Machine.execVandn h r s
  | .vpopc h vd va => Sys2Proof.Machine.execVpopc h vd va s
  | .vmov h n64 vd va => Sys2Proof.Machine.execVmov h n64 vd va s
  | .vshl h ty vd va amt => Sys2Proof.Machine.execVshl h ty vd va amt s
  | .vshr h ty vd va amt => Sys2Proof.Machine.execVshr h ty vd va amt s
  | .vsar h ty vd va amt => Sys2Proof.Machine.execVsar h ty vd va amt s
  | .vclz h ty vd va => Sys2Proof.Machine.execVclz h ty vd va s
  | .vcmp h ty c k pd va vb => Sys2Proof.Machine.execVcmp h ty c k pd va vb s
  | .vsel h n64 r pc => Sys2Proof.Machine.execVsel h n64 r pc s
  | .vcvt h dst src rm sat vd va => Sys2Proof.Machine.execVcvt h dst src rm sat vd va s
  | .vpack h f ty rm sat r => Sys2Proof.Machine.execVpack h f ty rm sat r s
  | .vunpk h f ty rm sat vd va => Sys2Proof.Machine.execVunpk h f ty rm sat vd va s
  | .vlutL4 h vd va => Sys2Proof.Machine.execVlutL4 h vd va s
  | .vlutTab h r => Sys2Proof.Machine.execVlutTab h r s
  | .vdot h r vc => Sys2Proof.Machine.execVdot h r vc s
  | .vshfIdx h n64 r => Sys2Proof.Machine.execVshfIdx h n64 r s
  | .vshfXor h n64 vd va c => Sys2Proof.Machine.execVshfXor h n64 vd va c s
  | .vshfUp h n64 vd va c => Sys2Proof.Machine.execVshfUp h n64 vd va c s
  | .vshfDn h n64 vd va c => Sys2Proof.Machine.execVshfDn h n64 vd va c s
  | .vsplat h n64 vd src => Sys2Proof.Machine.execVsplat h n64 vd src s
  | .vbcast h n64 vd va src => Sys2Proof.Machine.execVbcast h n64 vd va src s
  | .vrot h n64 vd va src => Sys2Proof.Machine.execVrot h n64 vd va src s
  | .vballot h hi cnt sd pc => Sys2Proof.Machine.execVballot h hi cnt sd pc s
  | .vred h op ty rm sat vd va => Sys2Proof.Machine.execVred h op ty rm sat vd va s
  | .vscan h op ty rm sat excl vd va => Sys2Proof.Machine.execVscan h op ty rm sat excl vd va s
  | .vseg h op ty rm sat r => Sys2Proof.Machine.execVseg h op ty rm sat r s
  | .vconf h n64 vd va pc => Sys2Proof.Machine.execVconf h n64 vd va pc s
  | .vtopk h ty r k sc => Sys2Proof.Machine.execVtopk h ty r k sc s
  | .vmrgk h ty r k sc => Sys2Proof.Machine.execVmrgk h ty r k sc s
  | .vld h sz m vd sr imm => Sys2Proof.Machine.execVld h sz m vd sr imm s
  | .vst h sz m vd sr imm => Sys2Proof.Machine.execVst h sz m vd sr imm s
  | .vldc h n1 vd sr imm => Sys2Proof.Machine.execVldc h n1 vd sr imm s
  | .vstc h n1 vd sr imm => Sys2Proof.Machine.execVstc h n1 vd sr imm s
  | .vamo h op ty dv r => Sys2Proof.Machine.execVamo h op ty dv r s
  | .vrdm h op sz8 sc vd va sr imm => Sys2Proof.Machine.execVrdm h op sz8 sc vd va sr imm s
  | .mma h m => Sys2Proof.Machine.execMma h m s
  | .mrot h m => Sys2Proof.Machine.execMrot h m s
  | .mjoin h => Sys2Proof.Machine.execMjoin h s
  | .mzero h acc => Sys2Proof.Machine.execMzero h acc s
  | .mrd h acc blk g off k => Sys2Proof.Machine.execMrd h acc blk g off k s
  | .mwr h acc blk g off conv => Sys2Proof.Machine.execMwr h acc blk g off conv s
  | .mready h => Sys2Proof.Machine.execMready h s
  | .mwait h acc => Sys2Proof.Machine.execMwait h acc s
  | .mtrn h accd accs => Sys2Proof.Machine.execMtrn h accd accs s
  | .sleepExpiry c => Sys2Proof.Machine.execSleepExpiry c s
  | .lineEntry c => Sys2Proof.Machine.execLineEntry c s
  | .lineWaitRelease c => Sys2Proof.Machine.execLineWaitRelease c s
  | .flagCompletion op => Sys2Proof.Machine.execFlagCompletion op s
  | .registerFill op => Sys2Proof.Machine.execRegisterFill op s
  | .windowSpill c => Sys2Proof.Machine.execWindowSpill c s
  | .windowReload c => Sys2Proof.Machine.execWindowReload c s
  | .asyncMachineDelivery c => Sys2Proof.Machine.execAsyncMachineDelivery c s
  | .quirePatrolRead pa => Sys2Proof.Machine.execQuirePatrolRead pa s
  | .reservedOpcode head tail => Sys2Proof.Machine.execReservedOpcode head tail s
  | .galleyTimeout key => Sys2Proof.Machine.execGalleyTimeout key s
  | .gangPlacement part cluster => Sys2Proof.Machine.execGangPlacement part cluster s
  | .burstSend t ch k => Sys2Proof.Machine.execBurstSend t ch k s
  | .burstTransfer t ch k => Sys2Proof.Machine.execBurstTransfer t ch k s
  | .burstLanding t ch k => Sys2Proof.Machine.execBurstLanding t ch k s
  | .watermarkStallRelease c => Sys2Proof.Machine.execWatermarkStallRelease c s
  | .channelDrainExpiry t => Sys2Proof.Machine.execChannelDrainExpiry t s
  | .tileBatchSend cluster rank => Sys2Proof.Machine.execTileBatchSend cluster rank s
  | .clusterBatchForward c => Sys2Proof.Machine.execClusterBatchForward c s
  | .deviceBatchForward => Sys2Proof.Machine.execDeviceBatchForward s
  | .jobStart device aggregator => Sys2Proof.Machine.execJobStart device aggregator s
  | .batchApply u => Sys2Proof.Machine.execBatchApply u s
  | .frontierAnnounce inst loc => Sys2Proof.Machine.execFrontierAnnounce inst loc s
  | .closureWalkEnd part => Sys2Proof.Machine.execClosureWalkEnd part s
  | .messageArrival msg => Sys2Proof.Machine.execMessageArrival msg s
  | .senderHeldAccept msg => Sys2Proof.Machine.execSenderHeldAccept msg s
  | .queuePushArrival op => Sys2Proof.Machine.execQueuePushArrival op s
  | .storeBufferWriteback c => Sys2Proof.Machine.execStoreBufferWriteback c s
  | .storeAcknowledgement op => Sys2Proof.Machine.execStoreAcknowledgement op s
  | .pageWalk c va k => Sys2Proof.Machine.execPageWalk c va k s
  | .tlbinvAck op => Sys2Proof.Machine.execTlbinvAck op s
  | .gets c line => Sys2Proof.Machine.execGets c line s
  | .getm c line => Sys2Proof.Machine.execGetm c line s
  | .upg c line => Sys2Proof.Machine.execUpg c line s
  | .puts c line => Sys2Proof.Machine.execPuts c line s
  | .pute c line => Sys2Proof.Machine.execPute c line s
  | .putm c line => Sys2Proof.Machine.execPutm c line s
  | .invack c line => Sys2Proof.Machine.execInvack c line s
  | .datawb c line => Sys2Proof.Machine.execDatawb c line s
  | .inv c line => Sys2Proof.Machine.execInv c line s
  | .fwds c line => Sys2Proof.Machine.execFwds c line s
  | .fwdm c line => Sys2Proof.Machine.execFwdm c line s
  | .dataReply c line => Sys2Proof.Machine.execDataReply c line s
  | .ackupg c line => Sys2Proof.Machine.execAckupg c line s
  | .overflowAdd cluster rank quarter => Sys2Proof.Machine.execOverflowAdd cluster rank quarter s
  | .overflowInval cluster rank quarter => Sys2Proof.Machine.execOverflowInval cluster rank quarter s
  | .rds cluster region => Sys2Proof.Machine.execRds cluster region s
  | .rdm cluster region => Sys2Proof.Machine.execRdm cluster region s
  | .regionWb cluster region => Sys2Proof.Machine.execRegionWb cluster region s
  | .evr cluster region => Sys2Proof.Machine.execEvr cluster region s
  | .rinv cluster region => Sys2Proof.Machine.execRinv cluster region s
  | .rdown cluster region => Sys2Proof.Machine.execRdown cluster region s
  | .hostCxlMemRead pa len => Sys2Proof.Machine.execHostCxlMemRead pa len s
  | .hostCxlMemWrite pa data => Sys2Proof.Machine.execHostCxlMemWrite pa data s
  | .regionAcknowledgement region => Sys2Proof.Machine.execRegionAcknowledgement region s
  | .regionData cluster region => Sys2Proof.Machine.execRegionData cluster region s
  | .missMergeExpiry cluster block => Sys2Proof.Machine.execMissMergeExpiry cluster block s
  | .atomicAtUnit op => Sys2Proof.Machine.execAtomicAtUnit op s
  | .fairnessTimerExpiry c => Sys2Proof.Machine.execFairnessTimerExpiry c s
  | .teamPlacement launch => Sys2Proof.Machine.execTeamPlacement launch s
  | .coresidentPlacementTimeout launch => Sys2Proof.Machine.execCoresidentPlacementTimeout launch s
  | .thermalExclusion cluster tile temp => Sys2Proof.Machine.execThermalExclusion cluster tile temp s
  | .droopEvent cluster tile => Sys2Proof.Machine.execDroopEvent cluster tile s
  | .thermalReinstatement cluster tile temp => Sys2Proof.Machine.execThermalReinstatement cluster tile temp s
  | .thermalThrottle => Sys2Proof.Machine.execThermalThrottle s
  | .thermalThrottleEnd => Sys2Proof.Machine.execThermalThrottleEnd s
  | .engineOperationEnd part cluster tile => Sys2Proof.Machine.execEngineOperationEnd part cluster tile s
  | .mrotArrival c north => Sys2Proof.Machine.execMrotArrival c north s
  | .mjoinRelease launch gang => Sys2Proof.Machine.execMjoinRelease launch gang s
  | .partitionPreempt part tiles why => Sys2Proof.Machine.execPartitionPreempt part tiles why s
  | .timeSliceExpiry part => Sys2Proof.Machine.execTimeSliceExpiry part s
  | .contextRestore t => Sys2Proof.Machine.execContextRestore t s
  | .kill c => Sys2Proof.Machine.execKill c s
  | .tenantSwitch part incoming fails => Sys2Proof.Machine.execTenantSwitch part incoming fails s
  | .expectedSeqRelease launch => Sys2Proof.Machine.execExpectedSeqRelease launch s
  | .tileRetire cluster tile => Sys2Proof.Machine.execTileRetire cluster tile s
  | .qwrDoorbell q value => Sys2Proof.Machine.execQwrDoorbell q value s
  | .queueRegisterWrite q r value => Sys2Proof.Machine.execQueueRegisterWrite q r value s
  | .qctlResume q => Sys2Proof.Machine.execQctlResume q s
  | .qctlKill q => Sys2Proof.Machine.execQctlKill q s
  | .qctlBadwrClear q => Sys2Proof.Machine.execQctlBadwrClear q s
  | .privokSet q on => Sys2Proof.Machine.execPrivokSet q on s
  | .packetStart q => Sys2Proof.Machine.execPacketStart q s
  | .signalWaitPacket q => Sys2Proof.Machine.execSignalWaitPacket q s
  | .launchPacket q => Sys2Proof.Machine.execLaunchPacket q s
  | .folioLaunchPacket q => Sys2Proof.Machine.execFolioLaunchPacket q s
  | .copyPacket q => Sys2Proof.Machine.execCopyPacket q s
  | .graphInstallPacket q => Sys2Proof.Machine.execGraphInstallPacket q s
  | .signalAbort q => Sys2Proof.Machine.execSignalAbort q s
  | .packetCompletion q => Sys2Proof.Machine.execPacketCompletion q s
  | .debugPortRead part vf launchId team gang item => Sys2Proof.Machine.execDebugPortRead part vf launchId team gang item s
  | .debugPortWrite part vf launchId team gang item value => Sys2Proof.Machine.execDebugPortWrite part vf launchId team gang item value s
  | .debugEnable part on => Sys2Proof.Machine.execDebugEnable part on s
  | .linkFlitReceive link crcOk dev cls seq m => Sys2Proof.Machine.execLinkFlitReceive link crcOk dev cls seq m s
  | .linkFailure link => Sys2Proof.Machine.execLinkFailure link s
  | .partFault p => Sys2Proof.Machine.execPartFault p s
  | .deviceFault dev => Sys2Proof.Machine.execDeviceFault dev s
  | .jobCountRestore part counts => Sys2Proof.Machine.execJobCountRestore part counts s
  | .exportTracking part log cap => Sys2Proof.Machine.execExportTracking part log cap s
  | .exportTrackingDisable part => Sys2Proof.Machine.execExportTrackingDisable part s
  | .finalExport part vf dst => Sys2Proof.Machine.execFinalExport part vf dst s
  | .importState part vf src => Sys2Proof.Machine.execImportState part vf src s
  | .snapshotRequest part vf dst => Sys2Proof.Machine.execSnapshotRequest part vf dst s
  | .uncorrectableError st key onlyCopy => Sys2Proof.Machine.execUncorrectableError st key onlyCopy s
  | .resetBoot verified => Sys2Proof.Machine.execResetBoot verified s
  | .getVersion => Sys2Proof.Machine.execGetVersion s
  | .getCapabilities => Sys2Proof.Machine.execGetCapabilities s
  | .negotiateAlgorithms => Sys2Proof.Machine.execNegotiateAlgorithms s
  | .getDigests => Sys2Proof.Machine.execGetDigests s
  | .getCertificate slot => Sys2Proof.Machine.execGetCertificate slot s
  | .challenge nonce => Sys2Proof.Machine.execChallenge nonce s
  | .getMeasurements index => Sys2Proof.Machine.execGetMeasurements index s
  | .firmwareUpdate image version verified interrupted => Sys2Proof.Machine.execFirmwareUpdate image version verified interrupted s
  | .recoveryImageLoad image version verified => Sys2Proof.Machine.execRecoveryImageLoad image version verified s
  | .powerOn => Sys2Proof.Machine.execPowerOn s
  | .partitionCreate cfg => Sys2Proof.Machine.execPartitionCreate cfg s
  | .vfAssign part vf => Sys2Proof.Machine.execVfAssign part vf s

end Sys2Proof.Machine
end

