-- ==== Sys2Proof/Machine/Fetch.lean ====
section
/-! DEFINITION. A program placed from outside for one step: the state in which the next step fetches and runs one head
(log 14). -/

namespace Sys2Proof.Machine

/-- A line of one head with its tail, without flags and without a wait (R205, R206). -/
def oneHeadLine (head tail : Nat) : Nat :=
  let len := tailBits (bits head 15 14)
  2 ^ 20 + 0xF * 2 ^ 16 + 0xF * 2 ^ 12 + head % 2 ^ 16 * 2 ^ 32 + tail % 2 ^ len * 2 ^ (512 - len)

/-- The virtual address, and physical address, of the line placed. -/
def fetchVa : Nat := 0x10_0000
def fetchPa : Nat := 0x100_0000

/-- The partition of the program placed: quarter 0 of cluster 0 and the first 512 MiB of device memory. -/
def fetchPart : Partition :=
  { cfg := { num := 0, pairs := [(0, 0)], devRanges := [(0, 2 ^ 29)], hostVisible := [], hostRanges := [], claddr := 0,
             tenant := 0, slice := 0 }
    quota := 2 ^ 29, clseq := 0, drainlim := 0x7D00, held := false, pins := [], counters := Counters.zero, exporting := none,
    stopped := false, debug := false, slice := 0, sliceLeft := 0, graph := ⟨[], [], []⟩, walk := none, opened := [], counts := [],
    announced := [] }

/-- The page tables that map fetchVa to fetchPa, executable (R25, R26): the top table at 128 KiB, the two below it at 256 KiB
and 320 KiB. -/
def fetchTables (m : Tab Byte) : Tab Byte :=
  let m1 := wrBytes m 0x2_0000 (toBytes 8 (0x4_0000 + 1))
  let m2 := wrBytes m1 0x4_0000 (toBytes 8 (0x5_0000 + 1))
  wrBytes m2 (0x5_0000 + 8 * 0x10) (toBytes 8 (fetchPa + 0x200 + 0x40 + 0x20 + 4 + 1))

/-- The translation of that page, which a walk has installed (R37): a fetch waits for none. -/
def fetchTlb : TlbEntry :=
  { part := 0, cluster := 0, asid := 0, vpage := vpageOf false fetchVa, big := false, frame := fetchPa, r := false, w := false,
    x := true, h := false, c := true, d := false }

/-- The context that runs the head: a gang context for an opcode that runs only on a wide core. -/
def fetchCtx (head : Nat) : CtxId := ⟨0, 0, wideOnly (bits head 13 6), 0, 0⟩

/-- The header of the gang that runs the head. -/
def fetchHdr : KHdr :=
  { kind := 1, width := 1, vregs := 512, sregs := 31, acc := 2, scratch := 0, timeout := 0, progress := 0, place := 0,
    windows := 0, entry := 0, cls := 0, corows := 0, cocols := 0, flags := 0 }

/-- The state with a program of one head placed and its context current (log 14). -/
def placeHead (head tail : Nat) (s : State) : State :=
  let c := fetchCtx head
  let th := { freshThread c 0 ⟨0, 0⟩ 8 (w64 fetchVa) (w64 0x2_0000) true with notBefore := 0 }
  let g := freshGang c 0 (some ⟨0, 0⟩) 0 fetchHdr (w64 fetchVa) (w64 0x2_0000) (firstLanes 16)
  { s with
    mem := wrBytes (fetchTables s.mem) fetchPa (toBytes 64 (oneHeadLine head tail))
    parts := [fetchPart]
    teams := [{ id := ⟨0, 0⟩, part := 0, cluster := 0, tile := 0, state := .running, scrBase := 0, scrSize := 0, regBase := 0,
                regSize := 0, home := 0, chans := Vector.replicate 16 Channel.idle, binds := [], savedAt := 0 }]
    threads := if c.wide then [] else [th]
    gangs := if c.wide then [g] else []
    tlb := [fetchTlb], utlb := [], missq := [], icache := [], codeOld := [], agenda := [.run c] }

end Sys2Proof.Machine
end

