-- ==== Sys2Proof/Machine/Progress.lean ====
section
/-! DEFINITION. What the device does by itself when nothing is on the agenda (log 13): its own steps that can come next are
gone through in turn. -/

namespace Sys2Proof.Machine

/-- A step of the device. -/
abbrev Act := State → Res

/-- The step that an operation in flight comes to. -/
def opEvent (o : Op) : Act :=
  match o.kind with
  | .load _ => execRegisterFill o.id
  | .fills _ => execRegisterFill o.id
  | .atomic _ => execAtomicAtUnit o.id
  | .red _ => execAtomicAtUnit o.id
  | .vrdm _ _ => execAtomicAtUnit o.id
  | .store _ => execStoreAcknowledgement o.id
  | .push _ _ => execQueuePushArrival o.id
  | .tlbinv _ _ => execTlbinvAck o.id
  | .restore t _ => execContextRestore t
  | .graph _ => execClosureWalkEnd o.part
  | .flagDue => execFlagCompletion o.id

/-- The step that a coherence message comes to. -/
def cohEvent (m : CohMsg) : Act :=
  match m.kind with
  | .gets => execGets m.core m.line
  | .read => execGets m.core m.line
  | .getm => execGetm m.core m.line
  | .write => execGetm m.core m.line
  | .recall => execGetm m.core m.line
  | .upg => execUpg m.core m.line
  | .puts => execPuts m.core m.line
  | .pute => execPute m.core m.line
  | .putm => execPutm m.core m.line
  | .invack => execInvack m.core m.line
  | .datawb => execDatawb m.core m.line
  | .inv => execInv m.core m.line
  | .fwds => execFwds m.core m.line
  | .fwdm => execFwdm m.core m.line
  | .dataS => execDataReply m.core m.line
  | .dataE => execDataReply m.core m.line
  | .dataM => execDataReply m.core m.line
  | .dataN => execDataReply m.core m.line
  | .ackUpg => execAckupg m.core m.line

/-- The step that a region-directory message comes to. -/
def regEvent (m : RegMsg) : Act :=
  if m.agent = 12 then execRegionAcknowledgement m.region
  else
    match m.kind with
    | .rds => execRds m.agent m.region
    | .rdm => execRdm m.agent m.region
    | .take => execRdm m.agent m.region
    | .wb => execRegionWb m.agent m.region
    | .evr => execEvr m.agent m.region
    | .rinv => execRinv m.agent m.region
    | .rdown => execRdown m.agent m.region
    | .ack => execRegionAcknowledgement m.region
    | .data => execRegionData m.agent m.region

/-- The steps of a team's copy channel. -/
def chanEvents (t : TeamId) (ch : Nat) (c : Channel) : List Act :=
  if c.state = .active then
    ((List.range c.bursts).find? fun k => !c.sent.contains k && c.wm / 256 ≤ k).elim [] (fun k => [execBurstSend t ch k]) ++
      (c.sent.find? fun k => !c.moved.contains k && !c.landed k).elim [] (fun k => [execBurstTransfer t ch k]) ++
      c.moved.map fun k => execBurstLanding t ch k
  else []

/-- The steps of a queue's packets. -/
def queueEvents (s : State) (x : Queue) : List Act :=
  let q := x.id
  let starts := match s.waitingPkt q with
    | none => if x.qrd < x.qwr then [execPacketStart q] else []
    | some k =>
      match k.kind with
      | 1 => [execLaunchPacket q]
      | 2 => [execFolioLaunchPacket q]
      | 3 => [execCopyPacket q]
      | 4 => [execSignalWaitPacket q, execSignalAbort q]
      | _ => [execGraphInstallPacket q]
  starts ++ (if s.pkts.any fun k => k.queue == q && k.copy.isSome then [execCopyPacket q] else []) ++
    if s.pkts.any fun k => k.queue == q && k.done.isSome then [execPacketCompletion q] else []

/-- The steps of the counting units. -/
def countEvents (s : State) : List Act :=
  (s.tileOut.head?.elim [] fun x =>
    [if x.2.2.pt.isTeam then execBatchApply (.tile x.1 x.2.1) else execTileBatchSend x.1 x.2.1]) ++
  (s.clusterIn.head?.elim [] fun x => [execBatchApply (.cluster x.1)]) ++
  (s.clusterOut.head?.elim [] fun x => [execClusterBatchForward x.1]) ++
  (if s.devIn.isEmpty then [] else [execBatchApply .device]) ++
  (if s.devOut.isEmpty then [] else [execDeviceBatchForward]) ++
  (if s.aggIn.isEmpty then [] else [execBatchApply .aggregator]) ++
  s.parts.flatMap fun p => p.announced.filterMap fun a =>
    if frontierGrew a.folio (p.frontier a.inst a.loc) then some (execFrontierAnnounce a.inst a.loc) else none

/-- The steps of contexts that wait for something else than an issue slot. -/
def contextEvents (s : State) : List Act :=
  (s.threads.flatMap fun t =>
    if !t.id.onDevice then []
    else
      (match t.winOp with
        | some (.spill, _) => [execWindowSpill t.id]
        | some (.reload, _) => [execWindowReload t.id]
        | none => []) ++
      (match t.sb with
        | e :: _ => if e.go && e.held.isNone then [execStoreBufferWriteback t.id] else []
        | [] => []) ++
      match t.state with
      | .sleeping _ => [execSleepExpiry t.id]
      | .parked (.stall _) => [execWatermarkStallRelease t.id]
      | _ => if t.dueMachine.isEmpty then [] else [execAsyncMachineDelivery t.id]) ++
  s.gangs.flatMap fun g =>
    if !g.id.onDevice then []
    else
      (match g.state with
        | .parked (.stall _) => [execWatermarkStallRelease g.id]
        | _ => []) ++
      (if g.dueMachine.isEmpty then [] else [execAsyncMachineDelivery g.id]) ++
      (if s.wl1.any fun l => l.onCore g.id g.part && l.groups.any (·.go) then [execStoreBufferWriteback g.id] else []) ++
      (if g.matOps.any fun o => !o.ended then [execEngineOperationEnd g.part g.id.cluster g.id.tile] else []) ++
      (if g.awaitW.isEmpty && g.awaitN.isEmpty then [] else [execMrotArrival g.id false, execMrotArrival g.id true]) ++
      if g.inJoin then (g.team.elim [] fun t => [execMjoinRelease t.launch g.num]) else []

/-- The steps of launches, keys and saved teams. -/
def workEvents (s : State) : List Act :=
  (s.launches.flatMap fun l =>
    (if l.placed < l.teams then [execTeamPlacement l.uid, execCoresidentPlacementTimeout l.uid] else []) ++
      if l.state = .held then [execExpectedSeqRelease l.uid] else []) ++
  (s.saved.flatMap fun v => if v.byCtxsave then [] else [execContextRestore v.id]) ++
  (s.preReqs.filterMap fun r => r.why.map fun w => execPartitionPreempt r.part r.tiles w) ++
  (s.teams.flatMap fun t => if t.state = .saved then [execChannelDrainExpiry t.id] else []) ++
  (s.launchRecs.map fun r => execGangPlacement r.part r.cluster) ++ (s.keys.map fun k => execGalleyTimeout k.id) ++
  s.parts.flatMap fun p =>
    (if p.walk.isSome then [execClosureWalkEnd p.cfg.num] else []) ++
      if p.slice ≠ 0 ∧ p.sliceLeft = 0 then [execTimeSliceExpiry p.cfg.num] else []

/-- Every step that the device could take by itself now. -/
def State.acts (s : State) : List Act :=
  contextEvents s ++ ((s.missq.filter fun m => m.state != .failed).map fun m => execPageWalk m.ctx m.va m.kind) ++
    s.ops.map opEvent ++ s.coh.map cohEvent ++ s.reg.map regEvent ++
    (s.ovfEvents.map fun e => if e.add.isSome then execOverflowAdd e.cluster e.rank e.quarter
      else execOverflowInval e.cluster e.rank e.quarter) ++
    (s.merges.map fun m => execMissMergeExpiry m.cluster m.block) ++
    (s.teams.flatMap fun t => (List.range 16).flatMap fun n => (t.chans[n]?).elim [] (chanEvents t.id n)) ++
    (s.msgs.map fun m => if m.held then execSenderHeldAccept m.id else execMessageArrival m.id) ++
    countEvents s ++ workEvents s ++ s.queues.flatMap (queueEvents s)

/-- One of the device's own steps, picked by n; a cycle passes. The multiplier spreads successive picks over the list, so that no
loop of a program keeps in step with them and holds one of them off (log 13). -/
def progress (n : Nat) (s : State) : Res :=
  let s1 := s.passTo (s.cc + 1)
  match s.acts[n * 40503 % 65536 * s.acts.length / 65536]? with
  | some f => f s1
  | none => .next s1

end Sys2Proof.Machine
end

