-- ==== Sys2Proof/Machine/Step.lean ====
section
/-! DEFINITION. One step of the device: the next turn of the agenda, or, when nothing is on it, what the device does by
itself (log 13). -/

namespace Sys2Proof.Machine

/-- The head of a parked context tried (R11): when it parks again, it has issued nothing; otherwise its condition holds and the
context is READY. -/
def tryHead (c : CtxId) (i : Instr) (s : State) : Res :=
  match exec i s with
  | .next s1 => .next (if s1.waits c then s1 else s)
  | r => r

/-- A head issues, and its instruction executes (R209, R223), or it is tried. -/
def runIssue : Issue → Res
  | .done s => .next s
  | .run i s => exec i s
  | .tryHead c i s => tryHead c i s

/-- One turn. An event is a step of the device itself; an instruction of FIS-3 comes only from a line. -/
def takeTurn (t : Turn) (s : State) : Res :=
  match t with
  | .run c => runIssue (turnOf c s)
  | .tick n => .next (s.passTo (s.cc + n))
  | .event i => if i.coded then .next s else exec i s

/-- The device's own turn: a READY context issues; one turn in eight is a step of the device's own and one tries a parked
context; these two alternate when no context can issue (log 13). -/
def ownTurn (s : State) : Res :=
  let s1 := { s with turns := s.turns + 1 }
  let retry := match s.waiting[s.turns / 2 % s.waiting.length]? with
    | some c => runIssue (turnOf c s1)
    | none => progress (s.turns / 2) s1
  match s.readyNext with
  | some c => if s.turns % 8 = 7 then progress (s.turns / 8) s1 else if s.turns % 8 = 3 then retry else runIssue (turnOf c s1)
  | none => if s.turns % 2 = 0 then progress (s.turns / 2) s1 else retry

/-- One step (log 13). -/
def step (s : State) : Res :=
  match s.agenda with
  | t :: ts => takeTurn t { s with agenda := ts }
  | [] => ownTurn s

/-- The state in which the next step fetches and runs the instruction whose bits are w, numbered as the opcode table numbers
them (log 14). -/
def State.withFetchWord (s : State) (_nbits w : Nat) : State := placeHead (w % 2 ^ 16) (w / 2 ^ 16) s

end Sys2Proof.Machine
end

