-- ==== Sys2Proof/Safety.lean ====
section
/-! DEFINITION. What counts as a safe run, and the situations in which claims say what an instruction does: the context that
executes it, and operands that can be read and written now. -/

namespace Sys2Proof.Machine

/-- The three stores of the device are in canonical form: keys strictly rising, no byte listed that reads 0 anyway (log 1). -/
def State.storesOk (s : State) : Bool := Memory.wf s.mem && Memory.wf s.scratch && Memory.wf s.pinned

/-- A step that neither faults nor is refused. -/
def State.stepsOn (s : State) : Prop := ∃ t, step s = .next t

/-- A state from which k steps run without a fault or a refusal. -/
def State.safeFor (s : State) : Nat → Prop
  | 0 => True
  | k + 1 => ∃ t, step s = .next t ∧ t.safeFor k

/-- Thread t is the current context, and the guard of the head holds in it (R207, R223). -/
abbrev RunsT (s : State) (t : Thread) (h : Hd) : Prop :=
  s.cur = some t.id ∧ s.thread? t.id = some t ∧ t.guard h = true

/-- Gang g is the current context. -/
abbrev RunsG (s : State) (g : Gang) : Prop :=
  s.cur = some g.id ∧ s.thread? g.id = none ∧ s.gang? g.id = some g

/-- The thread's sources are full and carry no error, and vs are their values; t1 is the thread once it has read them (R11,
R77, R231). -/
abbrev ReadsT (s : State) (t : Thread) (srcs : List Nat) (vs : List Word) (t1 : Thread) : Prop :=
  t.readXs srcs = some (vs, t1) ∧ s.regErr t.id (srcs.map t.dst) = none

/-- The thread's destinations have no fill pending, and a push they make finds room (R95, R277). -/
abbrev FreeT (s : State) (t : Thread) (dsts : List Nat) : Prop :=
  s.busy t.id (dsts.map t.dst) = false ∧ s.pushBlocked t dsts = false

/-- The gang's x registers lie in its allocation, its active lanes are not none, their sources are full and carry no error,
and rows are their values (R220, R231, R232). -/
abbrev ReadsG (s : State) (g : Gang) (h : Hd) (srcs dsts : List Nat) (rows : List (Nat × List Word)) : Prop :=
  g.xOk (srcs ++ dsts) = true ∧ g.active h ≠ [] ∧
    (g.active h).mapM (fun l => (g.readXs srcs l).map fun vs => (l, vs)) = some rows ∧
    ∀ l ∈ g.active h, s.regErr g.id (srcs.map fun r => xDst r l) = none

/-- The gang's destinations in its active lanes have no fill pending. -/
abbrev FreeG (s : State) (g : Gang) (h : Hd) (dsts : List Nat) : Prop :=
  s.busy g.id ((g.active h).flatMap fun l => (dsts.filter (· != 0)).map fun r => Dst.pair r l) = false

/-- The gang's s registers lie in its allocation and carry no error (R220, R232). -/
abbrev ReadsS (s : State) (g : Gang) (srcs dsts : List Nat) : Prop :=
  g.sOk (srcs ++ dsts) = true ∧ s.regErr g.id (srcs.map .s) = none

/-- The head of a thread has ended: its PC is the next one, and one more head has issued (R212, R272). -/
abbrev doneT (c : CtxId) (s : State) : State := s.updThread c Thread.next

/-- The head of a gang has ended for its current group (R168, R212). -/
abbrev doneG (c : CtxId) (s : State) : State := s.updGang c Gang.next

/-! ## Register instructions (R231, R232) -/

/-- Register fields as register numbers. -/
abbrev nums (rs : List Reg) : List Nat := rs.map (·.toNat)

/-- What a thread's instruction reads besides its registers. -/
abbrev Thread.inputs (t : Thread) (vs : List Word) : In := ⟨vs, t.preds, t.pc, t.line, t.srseed⟩

/-- What one lane's instruction reads besides its registers. -/
abbrev Gang.inputs (g : Gang) (l : Nat) (vs : List Word) : In := ⟨vs, g.lanePreds l, g.pc, g.line, g.srseed⟩

/-- Destinations written, whose errors go with the values that had them (R77). -/
abbrev clearErrs (s : State) (c : CtxId) (ds : List Dst) : State := ds.foldl (fun s d => s.clearErr c d) s

/-- The results of the active lanes written, each lane's into that lane, with the seed that the last rounding left. -/
abbrev lanesWritten (g : Gang) (h : Hd) (dsts : List Nat) (res : List (Nat × List Wr) × BitVec 32) (s : State) : State :=
  res.1.foldl (fun s x => s.updGang g.id fun g => applyL g x.1 x.2)
    (clearErrs (s.setGang { g with srseed := res.2 }) g.id
      ((g.active h).flatMap fun l => (dsts.filter (· != 0)).map fun r => Dst.pair r l))

/-- Under G = 1: the register result once for the gang, a predicate result in every lane of the current group (R232). -/
abbrev onceWritten (g : Gang) (dsts : List Nat) (f : RegFn) (vs : List Word) (s : State) : State :=
  clearErrs
    (s.setGang ((lanesOf g.lanes).foldl (fun g1 l => applyP g1 l (f (g.inputs l vs)).1)
      (applyS { g with srseed := (f (g.inputs ((lanesOf g.lanes).headD 0) vs)).2 }
        (f (g.inputs ((lanesOf g.lanes).headD 0) vs)).1)))
    g.id (dsts.map .s)

/-- In a thread whose sources can be read and whose destinations are free, the instruction makes the writes of f and the next
head follows. -/
def InThread (i : Instr) (h : Hd) (srcs dsts : List Reg) (f : RegFn) : Prop :=
  ∀ (s : State) (t t1 : Thread) (vs : List Word),
    RunsT s t h → ReadsT s t (nums srcs) vs t1 → FreeT s t (nums dsts) →
      exec i s = .next (doneT t.id (applyT t.id (f (t.inputs vs)).1 (s.setThread { t1 with srseed := (f (t.inputs vs)).2 })))

/-- In a gang, the same in each active lane, the seed going from lane to lane in ascending order. -/
def InLanes (i : Instr) (h : Hd) (srcs dsts : List Reg) (f : RegFn) : Prop :=
  ∀ (s : State) (g : Gang) (rows : List (Nat × List Word)),
    RunsG s g → ReadsG s g h (nums srcs) (nums dsts) rows → FreeG s g h (nums dsts) →
      exec i s = .next (doneG g.id (lanesWritten g h (nums dsts) (regLanes f rows g g.srseed) s))

/-- With G = 1, once for the gang, on s registers. -/
def OnceForGang (i : Instr) (srcs dsts : List Reg) (f : RegFn) : Prop :=
  ∀ (s : State) (g : Gang), RunsG s g → ReadsS s g (nums srcs) (nums dsts) →
    exec i s = .next (doneG g.id (onceWritten g (nums dsts) f ((nums srcs).map g.getS) s))

/-- What a register instruction does in each of its three forms: thread, lane, and once for the gang under G = 1. -/
def RegEffect (i : Instr) (h : Hd) (gbit : Bool) (srcs dsts : List Reg) (f : RegFn) : Prop :=
  InThread i h srcs dsts f ∧ (gbit = false → InLanes i h srcs dsts f) ∧ (gbit = true → OnceForGang i srcs dsts f)

/-- An instruction that writes one register with a value of its sources. -/
abbrev Writes (i : Instr) (h : Hd) (gbit : Bool) (srcs : List Reg) (xd : Reg) (f : In → Word) : Prop :=
  RegEffect i h gbit srcs [xd] fun x => ([.x xd (f x)], x.seed)

/-- An instruction that writes one predicate. -/
abbrev Decides (i : Instr) (h : Hd) (gbit : Bool) (srcs : List Reg) (pd : PReg) (f : In → Bool) : Prop :=
  RegEffect i h gbit srcs [] fun x => ([.p pd (f x)], x.seed)

/-- A three-register instruction (R244): its words, the G bit permitted, and its result. -/
abbrev Op3 (mk : Hd → R3 → Instr) (opc : Nat) (f : Word → Word → Word) : Prop :=
  opInfo opc = some ⟨.X3, true, false⟩ ∧
    ∀ h r, encBody (mk h r) = some (h, opc, X3Tail.pack ⟨r.xd, r.xa, r.xb, r.g⟩) ∧
      Writes (mk h r) h r.g [r.xa, r.xb] r.xd fun x => f (x.v 0) (x.v 1)

/-- A one-register instruction (R245): its words, the G bit permitted, and its result. -/
abbrev Op2 (mk : Hd → R2 → Instr) (opc : Nat) (f : Word → Word) : Prop :=
  opInfo opc = some ⟨.X3, true, false⟩ ∧
    ∀ h r, encBody (mk h r) = some (h, opc, X3Tail.pack ⟨r.xd, r.xa, 0, r.g⟩) ∧
      Writes (mk h r) h r.g [r.xa] r.xd (fun x => f (x.v 0)) ∧
      ∀ t : X3Tail, t.xb ≠ 0 → decX3 opc h t = .error .reservedBits

/-- An instruction with a 16-bit immediate (R246): its words, the G bit permitted, and its result. -/
abbrev OpImm (mk : Hd → RI → Instr) (opc : Nat) (f : Word → BitVec 16 → Word) : Prop :=
  opInfo opc = some ⟨.XI, true, false⟩ ∧
    ∀ h r, encBody (mk h r) = some (h, opc, XITail.pack ⟨r.xd, r.xa, r.g, 0, r.imm.toNat⟩) ∧
      Writes (mk h r) h r.g [r.xa] r.xd (fun x => f (x.v 0) r.imm) ∧
      ∀ t : XITail, t.sub ≠ 0 → decXI opc h t = .error .reservedBits

/-- A shift or rotate, by an immediate or by the low six bits of a register (R250): its words and its result. -/
abbrev OpShift (mk : Hd → R2 → ShAmt → Instr) (opc : Nat) (f : Word → Nat → Word) : Prop :=
  opInfo opc = some ⟨.XI, true, false⟩ ∧
    (∀ h r n, encBody (mk h r (.imm n)) = some (h, opc, XITail.pack ⟨r.xd, r.xa, r.g, 0, n.toNat⟩) ∧
      Writes (mk h r (.imm n)) h r.g [r.xa] r.xd fun x => f (x.v 0) n.toNat) ∧
    ∀ h r xb, encBody (mk h r (.reg xb)) = some (h, opc, XITail.pack ⟨r.xd, r.xa, r.g, 1, xb.toNat⟩) ∧
      Writes (mk h r (.reg xb)) h r.g [r.xa, xb] r.xd (fun x => f (x.v 0) ((x.v 1).toNat % 64)) ∧
      ∀ t : XITail, ¬ (t.sub = 0 ∧ t.imm < 64) → ¬ (t.sub = 1 ∧ t.imm < 32) → decXI opc h t = .error .reservedBits

/-- What a condition of `cmp` says of two values (R256). -/
def Cond.says (c : Cond) (a b : Word) : Bool :=
  match c with
  | .eq => decide (a = b)
  | .ne => decide (a ≠ b)
  | .ltI => decide (a.toInt < b.toInt)
  | .geI => decide (b.toInt ≤ a.toInt)
  | .ltN => decide (a.toNat < b.toNat)
  | .geN => decide (b.toNat ≤ a.toNat)

/-- What pd becomes under a combination (R256). -/
def Comb.gives (k : Comb) (old c : Bool) : Bool :=
  match k with
  | .set => c
  | .and => old && c
  | .or => old || c

/-- An instruction whose result is one rounding of an exact value, with the step of the seed (R197, R200, R261, R269). -/
abbrev Rounds (i : Instr) (h : Hd) (gbit dbl : Bool) (rm : Rnd) (srcs : List Reg) (xd : Reg) (f : In → Exact) : Prop :=
  RegEffect i h gbit srcs [xd] fun x =>
    ([.x xd (w64 (roundTo (fpFmt dbl) rm false (f x) (srStep x.seed)))], srNext rm x.seed)

/-- An operation in flight that fills the destinations later: they are empty until then, and the head's flag is up (R95, R210,
R231). -/
abbrev lateIssued (c : CtxId) (flag : Option Nat) (ds : List Dst) (fs : List (Dst × Word)) (s : State) : State :=
  ((ds.foldl (fun s d => s.markEmpty c d) s).raise c flag).addOp c flag (.fills fs)

/-- A register instruction whose result is filled late, in its three forms: in a thread and in each active lane the results
wait in an operation in flight, which `registerFill` carries out; under G = 1 the next head finds them written. -/
def LateEffect (i : Instr) (h : Hd) (fl gbit : Bool) (srcs dsts : List Reg) (f : RegFn) : Prop :=
  (∀ (s : State) (t t1 : Thread) (vs : List Word),
    RunsT s t h → ReadsT s t (nums srcs) vs t1 → FreeT s t (nums dsts) → flagFull t.flags (headFlag fl t.line h) = false →
      exec i s = .next (doneT t.id
        (lateIssued t.id (headFlag fl t.line h) ((lateFills t.dst (f (t.inputs vs)).1).map (·.1)) (lateFills t.dst (f (t.inputs vs)).1)
          (s.setThread { t1 with srseed := (f (t.inputs vs)).2 })))) ∧
  (gbit = false → ∀ (s : State) (g : Gang) (rows : List (Nat × List Word)),
    RunsG s g → ReadsG s g h (nums srcs) (nums dsts) rows → FreeG s g h (nums dsts) →
      flagFull g.flags (headFlag fl g.line h) = false →
      exec i s = .next (doneG g.id
        (lateIssued g.id (headFlag fl g.line h)
          (rows.flatMap fun x => ((nums dsts).filter (· != 0)).map fun r => Dst.pair r x.1)
          ((regLanes f rows g g.srseed).1.flatMap fun x => lateFills (fun r => Dst.pair r x.1) x.2)
          (s.setGang { g with srseed := (regLanes f rows g g.srseed).2 })))) ∧
  (gbit = true → ∀ (s : State) (g : Gang), RunsG s g → ReadsS s g (nums srcs) (nums dsts) →
    flagFull g.flags (headFlag fl g.line h) = false →
      exec i s = .next (doneG g.id (onceWritten g (nums dsts) f ((nums srcs).map g.getS) s)))

/-- The quotient of `div` (R249). -/
def quotient (uns : Bool) (a b : Word) : Word :=
  if b = 0 then BitVec.allOnes 64
  else if uns then BitVec.ofNat 64 (a.toNat / b.toNat)
  else if a.toInt = -2 ^ 63 ∧ b.toInt = -1 then BitVec.ofInt 64 (-2 ^ 63)
  else BitVec.ofInt 64 (a.toInt.tdiv b.toInt)

/-! ## Control -/

/-- The head of a thread has ended and execution goes on at a PC, whose line is entered (R208, R272). -/
abbrev wentTo (c : CtxId) (pc : Word) (s : State) : State :=
  s.updThread c fun t => { t with pc := pc, line := none, issued := t.issued + 1, state := .ready }

/-- The head of a thread has issued and traps there (R272, R376). -/
abbrev trapped (c : CtxId) (ti : TrapInfo) (tpc : Word) (s : State) : State :=
  takeTrap c ti tpc (s.updThread c fun t => { t with issued := t.issued + 1, state := .ready })

/-- Register i of the window below the current one, x8 to x23 (R160). -/
abbrev below (w : Vector XReg 16) (i : Nat) : XReg := w[i - 8]?.getD XReg.zero

/-- A state differs from another in nothing but the record of one thread, its fills in flight, its register errors, and the
count of free values: memory, every other context, and every other unit are as before. -/
abbrev onlyThread (c : CtxId) (s s' : State) : Prop :=
  s'.mem = s.mem ∧ s'.scratch = s.scratch ∧ s'.pinned = s.pinned ∧ s'.gangs = s.gangs ∧ s'.teams = s.teams ∧
    s'.launches = s.launches ∧ s'.msgs = s.msgs ∧ s'.parts = s.parts ∧ s'.queues = s.queues ∧ s'.cc = s.cc ∧
    ∀ d, d ≠ c → s'.thread? d = s.thread? d

/-- The value that a control register holds after a write of v (R24, R120, R169, R199, R276): reserved bits read zero, a seed of
0 is stored as 1, and PROG reads 0 on a scalar core. -/
def csrWritten (n : Nat) (v : Word) : Word :=
  if n = 0x010 then 0
  else if n = 0x011 then (if v.extractLsb' 0 32 = 0 then 1 else (v.extractLsb' 0 32).zeroExtend 64)
  else if n = 0x020 then v &&& 0x3F1
  else if n = 0x080 then v &&& 0xFF0FFFFFFFFE0000
  else if n = 0x081 then v &&& 0xFFFFFF
  else v

/-! ## Memory instructions -/

/-- The elements of a load, with the registers that they fill. -/
abbrev loadElts (dst : Nat → Dst) (ps : List (LdSize × Nat)) (as : List Acc) : List LoadElt :=
  (ps.zip as).map fun x => { acc := x.2, size := x.1.1, dst := dst x.1.2, val := none }

/-- The elements of a load in every lane whose checks passed. -/
abbrev laneLoads (ps : List (LdSize × Nat)) (good : List (Nat × List Acc)) : List LoadElt :=
  good.flatMap fun x => loadElts (fun r => if r = 0 then Dst.none else Dst.pair r x.1) ps x.2

/-- The receive queue as the sources of a head left it. -/
abbrev keepQueue (c : CtxId) (t1 : Thread) (s : State) : State := s.updThread c fun u => { u with recvq := t1.recvq }

/-- A load in its three forms. Where its checks pass (R279), giving s1 and the places as that it reads, the load starts there:
`startLoad` performs the agent's earlier accesses to its bytes, fills the destinations of a hit, and leaves a miss in flight with
the head's flag up. An acquiring load goes behind its agent's releases (R89), and one whose values are taken at once needs its lines
in the wide-core L1. The s registers of the form with G = 1 are filled at once. -/
def LoadEffect (i : Instr) (h : Hd) (gbit : Bool) (srcs : List Reg) (addr : List Word → Word) (ps : List (LdSize × Nat))
    (align : Nat) (acq : Option Scope) : Prop :=
  (∀ (s s1 : State) (t t1 : Thread) (vs : List Word) (as : List Acc),
    RunsT s t h → ReadsT s t (nums srcs) vs t1 → FreeT s t (ps.map (·.2)) →
    flagFull t.flags (flagOf t.line h) = false →
    checkPieces t.agent (addr vs) (ps.map (·.1.bytes)) align .load true s = .ok s1 as →
    (acq.isSome = true → (keepQueue t.id t1 s1).relAwait t.id = none) →
      exec i s = .next (doneT t.id
        (startLoad t.id (flagOf t.line h) false acq (loadElts t.dst ps as) (keepQueue t.id t1 s1)))) ∧
  (gbit = false → ∀ (s s1 s2 : State) (g : Gang) (rows : List (Nat × List Word)) (good : List (Nat × List Acc)),
    RunsG s g → ReadsG s g h (nums srcs) (ps.map (·.2)) rows →
    s.busy g.id ((g.active h).flatMap fun l => ps.map fun p => if p.2 = 0 then Dst.none else Dst.pair p.2 l) = false →
    flagFull g.flags (flagOf g.line h) = false →
    checkLanes g.agent (ps.map (·.1.bytes)) align .load true (rows.map fun x => (x.1, addr x.2)) s
      = ⟨s1, good, [], [], false⟩ →
    (if acq.isSome then loadNow g.id g.part acq (laneLoads ps good) s1 else (s1, false)) = (s2, false) →
      exec i s = .next (doneG g.id (startLoad g.id (flagOf g.line h) false acq (laneLoads ps good) s2))) ∧
  (gbit = true → ∀ (s s1 s2 : State) (g : Gang) (as : List Acc),
    RunsG s g → ReadsS s g (nums srcs) (ps.map (·.2)) → flagFull g.flags (flagOf g.line h) = false →
    checkPieces g.agent (addr ((nums srcs).map g.getS)) (ps.map (·.1.bytes)) align .load true s = .ok s1 as →
    loadNow g.id g.part acq (loadElts (fun r => if r = 0 then Dst.none else Dst.s r) ps as) s1 = (s2, false) →
      exec i s = .next (doneG g.id (startLoad g.id none true acq
        (loadElts (fun r => if r = 0 then Dst.none else Dst.s r) ps as) s2)))

/-- The release that a store, an atomic or a fence makes first, if any (R91). -/
abbrev relT (c : CtxId) (rel : Option Scope) (s : State) : Rel :=
  match rel with
  | none => .ok s
  | some sc => releaseThread c sc (settleLoads c s)

/-- The same for a gang. -/
abbrev relG (c : CtxId) (rel : Option Scope) (s : State) : Rel :=
  match rel with
  | none => .ok s
  | some sc => releaseGang c sc (settleLoads c s)

/-- What a gang's `st.rel` at .cl or wider does with its own bytes: their write-back starts at once (R285). -/
abbrev pushed (g : Gang) (rel : Option Scope) (es : List (Acc × List Byte)) (s : State) : State :=
  if rel.elim false Scope.clOrWider then pushLines g es s else s

/-- The stores of a gang that are still on their way, with the head's flag up. -/
abbrev lateStores (g : Gang) (h : Hd) (rel : Bool) (late : List (Acc × List Byte)) (s : State) : State :=
  if late.isEmpty then s else (s.raise g.id (flagOf g.line h)).addOp g.id (flagOf g.line h) (.store late) rel

/-- A store in its three forms. Where its checks pass (R279, R77), its release, if any, is made (R285), and the store buffer, or the
wide-core L1, has room for it (R47, R53), the data goes where `storeAll` puts it: global bytes into the store buffer, the agent's own
scratchpad bytes at their bank, any others on their way. -/
def StoreEffect (i : Instr) (h : Hd) (gbit : Bool) (srcs data : List Reg) (addr : List Word → Word) (sizes : List StSize)
    (align : Nat) (rel : Option Scope) : Prop :=
  (∀ (s s1 s2 s3 : State) (t t1 : Thread) (vs : List Word) (as : List Acc),
    RunsT s t h → ReadsT s t (nums srcs ++ nums data) vs t1 → flagFull t.flags (flagOf t.line h) = false →
    checkPieces t.agent (addr (vs.take srcs.length)) (sizes.map (·.bytes)) align .store true s = .ok s1 as →
    (∀ e ∈ as.zip (storeData sizes (vs.drop srcs.length)), s1.storeErr e.1 e.2.length = none) →
    relT t.id rel s1 = .ok s2 →
    storeAll t (flagOf t.line h) rel.isSome (as.zip (storeData sizes (vs.drop srcs.length))) s2 = .ok s3 →
      (rel = none → exec i s = .next (doneT t.id (keepQueue t.id t1 s3))) ∧
      (rel ≠ none → exec i s = .next (doneT t.id
        (if (as.zip (storeData sizes (vs.drop srcs.length))).any (fun e => e.1.space == .mem) then
          sbPush t.id (fun _ => true) (keepQueue t.id t1 s3) else keepQueue t.id t1 s3)))) ∧
  (gbit = false → ∀ (s s1 s2 s3 s4 : State) (g : Gang) (rows : List (Nat × List Word)) (good : List (Nat × List Acc))
      (late : List (Acc × List Byte)) (es : List (Nat × Acc × List Byte)),
    RunsG s g → ReadsG s g h (nums srcs ++ nums data) [] rows → flagFull g.flags (flagOf g.line h) = false →
    checkLanes g.agent (sizes.map (·.bytes)) align .store true (rows.map fun x => (x.1, addr (x.2.take srcs.length))) s
      = ⟨s1, good, [], [], false⟩ →
    relG g.id rel s1 = .ok s2 → s2.errs = [] →
    es = (good.flatMap fun x =>
      (x.2.zip (storeData sizes (((rows.find? fun y => y.1 == x.1).elim [] (·.2)).drop srcs.length))).map fun y =>
        (x.1, y.1, y.2)) →
    storeRoom g es s2 = (s3, [], false) → gangStores g es s3 = (s4, late) →
      exec i s = .next (doneG g.id (pushed g rel (es.map (·.2))
        (lateStores g h rel.isSome late (s4.wideEnds g (es.map (·.2))))))) ∧
  (gbit = true → ∀ (s s1 s2 s3 s4 : State) (g : Gang) (as : List Acc) (late : List (Acc × List Byte)),
    RunsG s g → ReadsS s g (nums srcs ++ nums data) [] → flagFull g.flags (flagOf g.line h) = false →
    checkPieces g.agent (addr ((nums srcs).map g.getS)) (sizes.map (·.bytes)) align .store true s = .ok s1 as →
    relG g.id rel s1 = .ok s2 → s2.errs = [] →
    storeRoom g ((as.zip (storeData sizes ((nums data).map g.getS))).map fun e => (0, e)) s2 = (s3, [], false) →
    gangStores g ((as.zip (storeData sizes ((nums data).map g.getS))).map fun e => (0, e)) s3 = (s4, late) →
      exec i s = .next (doneG g.id (pushed g rel (as.zip (storeData sizes ((nums data).map g.getS)))
        (lateStores g h rel.isSome late (s4.wideEnds g (as.zip (storeData sizes ((nums data).map g.getS))))))))

/-- A prefetch or a cache control in its three forms: it does what body says with the line of [xa + imm], once for a thread and
under G = 1, and for the active lanes one after another otherwise. -/
def LineEffect (i : Instr) (h : Hd) (m : MemOp) (body : Agent → Word → State → LineRes) : Prop :=
  (∀ (s s1 : State) (t t1 : Thread) (v : Word), RunsT s t h → ReadsT s t [m.xa.toNat] [v] t1 →
    body t.agent (v + m.imm.signExtend 64) s = .done s1 → exec i s = .next (doneT t.id (keepQueue t.id t1 s1))) ∧
  (m.g = false → ∀ (s s1 : State) (g : Gang) (l : Nat) (v : Word), RunsG s g → g.xOk [m.xa.toNat] = true →
    g.active h = [l] → g.readX m.xa.toNat l = some v → s.regErr g.id [xDst m.xa.toNat l] = none →
    body g.agent (v + m.imm.signExtend 64) s = .done s1 → exec i s = .next (doneG g.id s1)) ∧
  (m.g = true → ∀ (s s1 : State) (g : Gang), RunsG s g → ReadsS s g [m.xa.toNat] [] →
    body g.agent (g.getS m.xa.toNat + m.imm.signExtend 64) s = .done s1 → exec i s = .next (doneG g.id s1))

/-- The elements of an atomic in every lane whose checks passed. -/
abbrev laneAmos (q : AmoReq) (rows : List (Nat × List Word)) (good : List (Nat × List Acc)) : List AmoElt :=
  good.flatMap fun x => x.2.map fun a => q.elt a (if q.red || q.xd = 0 then Dst.none else Dst.pair q.xd x.1)
    ((rows.find? fun y => y.1 == x.1).elim [] (·.2))

/-- An atomic or a reduction in its three forms: where its checks pass, its release is made and the agent's own earlier bytes under
it are performed, it goes to its unit: `startAmo` empties the destination and leaves the operation in flight with the head's
flag up (R291). Under G = 1 the gang waits for its result. One that its instruction waits for is sent to its unit when that is not
ready (R71); its context then tries on, and goes on once the atomics are performed. -/
def AtomicEffect (i : Instr) (h : Hd) (gbit : Bool) (q : AmoReq) : Prop :=
  (∀ (s s1 s2 s3 : State) (t t1 : Thread) (vs : List Word) (a : Acc) (lv : Nat),
    s.amoHeld t.id = false → RunsT s t h → ReadsT s t q.srcs vs t1 → (q.red = false → FreeT s t [q.xd]) → (q.red = true → t.pend < 32) →
    flagFull t.flags (flagOf t.line h) = false →
    checkAccess t.agent (vs.getD 0 0 + q.off.signExtend 64) q.bytes q.bytes .atomic q.hostOk s = .ok s1 a lv →
    (q.red = true → s1.storeErr a q.bytes = none) →
    relT t.id (if q.rel then some q.sc else none) s1 = .ok s2 → drainUnder t.id a q.bytes s2 = .ok s3 →
    let e := q.elt a (if q.red then .none else t.dst q.xd) vs
    (amoAwait t.id q false [e] s3 = none →
      exec i s = .next (doneT t.id (startAmo t.id q (flagOf t.line h) [e] (keepQueue t.id t1 s3)))) ∧
    ∀ s4, amoAwait t.id q false [e] s3 = some s4 → s3.relAwait t.id = none →
      exec i s = parkT t.id .retry (holdAmo t.id q (flagOf t.line h) [e] (keepQueue t.id t1 s4))) ∧
  (gbit = false → ∀ (s s1 s2 s3 : State) (g : Gang) (rows : List (Nat × List Word)) (good : List (Nat × List Acc)),
    s.amoHeld g.id = false → RunsG s g → ReadsG s g h q.srcs [q.xd] rows → (q.red = true → g.pend < 64) →
    s.busy g.id ((g.active h).map fun l => if q.red || q.xd = 0 then Dst.none else Dst.pair q.xd l) = false →
    flagFull g.flags (flagOf g.line h) = false →
    checkLanes g.agent [q.bytes] q.bytes .atomic q.hostOk
      (rows.map fun x => (x.1, x.2.getD 0 0 + q.off.signExtend 64)) s = ⟨s1, good, [], [], false⟩ → s1.errs = [] →
    relG g.id (if q.rel then some q.sc else none) s1 = .ok s2 → drainAll g.id q.bytes (good.flatMap (·.2)) s2 = .ok s3 →
    (amoAwait g.id q false (laneAmos q rows good) s3 = none →
      exec i s = .next (doneG g.id (startAmo g.id q (flagOf g.line h) (laneAmos q rows good) s3))) ∧
    ∀ s4, amoAwait g.id q false (laneAmos q rows good) s3 = some s4 → s3.relAwait g.id = none →
      exec i s = parkG g.id .retry (holdAmo g.id q (flagOf g.line h) (laneAmos q rows good) s4)) ∧
  (gbit = true → ∀ (s s1 s2 s3 : State) (g : Gang) (a : Acc) (lv : Nat),
    s.amoHeld g.id = false → RunsG s g → ReadsS s g q.srcs [q.xd] → (q.red = true → g.pend < 64) → flagFull g.flags (flagOf g.line h) = false →
    checkAccess g.agent ((q.srcs.map g.getS).getD 0 0 + q.off.signExtend 64) q.bytes q.bytes .atomic q.hostOk s = .ok s1 a lv →
    (q.red = true → s1.storeErr a q.bytes = none) →
    relG g.id (if q.rel then some q.sc else none) s1 = .ok s2 → drainUnder g.id a q.bytes s2 = .ok s3 →
      (q.red = true → exec i s = .next (doneG g.id
        (startAmo g.id q (flagOf g.line h) [q.elt a .none (q.srcs.map g.getS)] s3))) ∧
      (q.red = false → q.xd ≠ 0 → amoAwait g.id q true [q.elt a (.s q.xd) (q.srcs.map g.getS)] s3 = none →
        exec i s = .next (doneG g.id
        ((amoNow g.id q [q.elt a (.s q.xd) (q.srcs.map g.getS)] (s3.clearErr g.id (.s q.xd))).1.putRaw g.id (.s q.xd)
          ((amoNow g.id q [q.elt a (.s q.xd) (q.srcs.map g.getS)] (s3.clearErr g.id (.s q.xd))).2.headD 0)))) ∧
      ∀ s4, q.red = false → q.xd ≠ 0 → amoAwait g.id q true [q.elt a (.s q.xd) (q.srcs.map g.getS)] s3 = some s4 →
        s3.relAwait g.id = none →
        exec i s = parkG g.id .retry (holdAmo g.id q none [q.elt a (.s q.xd) (q.srcs.map g.getS)] s4)) ∧
  ∀ (s : State) (fs : List (Dst × Word)),
    (∀ t, RunsT s t h → t.id.wide = false → s.amoHeld t.id = true →
      (s.heldReplies t.id = none → exec i s = parkT t.id .retry s) ∧
      (s.heldReplies t.id = some fs → exec i s = .next (doneT t.id (finishAmo t.id q s)))) ∧
    ∀ g, RunsG s g → g.id.wide = true → s.amoHeld g.id = true →
      (s.heldReplies g.id = none → exec i s = parkG g.id .retry s) ∧
      (gbit = false → s.heldReplies g.id = some fs → exec i s = .next (doneG g.id (finishAmo g.id q s))) ∧
      (gbit = true → s.heldReplies g.id = some fs →
        exec i s = .next (doneG g.id (fs.foldl (fun s f => s.putRaw g.id f.1 f.2) (takeHeldOps g.id s (finishAmo g.id q s)))))

/-- A byte of a space. -/
def byteAt (s : State) (sp : Space) (a : Nat) : Byte :=
  match sp with
  | .mem => tget 0 s.mem a
  | .scratch => tget 0 s.scratch a
  | .pinned => tget 0 s.pinned a

/-- The bytes of the three spaces are as before, except those from a to a + n of one. -/
def onlyBytes (sp : Space) (a n : Nat) (s s' : State) : Prop :=
  ∀ sp' j, (sp' ≠ sp ∨ j < a ∨ a + n ≤ j) → byteAt s' sp' j = byteAt s sp' j

/-- The value that a load of a size gives for the number its bytes hold (R282). -/
def loadedValue (sz : LdSize) (n : Nat) : Word :=
  match sz with
  | .i8 => (BitVec.ofNat 8 n).signExtend 64
  | .n8 => (BitVec.ofNat 8 n).zeroExtend 64
  | .i16 => (BitVec.ofNat 16 n).signExtend 64
  | .n16 => (BitVec.ofNat 16 n).zeroExtend 64
  | .i32 => (BitVec.ofNat 32 n).signExtend 64
  | .n32 => (BitVec.ofNat 32 n).zeroExtend 64
  | .n64 => BitVec.ofNat 64 n

/-- The value that an atomic of w bits leaves where it found old, for an operand of b (R290); the floating-point operations take one
rounding of the sum, and the minimum and the maximum of R201. -/
def atomicGives (op : AmoOp) (sz8 : Bool) (old b : Nat) : Nat :=
  let w := if sz8 then 64 else 32
  let i := fun (n : Nat) => (BitVec.ofNat w n).toInt
  let f : FF := if sz8 then .f64 else .f32
  match op with
  | .add => (old + b) % 2 ^ w
  | .and => Nat.land old b
  | .or => Nat.lor old b
  | .xor => Nat.xor old b
  | .swap => b
  | .minI => if i b < i old then b else old
  | .maxI => if i old < i b then b else old
  | .minN => if b < old then b else old
  | .maxN => if old < b then b else old
  | .fadd => roundTo f .rn false (exactAdd .rn (f.decode old) (f.decode b)) 0
  | .fmin => fminmax f false old b
  | .fmax => fminmax f true old b

/-! ## Copies, messages, folios -/

/-- The request that `cpy` and `cpyg` make of the copy engine. -/
abbrev copyReq (gath : Bool) (e : Option Nat) (v f : Bool) (ch : BitVec 5) (vs : List Word) : CopyReq :=
  { gath := gath, e := e, v := v, fc := f, ch := ch.toNat, base := vs.getD 0 0, src := vs.getD 1 0, len := vs.getD 2 0,
    table := 0, nsrc := 0 }

/-- A copy whose checks pass is accepted (R112, R298): the head ends, and the channel stands as its operands say, ACTIVE with a
watermark of 0, or DONE at once for LEN = 0 (R111). -/
def CopyEffect (i : Instr) (h : Hd) (gath : Bool) (e : Option Nat) (v f : Bool) (ch : BitVec 5) (r : R3) : Prop :=
  ∀ (s s1 : State) (team : TeamId) (vs : List Word) (c : CtxId),
    ((∃ t t1, RunsT s t h ∧ ReadsT s t [r.xd.toNat, r.xa.toNat, r.xb.toNat] vs t1 ∧ flagFull t.flags (flagOf t.line h) = false ∧
        issueCopy t.agent t.ptbase (copyReq gath e v f ch vs) 0 1 s = .ok s1 ∧ t.team = team ∧ t.id = c) ∨
      ∃ g, RunsG s g ∧ r.g = true ∧ ReadsS s g [r.xd.toNat, r.xa.toNat, r.xb.toNat] [] ∧
        flagFull g.flags (flagOf g.line h) = false ∧ vs = [g.getS r.xd.toNat, g.getS r.xa.toNat, g.getS r.xb.toNat] ∧
        issueCopy g.agent g.ptbase (copyReq gath e v f ch vs) g.vregs g.width s = .ok s1 ∧ g.team = some team ∧ g.id = c) →
    ∃ s' k, exec i s = .next s' ∧ s'.chan? team ch.toNat = some k ∧ k.base = vs.getD 0 0 ∧ k.len = (vs.getD 2 0).toNat ∧
      k.wm = 0 ∧ k.err = false ∧ k.owner = some c ∧ k.vdst = v ∧ k.gath = gath ∧
      k.state = (if vs.getD 2 0 = 0 then .done else .active) ∧ s'.chan? team ch.toNat = s1.chan? team ch.toNat

/-- A `chset`: one field of a channel of the team that is not ACTIVE takes the value of xa; every other field, every other
channel and all of memory stay (R299). -/
def ChsetEffect (i : Instr) (h : Hd) (ch : BitVec 5) (xa : Reg) (gbit : Bool) (f : Word → Channel → Channel) : Prop :=
  (∀ (s : State) (t t1 : Thread) (v : Word) (c : Channel), RunsT s t h → ReadsT s t [xa.toNat] [v] t1 →
    s.chan? t.team ch.toNat = some c → c.state ≠ .active →
      exec i s = .next (doneT t.id (keepQueue t.id t1 (s.updChan t.team ch.toNat (f v))))) ∧
  (gbit = true → ∀ (s : State) (g : Gang) (team : TeamId) (c : Channel), RunsG s g → ReadsS s g [xa.toNat] [] →
    g.team = some team → s.chan? team ch.toNat = some c → c.state ≠ .active →
      exec i s = .next (doneG g.id (s.updChan team ch.toNat (f (g.getS xa.toNat))))) ∧
  ∀ (s : State) (t t1 : Thread) (v : Word), RunsT s t h → ReadsT s t [xa.toNat] [v] t1 → s.chan? t.team ch.toNat = none →
    exec i s = .next (trapped t.id (copyBounds 0 rChannel 0) t.pc s)

/-- A `chwm`: xd takes a value of the channel, and the issuer acquires at .cl (R300), behind the releases that it has
made (R89). -/
def ChwmEffect (i : Instr) (h : Hd) (xd : Reg) (ch : BitVec 5) (gbit : Bool) (f : Channel → Word) : Prop :=
  (∀ (s : State) (t : Thread) (c : Channel), RunsT s t h → FreeT s t [xd.toNat] → s.chan? t.team ch.toNat = some c →
    s.relAwait t.id = none → exec i s = .next (doneT t.id (writeX t.id xd.toNat (f c) (acquire t.id .cl (settleLoads t.id s))))) ∧
  (gbit = false → ∀ (s : State) (g : Gang) (team : TeamId) (c : Channel) (l : Nat) (ls : List Nat), RunsG s g →
    g.xOk [xd.toNat] = true → g.active h = l :: ls → g.team = some team → s.chan? team ch.toNat = some c → xd ≠ 0 →
    s.busy g.id ((l :: ls).map fun l => Dst.pair xd.toNat l) = false → s.relAwait g.id = none →
      exec i s = .next (doneG g.id
        ((l :: ls).foldl (fun s l => s.putDst g.id (.pair xd.toNat l) (f c)) (acquire g.id .cl s)))) ∧
  (gbit = true → ∀ (s : State) (g : Gang) (team : TeamId) (c : Channel), RunsG s g → g.sOk [xd.toNat] = true → xd ≠ 0 →
    g.team = some team → s.chan? team ch.toNat = some c → s.relAwait g.id = none →
      exec i s = .next (doneG g.id ((acquire g.id .cl s).putDst g.id (.s xd.toNat) (f c))))

/-- An instruction whose result, or trap, is a function of one register: in a thread, in one lane, and once for the gang. -/
def FolioEffect (i : Instr) (h : Hd) (gbit : Bool) (xa xd : Reg) (f : Word → Except TrapInfo Word) : Prop :=
  (∀ (s : State) (t t1 : Thread) (v : Word), RunsT s t h → ReadsT s t [xa.toNat] [v] t1 →
    (∀ w, f v = .ok w → FreeT s t [xd.toNat] → exec i s = .next (doneT t.id (writeX t.id xd.toNat w (s.setThread t1)))) ∧
    ∀ ti, f v = .error ti → exec i s = .next (trapped t.id ti t.pc s)) ∧
  (gbit = false → ∀ (s : State) (g : Gang) (l : Nat) (v w : Word), RunsG s g → g.xOk [xa.toNat, xd.toNat] = true →
    g.active h = [l] → g.readX xa.toNat l = some v → s.regErr g.id [xDst xa.toNat l] = none → xd ≠ 0 →
    s.busy g.id [.pair xd.toNat l] = false → f v = .ok w →
      exec i s = .next (doneG g.id (s.putDst g.id (.pair xd.toNat l) w))) ∧
  (gbit = true → ∀ (s : State) (g : Gang) (w : Word), RunsG s g → ReadsS s g [xa.toNat] [xd.toNat] → xd ≠ 0 →
    f (g.getS xa.toNat) = .ok w → exec i s = .next (doneG g.id (s.putDst g.id (.s xd.toNat) w)))

/-- A privileged instruction has ended with its result on the way to xd (R312). -/
abbrev resultDue (t : Thread) (xd : Reg) (k : Dst → OpKind) (s : State) : State :=
  doneT t.id ((s.markEmpty t.id (t.dst xd.toNat)).addOp t.id none (k (t.dst xd.toNat)))

/-- A thread that may run a privileged instruction, whose sources can be read and whose destination is free (R231, R312). -/
abbrev PrivReady (s : State) (t : Thread) (h : Hd) (xd : Reg) (srcs : List Reg) (vs : List Word) (t1 : Thread) : Prop :=
  RunsT s t h ∧ t.priv = true ∧ ReadsT s t (nums srcs) vs t1 ∧ FreeT s t [xd.toNat]

/-- Where a privileged instruction traps PRIV (R312, R376, R380): in a thread whose PRIV is 0, and in a grid gang, whose lowest active
lane is named. -/
def PrivTraps (i : Instr) (h : Hd) (xd : Reg) (srcs : List Reg) : Prop :=
  (∀ (s : State) (t : Thread), RunsT s t h → t.priv = false →
    exec i s = .next (trapped t.id (privTrap t.pc t.line) t.pc s)) ∧
  ∀ (s : State) (g : Gang) (l : Nat) (ls : List Nat), RunsG s g → g.galley = false → g.xOk (nums (xd :: srcs)) = true →
    g.active h = l :: ls →
      exec i s = .next (trapGrid g.id (privTrap g.pc g.line) l g.pc
        (s.updGang g.id fun g => { g with issued := g.issued + 1, state := .ready }))

/-- A thread with nothing to release: no store is buffered, none is in flight, and no line holds bytes for it (R46, R91). -/
abbrev NothingToRelease (s : State) (t : Thread) : Prop :=
  s.ops = [] ∧ t.sb = [] ∧ ∀ l ∈ s.wl1, ∀ g ∈ l.groups, t.id ∉ g.heldFor

/-- `tlbinv` (R39): the release at .dv, then the invalidation is on its way; a thread with nothing to release goes on at once. -/
def TlbinvEffect (i : Instr) (h : Hd) (xd : Reg) (srcs : List Reg) (sel : List Word → TlbSel) : Prop :=
  PrivTraps i h xd srcs ∧
  ∀ (s : State) (t t1 : Thread) (vs : List Word), PrivReady s t h xd srcs vs t1 →
    (xd = 0 ∨ (t.getX xd.toNat).full = true) →
    (∀ s1, releaseThread t.id .dv (keepQueue t.id t1 s) = .ok s1 →
      exec i s = .next (resultDue t xd (fun d => .tlbinv (sel vs) d) s1)) ∧
    (NothingToRelease s t → ∃ s1, s1.mem = s.mem ∧ s1.tlb = s.tlb ∧
      exec i s = .next (resultDue t xd (fun d => .tlbinv (sel vs) d) s1))

/-- A privileged instruction whose result is known at issue (R312): it leaves the state that f says, with the result on its way. -/
def PrivResultEffect (i : Instr) (h : Hd) (xd : Reg) (srcs : List Reg) (f : Thread → List Word → State → State × Word) : Prop :=
  PrivTraps i h xd srcs ∧
  ∀ (s : State) (t t1 : Thread) (vs : List Word), PrivReady s t h xd srcs vs t1 →
    exec i s = .next (resultDue t xd (fun d => .fills [(d, (f t vs (keepQueue t.id t1 s)).2)]) (f t vs (keepQueue t.id t1 s)).1)

/-- `fgraph` with a descriptor (R316): while no walk of the partition is in progress, the release is made, the descriptor is read, and
the walk is in progress; an address that is no multiple of 8 traps. -/
def FgraphEffect (i : Instr) (h : Hd) (xd xa : Reg) (op : Nat) : Prop :=
  PrivTraps i h xd [xa] ∧
  ∀ (s : State) (t t1 : Thread) (va : Word), PrivReady s t h xd [xa] [va] t1 →
    (va.toNat % 8 ≠ 0 → exec i s = .next (trapped t.id ⟨0x05, va, memInfo 0 .load 0⟩ t.pc s)) ∧
    (va.toNat % 8 = 0 → (s.part? t.part).elim false (·.walk.isSome) = false →
      ∀ s1 s2 bs, releaseThread t.id .dv (keepQueue t.id t1 s) = .ok s1 → readDescriptor false t.agent va s1 = .ok s2 bs →
        exec i s = .next (resultDue t xd .graph (startWalk t.part op 0 bs (.instr s2.nextId) s2)))

/-! ## Vector instructions -/

/-- Vector register fields as register numbers. -/
abbrev vnums (rs : List VReg) : List Nat := rs.map (·.toNat)

/-- A gang can carry out a vector instruction now: its registers lie in the allocation, it has active lanes, what they read is
full, what they write has no fill pending, and nothing is in error (R220, R319). -/
abbrev VecReady (s : State) (g : Gang) (h : Hd) (ok : Bool) (reads : Nat → List (Nat × Nat)) (ds : List Dst) : Prop :=
  RunsG s g ∧ ok = true ∧ g.active h ≠ [] ∧ (∀ l ∈ g.active h, ∀ x ∈ reads l, g.fullV x.1 x.2 = true) ∧
    s.busy g.id ds = false ∧ s.errs = []

/-- A vector instruction whose results the next head finds: the gang afterwards is run of the gang and its active lanes. On a
scalar core it traps NOT_ON_CORE. -/
def VecEffect (i : Instr) (h : Hd) (ok : Gang → Bool) (reads : Gang → Nat → List (Nat × Nat))
    (writes : Gang → List Nat → List (Nat × Nat)) (run : Gang → List Nat → Gang) : Prop :=
  (∀ (s : State) (g : Gang),
    VecReady s g h (ok g) (reads g) ((writes g (g.active h)).map fun x => Dst.v x.1 x.2) →
      exec i s = .next (doneG g.id (s.setGang (run g (g.active h))))) ∧
  ∀ (s : State) (t : Thread), s.cur = some t.id → s.thread? t.id = some t →
    exec i s = .next (trapped t.id (notOnCore t.pc t.line) t.pc s)

/-- Operands of one element type: single registers, or even register pairs for the 64-bit types (R318, R320). -/
abbrev opsOk (pair : Bool) (rs : List VReg) (g : Gang) : Bool := rs.all fun r => g.okOp pair r.toNat

/-- Values put into one operand of the active lanes, in ascending lane order, all sources read first (R319). -/
def LaneValues (i : Instr) (h : Hd) (pair : Bool) (vd : VReg) (ok : Gang → Bool) (reads : Gang → Nat → List (Nat × Nat))
    (val : Gang → Nat → BitVec 32 → Nat × BitVec 32) : Prop :=
  VecEffect i h ok reads (fun _ act => act.flatMap fun l => opReads pair [vd.toNat] l) (lanesRun pair vd.toNat val)

/-- An element instruction (R318, R323): each part of each active lane's element is f of the same parts of the sources; under .rs
every rounded part steps the seed (R200). -/
abbrev Elementwise (i : Instr) (h : Hd) (ty : Ety) (steps : Bool) (vd : VReg) (srcs : List VReg)
    (f : List Nat → BitVec 32 → Nat) : Prop :=
  LaneValues i h ty.is64 vd (opsOk ty.is64 (vd :: srcs)) (fun _ l => opReads ty.is64 (vnums srcs) l)
    (elemVal ty steps (vnums srcs) f)

/-- A move of one operand between lanes: lane l takes the va of the lane that src names (R337). -/
abbrev MovesLanes (i : Instr) (h : Hd) (n64 : Bool) (vd va : VReg) (idx : List VReg) (sr : List Nat)
    (src : Gang → Nat → Nat) : Prop :=
  LaneValues i h n64 vd (fun g => opsOk n64 [vd, va] g && opsOk false idx g && g.sOk sr)
    (fun g l => opReads false (vnums idx) l ++ opReads n64 [va.toNat] (src g l))
    fun g l seed => (g.getE n64 va.toNat (src g l), seed)

/-- The results of late lanes, with the seed that they leave. -/
abbrev lateLanes (pair : Bool) (vd : Nat) (val : Gang → Nat → BitVec 32 → Nat × BitVec 32) (g : Gang) (ls : List Nat) :
    List (Dst × Word) × BitVec 32 :=
  ls.foldl (fun (a : List (Dst × Word) × BitVec 32) l =>
    (a.1 ++ [(opDst pair vd l, BitVec.ofNat 64 (val g l a.2).1)], (val g l a.2).2)) ([], g.srseed)

/-- An element instruction whose results are filled late (R321, R326): the destinations are empty until then. -/
def LateElements (i : Instr) (h : Hd) (ty : Ety) (steps : Bool) (vd : VReg) (srcs : List VReg)
    (f : List Nat → BitVec 32 → Nat) : Prop :=
  ∀ (s : State) (g : Gang),
    VecReady s g h (opsOk ty.is64 (vd :: srcs) g) (fun l => opReads ty.is64 (vnums srcs) l)
      ((g.active h).map fun l => opDst ty.is64 vd.toNat l) → flagFull g.flags (flagOf g.line h) = false →
    ∀ fs seed, lateLanes ty.is64 vd.toNat (elemVal ty steps (vnums srcs) f) g (g.active h) = (fs, seed) →
      exec i s = .next (doneG g.id
        (((fs.foldl (fun s f => (s.markEmpty g.id f.1).clearErr g.id f.1) (s.setGang { g with srseed := seed })).raise g.id
          (flagOf g.line h)).addOp g.id (flagOf g.line h) (.fills fs)))

/-- A vector memory instruction up to its checks: s1 and the places good of each active lane are what they give. -/
abbrev VecAccess (s s1 : State) (g : Gang) (h : Hd) (ok : Bool) (sreg : List Nat) (reads : Nat → List (Nat × Nat))
    (dsts : Nat → List Dst) (align : Nat) (k : AccKind) (hostOk : Bool) (place : Nat → List (Word × Nat))
    (good : List (Nat × List Acc)) : Prop :=
  VecReady s g h ok reads ((g.active h).flatMap dsts) ∧ g.sOk sreg = true ∧ flagFull g.flags (flagOf g.line h) = false ∧
    checkRows g.agent align k hostOk ((g.active h).map fun l => (l, place l)) s = ⟨s1, good, [], [], false⟩

/-! ## The matrix engine -/

/-- An operation put into the engine queue, with a copy of the table, the registers written in the interval of R100, and the head's
flag up (R356, R361). -/
abbrev queued (h : Hd) (m : MM) (rot : Bool) (g : Gang) (s : State) : State :=
  doneG g.id (({ (s.updGang g.id fun u => { u with
      matOps := u.matOps ++ [
        { mm := m, rot := rot, seq := g.matSeq, table := (g.lutlo, g.luthi), flag := flagOf g.line h,
          dirty := (MM.regsA m ++ MM.regsB m).filter fun r => g.written.contains r, accDirty := false, ended := false,
          err := none }],
      matSeq := u.matSeq + 1 }) with engine := s.engine ++ [(g.id, g.matSeq)] } : State).raise g.id (flagOf g.line h))

/-- The partition's queue on the wide core has a place (R356). -/
abbrev engineRoom (s : State) (g : Gang) : Prop :=
  (s.engineQueue g.part g.id.cluster g.id.tile).length < 4 * (s.quarters g.part g.id.cluster).length

/-- A step whose gang afterwards is g', with the state otherwise as before but for what the head's end and a count of free values
change (R168). -/
def gangBecomes (s s' : State) (g g' : Gang) : Prop :=
  s'.gang? g.id = some g' ∧ s'.mem = s.mem ∧ s'.scratch = s.scratch ∧ s'.threads = s.threads ∧ s'.ops = s.ops ∧
    s'.teams = s.teams ∧ (∀ d, d ≠ g.id → s'.gang? d = s.gang? d) ∧ g'.s = g.s ∧ g'.preds = g.preds ∧ g'.flags = g.flags ∧
    g'.pc = g.next.pc ∧ g'.lanes = g.next.lanes

/-! ## Counting -/

/-- What the changes of a list come to at a count point (R144, R145). -/
def changeSum (pt : CountPt) (cs : List Change) : Int := ((cs.filter fun c => c.pt == pt).map fun c => c.delta).sum

/-! ## What a register instruction may change -/

/-- The registers and the predicates that a register instruction writes, and whether it may step the seed; none for every other
instruction, and for those whose result is filled later. -/
def frameOf : Instr → Option (List Reg × List PReg × Bool)
  | .add _ r | .sub _ r | .mul _ r | .and _ r | .or _ r | .xor _ r | .andn _ r | .orn _ r | .xnor _ r => some ([r.xd], [], false)
  | .clz _ r | .ctz _ r | .popc _ r | .brev _ r | .bswap _ r | .mov _ r => some ([r.xd], [], false)
  | .addi _ r | .andi _ r | .ori _ r | .xori _ r => some ([r.xd], [], false)
  | .li _ xd _ _ | .liZ _ xd _ _ => some ([xd], [], false)
  | .liHi _ xd _ _ _ => some ([xd], [], false)
  | .addpc _ xd _ _ => some ([xd], [], false)
  | .mulh _ _ r => some ([r.xd], [], false)
  | .min _ _ r | .max _ _ r => some ([r.xd], [], false)
  | .shl _ r _ | .shr _ r _ | .sar _ r _ | .rotr _ r _ => some ([r.xd], [], false)
  | .shfi _ r _ => some ([r.xd], [], false)
  | .bfe _ _ r _ _ => some ([r.xd], [], false)
  | .bfi _ r _ _ => some ([r.xd], [], false)
  | .sext _ r _ | .zext _ r _ => some ([r.xd], [], false)
  | .sel _ xd _ _ _ => some ([xd], [], false)
  | .pget _ xd => some ([xd], [], false)
  | .fmin _ _ r | .fmax _ _ r => some ([r.xd], [], false)
  | .fsgn _ _ _ r => some ([r.xd], [], false)
  | .fclass _ _ r => some ([r.xd], [], false)
  | .fadd _ _ _ r | .fsub _ _ _ r | .fmul _ _ _ r => some ([r.xd], [], true)
  | .ffma _ _ _ _ r _ => some ([r.xd], [], true)
  | .fcvt _ _ _ _ _ r => some ([r.xd], [], true)
  | .cmp _ _ _ pd _ _ _ => some ([], [pd], false)
  | .cmpi _ _ _ pd _ _ _ => some ([], [pd], false)
  | .fcmp _ _ _ pd _ _ _ => some ([], [pd], false)
  | .pand _ pd _ _ _ _ | .por _ pd _ _ _ _ | .pxor _ pd _ _ _ _ => some ([], [pd], false)
  | .pset _ pd _ => some ([], [pd], false)
  | .psetNz _ pd _ => some ([], [pd], false)
  | .psetAll _ _ => some ([], [1, 2, 3, 4, 5, 6, 7, 8, 9, 10, 11, 12, 13, 14, 15], false)
  | .feClr _ xd => some ([xd], [], false)
  | .feTst _ pd _ => some ([], [pd], false)
  | _ => none

/-! ## Issue -/

/-- A thread's head that issues at cc: the time has passed, the slot is used and counted, and the thread is current (R157, R412). -/
abbrev issuedT (t : Thread) (cc : Nat) (s : State) : State :=
  { ((s.passTo cc).updThread t.id fun t => { t with notBefore := cc + 1 }).grant t.part (some t.team) 1 0 with cur := some t.id }

/-- A gang's head of n passes that issues at ac (R165, R166, R412). -/
abbrev issuedG (g : Gang) (ac n : Nat) (s : State) : State :=
  { ((s.passTo (2 * ac)).setWideSlot ⟨g.id.cluster, g.id.tile, g.part, g.id.ctx,
      wideAfter (s.quarters g.part g.id.cluster) ac n⟩).grant g.part g.team 0 n with cur := some g.id }

/-- The instruction at head index idx of a line, for a context on a core of a kind (R206, R222, R223). -/
abbrev headDecodes (wide : Bool) (line idx : Nat) (i : Instr) : Prop :=
  ∃ info, opInfo (bits (lineHead line idx) 13 6) = some info ∧ decode (lineHead line idx) (lineTail line idx) = .ok i ∧
    (if wide = true then scalarOnly (bits (lineHead line idx) 13 6) = false
      else wideOnly (bits (lineHead line idx) 13 6) = false ∧ tailG info.cls (lineTail line idx) = false)

end Sys2Proof.Machine
end

