-- ==== Sys2Proof/Certificates/Slice0/Obligations.lean ====
section
/-! DEFINITION. The statements about the machine, from the numbered rules of spec/. -/

open Sys2Proof Sys2Proof.Machine

/-! ## Register instructions -/

/-- R244: the three-register operations, in a thread, in each active lane, and once for the gang under G = 1. -/
def Obligations.ThreeRegisterOperations : Prop :=
  Op3 .add 0x10 (· + ·) ∧ Op3 .sub 0x11 (· - ·) ∧ Op3 .mul 0x15 (fun a b => BitVec.ofNat 64 (a.toNat * b.toNat)) ∧
  Op3 .and 0x19 (· &&& ·) ∧ Op3 .or 0x1A (· ||| ·) ∧ Op3 .xor 0x1B (· ^^^ ·) ∧ Op3 .andn 0x1C (fun a b => a &&& ~~~b) ∧
  Op3 .orn 0x1D (fun a b => a ||| ~~~b) ∧ Op3 .xnor 0x1E (fun a b => ~~~(a ^^^ b))

/-- R245: the one-register operations; byte i of the result of `bswap` is byte 7 − i of xa. -/
def Obligations.OneRegisterOperations : Prop :=
  Op2 .clz 0x29 BitVec.clz ∧ Op2 .ctz 0x2A BitVec.ctz ∧ Op2 .popc 0x2B BitVec.cpop ∧ Op2 .brev 0x2C BitVec.reverse ∧
  Op2 .mov 0x4A (fun a => a) ∧
  ∃ f, Op2 .bswap 0x2D f ∧ ∀ a i, i < 8 → (f a).extractLsb' (8 * i) 8 = a.extractLsb' (8 * (7 - i)) 8

/-- R246: the immediate operations. -/
def Obligations.ImmediateOperations : Prop :=
  OpImm .addi 0x12 (fun a n => a + n.signExtend 64) ∧ OpImm .andi 0x1F (fun a n => a &&& n.signExtend 64) ∧
  OpImm .ori 0x20 (fun a n => a ||| n.zeroExtend 64) ∧ OpImm .xori 0x21 (fun a n => a ^^^ n.zeroExtend 64)

/-- R247, R248, R253, R254: constants, `addpc` with the B layout of R213, the high half of a product, minimum, maximum and
selection. -/
def Obligations.ConstantsProductsSelection : Prop :=
  (∀ h xd n g, Writes (.li h xd n g) h g [] xd fun _ => n.signExtend 64) ∧
  (∀ h xd n g, Writes (.liZ h xd n g) h g [] xd fun _ => n.zeroExtend 64) ∧
  (∀ h xd xa n g, Writes (.liHi h xd xa n g) h g [xa] xd fun x =>
    n.zeroExtend 64 <<< 32 ||| ((x.v 0).extractLsb' 0 32).zeroExtend 64) ∧
  (∀ h xd t g, Writes (.addpc h xd t g) h g [] xd fun x =>
    (x.pc &&& ~~~63) + t.disp.signExtend 64 * 64 + t.idx.zeroExtend 64) ∧
  (∀ h r, Writes (.mulh h .ss r) h r.g [r.xa, r.xb] r.xd fun x =>
    BitVec.ofInt 64 ((x.v 0).toInt * (x.v 1).toInt / 2 ^ 64)) ∧
  (∀ h r, Writes (.mulh h .uu r) h r.g [r.xa, r.xb] r.xd fun x =>
    BitVec.ofNat 64 ((x.v 0).toNat * (x.v 1).toNat / 2 ^ 64)) ∧
  (∀ h r, Writes (.mulh h .su r) h r.g [r.xa, r.xb] r.xd fun x =>
    BitVec.ofInt 64 ((x.v 0).toInt * (x.v 1).toNat / 2 ^ 64)) ∧
  (∀ h r, Writes (.min h false r) h r.g [r.xa, r.xb] r.xd fun x =>
    if (x.v 0).toInt ≤ (x.v 1).toInt then x.v 0 else x.v 1) ∧
  (∀ h r, Writes (.min h true r) h r.g [r.xa, r.xb] r.xd fun x =>
    if (x.v 0).toNat ≤ (x.v 1).toNat then x.v 0 else x.v 1) ∧
  (∀ h r, Writes (.max h false r) h r.g [r.xa, r.xb] r.xd fun x =>
    if (x.v 0).toInt ≤ (x.v 1).toInt then x.v 1 else x.v 0) ∧
  (∀ h r, Writes (.max h true r) h r.g [r.xa, r.xb] r.xd fun x =>
    if (x.v 0).toNat ≤ (x.v 1).toNat then x.v 1 else x.v 0) ∧
  ∀ h xd xa xb pc, Writes (.sel h xd xa xb pc) h false [xa, xb] xd fun x => if x.p pc then x.v 0 else x.v 1

/-- R250, R251: shifts and rotates; the funnel shift is bits [63 + amount : amount] of the 128-bit value xa : xb. -/
def Obligations.ShiftsAndRotates : Prop :=
  OpShift .shl 0x22 (fun a n => a <<< n) ∧ OpShift .shr 0x23 (fun a n => a >>> n) ∧
  OpShift .sar 0x24 (fun a n => a.sshiftRight n) ∧ OpShift .rotr 0x25 (fun a n => a.rotateRight n) ∧
  opInfo 0x26 = some ⟨.XI, true, false⟩ ∧
  ∀ h r n, encBody (.shfi h r n) = some (h, 0x26, XITail.pack ⟨r.xd, r.xa, r.g, 0, r.xb.toNat + 32 * n.toNat⟩) ∧
    Writes (.shfi h r n) h r.g [r.xa, r.xb] r.xd (fun x =>
      BitVec.ofNat 64 (((x.v 0).toNat * 2 ^ 64 + (x.v 1).toNat) / 2 ^ n.toNat)) ∧
    ∀ t : XITail, t.sub ≠ 0 ∨ 2 ^ 11 ≤ t.imm → decXI 0x26 h t = .error .reservedBits

/-- R252, R255: fields and extensions, said bit by bit; a field bit above bit 63 reads as zero. -/
def Obligations.FieldsAndExtensions : Prop :=
  ∀ (h : Hd) (r : R2) (lsb len1 : BitVec 6),
    (∃ f : Word → Word, Writes (.bfe h false r lsb len1) h r.g [r.xa] r.xd (fun x => f (x.v 0)) ∧
      ∀ a k, k < 64 → (f a).getLsbD k = (decide (k ≤ len1.toNat) && a.getLsbD (lsb.toNat + k))) ∧
    (∃ f : Word → Word, Writes (.bfe h true r lsb len1) h r.g [r.xa] r.xd (fun x => f (x.v 0)) ∧
      ∀ a k, k < 64 → (f a).getLsbD k = a.getLsbD (lsb.toNat + min k len1.toNat)) ∧
    (∃ f : Word → Word → Word, Writes (.bfi h r lsb len1) h r.g [r.xd, r.xa] r.xd (fun x => f (x.v 0) (x.v 1)) ∧
      ∀ d a k, k < 64 → (f d a).getLsbD k =
        if lsb.toNat ≤ k ∧ k ≤ lsb.toNat + len1.toNat then a.getLsbD (k - lsb.toNat) else d.getLsbD k) ∧
    (∃ f : Word → Word, Writes (.sext h r len1) h r.g [r.xa] r.xd (fun x => f (x.v 0)) ∧
      ∀ a k, k < 64 → (f a).getLsbD k = a.getLsbD (min k len1.toNat)) ∧
    ∃ f : Word → Word, Writes (.zext h r len1) h r.g [r.xa] r.xd (fun x => f (x.v 0)) ∧
      ∀ a k, k < 64 → (f a).getLsbD k = (decide (k ≤ len1.toNat) && a.getLsbD k)

/-- R256, R257, R258, R259, R260: comparisons, predicates and the full/empty tests and clears; the pd of .and and .or is read as it was before the instruction. -/
def Obligations.ComparisonsAndPredicates : Prop :=
  (∀ h c k pd xa xb g, Decides (.cmp h c k pd xa xb g) h g [xa, xb] pd fun x =>
    Comb.gives k (x.p pd) (Cond.says c (x.v 0) (x.v 1))) ∧
  (∀ h c k pd xa n g, Decides (.cmpi h c k pd xa n g) h g [xa] pd fun x =>
    Comb.gives k (x.p pd) (Cond.says c (x.v 0) (n.signExtend 64))) ∧
  (∀ h pd pa pb na nb, Decides (.pand h pd pa pb na nb) h false [] pd fun x =>
    (x.p pa ^^ na) && (x.p pb ^^ nb)) ∧
  (∀ h pd pa pb na nb, Decides (.por h pd pa pb na nb) h false [] pd fun x =>
    (x.p pa ^^ na) || (x.p pb ^^ nb)) ∧
  (∀ h pd pa pb na nb, Decides (.pxor h pd pa pb na nb) h false [] pd fun x =>
    (x.p pa ^^ na) ^^ (x.p pb ^^ nb)) ∧
  (∀ h pd b, Decides (.pset h pd b) h false [] pd fun _ => b) ∧
  (∀ h pd xa, Decides (.psetNz h pd xa) h false [xa] pd fun x => decide (x.v 0 ≠ 0)) ∧
  (∀ h xa, RegEffect (.psetAll h xa) h false [xa] [] fun x =>
    ([.p 1 ((x.v 0).getLsbD 1), .p 2 ((x.v 0).getLsbD 2), .p 3 ((x.v 0).getLsbD 3), .p 4 ((x.v 0).getLsbD 4),
      .p 5 ((x.v 0).getLsbD 5), .p 6 ((x.v 0).getLsbD 6), .p 7 ((x.v 0).getLsbD 7), .p 8 ((x.v 0).getLsbD 8),
      .p 9 ((x.v 0).getLsbD 9), .p 10 ((x.v 0).getLsbD 10), .p 11 ((x.v 0).getLsbD 11), .p 12 ((x.v 0).getLsbD 12),
      .p 13 ((x.v 0).getLsbD 13), .p 14 ((x.v 0).getLsbD 14), .p 15 ((x.v 0).getLsbD 15)], x.seed)) ∧
  (∀ h xd, Writes (.pget h xd) h false [] xd fun x => (x.preds ||| 1).zeroExtend 64) ∧
  ∀ (s : State) (h : Hd),
    (∀ t, RunsT s t h →
      (∀ xd, t.queueOn = false ∨ xd ≠ 6 ∧ xd ≠ 7 →
        exec (.feClr h xd) s = .next (doneT t.id (s.markEmpty t.id (t.dst xd.toNat)))) ∧
      (∀ xd, t.queueOn = true → xd = 6 ∨ xd = 7 →
        exec (.feClr h xd) s = .next (trapped t.id (illegalOp t.pc t.line rVariant) t.pc s)) ∧
      ∀ pd xa, exec (.feTst h pd xa) s = .next (doneT t.id (s.updThread t.id fun t => t.setPred pd.toNat
        (if xa = 0 then true
        else if t.queueOn = true ∧ xa = 6 then t.recvq ≠ []
        else if t.queueOn = true ∧ xa = 7 then s.pushBlocked t [7] = false
        else (t.getX xa.toNat).full = true)))) ∧
    ∀ g, RunsG s g →
      (∀ xd, g.xOk [xd.toNat] = true → exec (.feClr h xd) s = .next (doneG g.id
        (s.updGang g.id fun g => (g.active h).foldl (fun g l => g.clrPair xd.toNat l) g))) ∧
      ∀ pd xa, g.xOk [xa.toNat] = true → exec (.feTst h pd xa) s = .next (doneG g.id
        (s.updGang g.id fun g => (g.active h).foldl (fun u l => u.setPred pd.toNat l
          (xa = 0 ∨ g.fullV (2 * xa.toNat) l = true ∧ g.fullV (2 * xa.toNat + 1) l = true)) g))

/-- R262 to R266, R268, R269: scalar floating point; every arithmetic result is one rounding of the exact value, and a result
rounded under .rs steps the seed once. -/
def Obligations.ScalarFloatingPoint : Prop :=
  (∀ h dbl rm r, Rounds (.fadd h dbl rm r) h r.g dbl rm [r.xa, r.xb] r.xd fun x =>
    exactAdd rm (fpVal dbl (x.v 0)) (fpVal dbl (x.v 1))) ∧
  (∀ h dbl rm r, Rounds (.fsub h dbl rm r) h r.g dbl rm [r.xa, r.xb] r.xd fun x =>
    exactAdd rm (fpVal dbl (x.v 0)) (fpVal dbl (x.v 1)).neg) ∧
  (∀ h dbl rm r, Rounds (.fmul h dbl rm r) h r.g dbl rm [r.xa, r.xb] r.xd fun x =>
    exactMul (fpVal dbl (x.v 0)) (fpVal dbl (x.v 1))) ∧
  (∀ h neg dbl rm r xc, Rounds (.ffma h neg dbl rm r xc) h r.g dbl rm [r.xa, r.xb, xc] r.xd fun x =>
    exactFma rm neg (fpVal dbl (x.v 0)) (fpVal dbl (x.v 1)) (fpVal dbl (x.v 2))) ∧
  (∀ h dbl r, Writes (.fmin h dbl r) h r.g [r.xa, r.xb] r.xd fun x =>
    w64 (fminmax (fpFmt dbl) false (fpCode dbl (x.v 0)) (fpCode dbl (x.v 1)))) ∧
  (∀ h dbl r, Writes (.fmax h dbl r) h r.g [r.xa, r.xb] r.xd fun x =>
    w64 (fminmax (fpFmt dbl) true (fpCode dbl (x.v 0)) (fpCode dbl (x.v 1)))) ∧
  (∀ h dbl c pd xa xb g, Decides (.fcmp h dbl c pd xa xb g) h g [xa, xb] pd fun x =>
    condHolds c (fcmpVal (fpVal dbl (x.v 0)) (fpVal dbl (x.v 1)))) ∧
  (∀ h dst src rm sat r, RegEffect (.fcvt h dst src rm sat r) h r.g [r.xa] [r.xd] fun x =>
    ([.x r.xd (cvtWord dst (convert dst src rm sat (x.v 0).toNat (srStep x.seed)))], srNext rm x.seed)) ∧
  (∀ h dbl op r, Writes (.fsgn h dbl op r) h r.g [r.xa, r.xb] r.xd fun x =>
    w64 (setSign (fpFmt dbl) (fpCode dbl (x.v 0)) (sgnOf (fpFmt dbl) op (fpCode dbl (x.v 0)) (fpCode dbl (x.v 1))))) ∧
  ∀ h dbl r, Writes (.fclass h dbl r) h r.g [r.xa] r.xd fun x => w64 (fclassMask (fpFmt dbl) (fpCode dbl (x.v 0)))

/-- R249, R267, R231: `div`, `rem`, `frcp` and `frsq` mark their destination empty at issue and fill it later, in a thread and in
each active lane; under G = 1 the s register takes the result at once. The quotient is all ones for a divisor of 0 and −2^63 for the
overflow, the remainder is a − q × b, and `frcp` and `frsq` are one rounding of the exact value. -/
def Obligations.LateResults : Prop :=
  (∀ h uns r, LateEffect (.div h uns r) h true r.g [r.xa, r.xb] [r.xd] fun x =>
    ([.x r.xd (quotient uns (x.v 0) (x.v 1))], x.seed)) ∧
  (∀ h uns r, LateEffect (.rem h uns r) h true r.g [r.xa, r.xb] [r.xd] fun x =>
    ([.x r.xd (x.v 0 - quotient uns (x.v 0) (x.v 1) * x.v 1)], x.seed)) ∧
  (∀ h dbl rm r, LateEffect (.frcp h dbl rm r) h false r.g [r.xa] [r.xd] fun x =>
    ([.x r.xd (w64 (roundTo (fpFmt dbl) rm false (exactRcp (fpVal dbl (x.v 0))) (srStep x.seed)))], srNext rm x.seed)) ∧
  ∀ h dbl rm r, LateEffect (.frsq h dbl rm r) h false r.g [r.xa] [r.xd] fun x =>
    ([.x r.xd (w64 (roundTo (fpFmt dbl) rm false (exactRsq (fpVal dbl (x.v 0))) (srStep x.seed)))], srNext rm x.seed)

/-! ## Control transfer, traps, waiting and ending -/

/-- R234, R236, R237, R238: the jumps of a thread. The return PC goes to xd, the source of `jalr` is read first, and `loop` counts
down and branches while the count is not zero. -/
def Obligations.JumpsOfAThread : Prop :=
  ∀ (s : State) (t : Thread) (h : Hd), RunsT s t h →
    (∀ tg, exec (.br h tg) s = .next (wentTo t.id (Target.pc tg t.pc) s)) ∧
    (∀ xd tg, FreeT s t [xd.toNat] →
      exec (.jal h xd tg) s =
        .next (wentTo t.id (Target.pc tg t.pc) (writeX t.id xd.toNat (nextPc t.pc t.line) (s.setThread t)))) ∧
    (∀ xd xa lines t1 v, ReadsT s t [xa.toNat] [v] t1 → FreeT s t [xd.toNat] →
      exec (.jalr h xd xa lines) s =
        .next (wentTo t.id (v + 64 * lines.signExtend 64)
          (writeX t.id xd.toNat (nextPc t.pc t.line) (s.setThread t1)))) ∧
    ∀ xa tg t1 c, ReadsT s t [xa.toNat] [c] t1 → FreeT s t [xa.toNat] →
      (c = 0 → exec (.loop h xa tg) s = .next (doneT t.id (s.setThread t1))) ∧
      (c = 1 → exec (.loop h xa tg) s = .next (doneT t.id (writeX t.id xa.toNat 0 (s.setThread t1)))) ∧
      (c ≠ 0 → c ≠ 1 → exec (.loop h xa tg) s =
        .next (wentTo t.id (Target.pc tg t.pc) (writeX t.id xa.toNat (c - 1) (s.setThread t1))))

/-- R235, R160: a call keeps the return PC in x23 of the calling window and moves to a fresh window, whose x8 to x15 are the
caller's x24 to x31 and whose x16 to x31 are full; at depth D it traps WINDOW_OVERFLOW with TVAL = D instead. `ret` moves back to the
calling window and continues at its x23. -/
def Obligations.CallsAndReturns : Prop :=
  (∀ (s : State) (t t1 : Thread) (h : Hd) (i : Instr) (target : Word),
    RunsT s t h →
    ((∃ tg, i = .call h tg ∧ target = Target.pc tg t.pc ∧ t1 = t) ∨
      ∃ xa, i = .callr h xa ∧ t.readX xa.toNat = some (target, t1) ∧ s.regErr t.id [t.dst xa.toNat] = none) →
    (t.maxDepth ≤ t.depth → exec i s = .next (trapped t.id ⟨0x0F, w64 t.maxDepth, 0⟩ t.pc s)) ∧
    (t.depth < t.maxDepth → s.busy t.id [t.dst 23] = false → t.resident < 4 →
      ∃ s' u w, exec i s = .next s' ∧ s'.thread? t.id = some u ∧ u.pc = target ∧ u.line = none ∧ u.state = .ready ∧
        u.depth = t.depth + 1 ∧ u.outer = w :: t.outer ∧ below w 23 = ⟨nextPc t.pc t.line, true⟩ ∧
        (∀ i, 8 ≤ i → i < 23 → below w i = t.getX i) ∧ (∀ i, i < 8 → u.getX i = t.getX i) ∧
        (∀ i, 8 ≤ i → i < 16 → u.getX i = t.getX (i + 16)) ∧ (∀ i, 16 ≤ i → i < 32 → (u.getX i).full = true) ∧
        u.preds = t.preds ∧ u.flags = t.flags ∧ u.tr = t.tr ∧ onlyThread t.id s s')) ∧
  ∀ (s : State) (t : Thread) (h : Hd) (w : Vector XReg 16) (ws : List (Vector XReg 16)),
    RunsT s t h → (t.inTrap && t.depth == t.trapDepth) = false → t.depth ≠ 0 → t.outer = w :: ws →
    t.spilled ≤ ws.length → (below w 23).full = true → s.regErr t.id [.x ws.length 23] = none →
      ∃ s' u, exec (.ret h) s = .next s' ∧ s'.thread? t.id = some u ∧ u.pc = (below w 23).val ∧ u.line = none ∧
        u.state = .ready ∧ u.depth = t.depth - 1 ∧ u.outer = ws ∧ (∀ i, i < 8 → u.getX i = t.getX i) ∧
        (∀ i, 8 ≤ i → i < 24 → u.getX i = below w i) ∧ (∀ i, 24 ≤ i → i < 32 → u.getX i = t.getX (i - 16)) ∧
        u.preds = t.preds ∧ u.flags = t.flags ∧ u.tr = t.tr ∧ onlyThread t.id s s'

/-- R234, R236, R238: the jumps of a gang: each active lane takes its own target, the lanes whose guard is false go on at next, and
each lane's register result is its own. -/
def Obligations.JumpsOfAGang : Prop :=
  ∀ (s : State) (g : Gang) (h : Hd), RunsG s g →
    (∀ tg, exec (.br h tg) s = .next (branchG g ((g.active h).map fun l => (l, Target.pc tg g.pc)) s)) ∧
    (∀ xd tg, g.xOk [xd.toNat] = true → s.busy g.id ((g.active h).map fun l => xDst xd.toNat l) = false →
      exec (.jal h xd tg) s = .next (branchG g ((g.active h).map fun l => (l, Target.pc tg g.pc))
        ((g.active h).foldl (fun s l => s.putDst g.id (xDst xd.toNat l) (nextPc g.pc g.line)) s))) ∧
    (∀ xd xa lines rows, g.xOk [xd.toNat, xa.toNat] = true →
      (g.active h).mapM (fun l => (g.readX xa.toNat l).map fun v => (l, v)) = some rows →
      (∀ l ∈ g.active h, s.regErr g.id [xDst xa.toNat l] = none) →
      s.busy g.id ((g.active h).map fun l => xDst xd.toNat l) = false →
      exec (.jalr h xd xa lines) s = .next (branchG g (rows.map fun x => (x.1, x.2 + 64 * lines.signExtend 64))
        (rows.foldl (fun s x => s.putDst g.id (xDst xd.toNat x.1) (nextPc g.pc g.line)) s))) ∧
    ∀ xa tg rows, g.xOk [xa.toNat] = true →
      (g.active h).mapM (fun l => (g.readX xa.toNat l).map fun v => (l, v)) = some rows →
      (∀ l ∈ g.active h, s.regErr g.id [xDst xa.toNat l] = none) →
      s.busy g.id ((g.active h).map fun l => xDst xa.toNat l) = false →
      exec (.loop h xa tg) s =
        .next (branchG g ((rows.filter fun x => x.2 != 0 && x.2 != 1).map fun x => (x.1, Target.pc tg g.pc))
          (s.updGang g.id fun g => (rows.filter fun x => x.2 != 0).foldl (fun g x => g.setPair xa.toNat x.1 (x.2 - 1)) g))

/-- R239: `trap`, `sysc` and `brk` trap with TVAL the code and TPC the next PC: a thread at once, a grid gang by its lowest
active lane. -/
def Obligations.TrapsOnPurpose : Prop :=
  ∀ (s : State) (h : Hd) (code : BitVec 16) (i : Instr) (cause : Nat),
    (i = .trap h code ∧ cause = 0x10 ∨ i = .sysc h code ∧ cause = 0x11 ∨ i = .brk h code ∧ cause = 0x12) →
    (∀ t, RunsT s t h →
      exec i s = .next (trapped t.id ⟨cause, code.zeroExtend 64, 0⟩ (nextPc t.pc t.line) s)) ∧
    ∀ g l ls, RunsG s g → g.active h = l :: ls → g.galley = false →
      exec i s = .next (trapGrid g.id ⟨cause, code.zeroExtend 64, 0⟩ l (nextPc g.pc g.line)
        (s.updGang g.id fun g => { g with issued := g.issued + 1, state := .ready }))

/-- R377, R379: trap entry, where a handler is installed and none runs; otherwise the launch of the thread is killed, with the
trap and the CTXID as its reason. At entry: The trap registers, the predicate shadow, a new window over the
trapped one, INTRAP, the PC at TVEC; x1 to x7, the flags, the fills in flight and everything outside the thread stay. -/
def Obligations.TrapEntry : Prop :=
  ∀ (s : State) (c : CtxId) (t : Thread) (ti : TrapInfo) (tpc : Word),
    s.thread? c = some t →
    (t.inTrap = true ∨ t.tr.tvec = 0 → takeTrap c ti tpc s = killLaunch t.team.launch (some (ti, tpc, c.word)) s) ∧
    (t.inTrap = false → t.tr.tvec ≠ 0 →
      ∃ u, (takeTrap c ti tpc s).thread? c = some u ∧ u.tr.tcause = w64 ti.cause ∧ u.tr.tval = ti.tval ∧ u.tr.tpc = tpc ∧
        u.tr.tinfo = ti.tinfo ∧ u.tr.tvec = t.tr.tvec ∧ u.tr.tscratch = t.tr.tscratch ∧ u.shadow = t.preds ∧
        u.inTrap = true ∧ u.pc = t.tr.tvec ∧ u.line = none ∧ u.state = .ready ∧ u.depth = t.depth ∧
        u.outer.length = t.outer.length + 1 ∧ (∀ i, i < 8 → u.getX i = t.getX i) ∧
        (∀ i, 8 ≤ i → i < 16 → u.getX i = t.getX (i + 16)) ∧ (∀ i, 16 ≤ i → i < 32 → (u.getX i).full = true) ∧
        u.flags = t.flags ∧ u.sb = t.sb ∧ u.priv = t.priv ∧ (takeTrap c ti tpc s).ops = s.ops ∧
        onlyThread c s (takeTrap c ti tpc s))

/-- R240, R377: `eret` returns to the trapped window and to TPC, restores p1 to p15 from the shadow and clears INTRAP; the
handler's x8 to x15 are the trapped window's x24 to x31. -/
def Obligations.ReturnFromTrap : Prop :=
  ∀ (s : State) (t : Thread) (h : Hd) (w : Vector XReg 16) (ws : List (Vector XReg 16)),
    RunsT s t h →
    ((t.inTrap = false ∨ t.depth ≠ t.trapDepth) →
      exec (.eret h) s = .next (trapped t.id (illegalOp t.pc t.line rVariant) t.pc s)) ∧
    (t.inTrap = true → t.depth = t.trapDepth → t.outer = w :: ws → t.spilled ≤ ws.length →
      ∃ s' u, exec (.eret h) s = .next s' ∧ s'.thread? t.id = some u ∧ u.pc = t.tr.tpc ∧ u.line = none ∧ u.state = .ready ∧
        u.inTrap = false ∧ u.preds = t.shadow ∧ u.depth = t.depth ∧ u.outer = ws ∧ (∀ i, i < 8 → u.getX i = t.getX i) ∧
        (∀ i, 8 ≤ i → i < 24 → u.getX i = below w i) ∧ (∀ i, 24 ≤ i → i < 32 → u.getX i = t.getX (i - 16)) ∧
        u.flags = t.flags ∧ u.tr = t.tr ∧ onlyThread t.id s s')

/-- R241, R242, R243: `nop` has no effect, nor has `yield` on a scalar core; on a wide core `yield` offers the switch of R168 at the next line
boundary; `sleep`
sleeps for 16 × ticks cc, and a pending `ipi` ends it at once. `exit` of a thread that holds no count, once its release is made: the
thread is EXITED with the code, its loads in flight are discarded, and the code stands in its launch; a team whose last counted
context has ended goes on to its end. And `exit` of the active lanes of a grid gang that hold no count. -/
def Obligations.PausesAndExit : Prop :=
  (∀ (s : State) (h : Hd),
    (∀ t, RunsT s t h →
      exec (.nop h) s = .next (doneT t.id s) ∧ exec (.yield h) s = .next (doneT t.id s) ∧
      ∀ ticks,
        (t.ipiPending = true →
          exec (.sleep h ticks) s = .next (doneT t.id (s.updThread t.id fun t => { t with ipiPending := false }))) ∧
        (t.ipiPending = false → exec (.sleep h ticks) s = .next (s.updThread t.id fun t =>
          { t.next with state := .sleeping (if ticks = 0 then none else some (s.cc + 16 * ticks.toNat)) }))) ∧
    ∀ g, RunsG s g → exec (.nop h) s = .next (doneG g.id s) ∧
      (g.active h = [] → exec (.yield h) s = .next (doneG g.id s)) ∧
      (g.active h ≠ [] → exec (.yield h) s =
        .next (doneG g.id (s.updGang g.id fun g => { g with yieldDue := !g.stack.isEmpty })))) ∧
  ∀ (s : State) (h : Hd) (xa : Reg),
    (∀ t t1 code s1 t2, RunsT s t h → ReadsT s t [xa.toNat] [code] t1 → t.msg = none → t.caps = [] →
      releaseThread t.id .dv (settleLoads t.id s) = .ok s1 → s1.thread? t.id = some t2 → t2.unacked = 0 →
        exec (.exit h xa) s = .next (endThread t2 code s1)) ∧
    ∀ g codes s1, RunsG s g → g.xOk [xa.toNat] = true → g.galley = false → g.active h ≠ [] →
      (g.active h).mapM (fun l => (g.readX xa.toNat l).map fun v => (l, v)) = some codes →
      (∀ l ∈ g.active h, s.regErr g.id [xDst xa.toNat l] = none) → (∀ k ∈ g.caps, k.1 ∉ g.active h) →
      releaseGang g.id .dv (settleLoads g.id s) = .ok s1 → exec (.exit h xa) s = .next (endLanes g codes s1)


/-! ## Control registers -/

/-- R270, R271: `csrr` fills xd with the register; `csrw` and `csrx` check the number, then that it is writable, then the
privilege, and read and write as one step; `csrx` returns the old value. On a wide core `csrr` fills xd of every active lane, LANE
with the lane's own number, and `csrx` takes xa of the lowest active lane and returns the old value to every active lane. -/
def Obligations.ControlRegisterInstructions : Prop :=
  (∀ (s : State) (t : Thread) (h : Hd) (xd xa : Reg) (n : BitVec 12), RunsT s t h →
    (csrExists false n.toNat = false →
      exec (.csrr h xd n) s = .next (trapped t.id (illegalOp t.pc t.line rVariant) t.pc s)) ∧
    (csrExists false n.toNat = true → FreeT s t [xd.toNat] →
      exec (.csrr h xd n) s = .next (doneT t.id (writeX t.id xd.toNat (csrReadT s t n.toNat) s))) ∧
    ∀ (i : Instr) (f : Word → Word → Word) (d : Reg),
      ((i = .csrw h n xa ∧ f = fun _ a => a) ∧ d = 0 ∨ (i = .csrxSwap h xd n xa ∧ f = fun _ a => a) ∧ d = xd ∨
        (i = .csrxSet h xd n xa ∧ f = fun old a => old ||| a) ∧ d = xd ∨
        (i = .csrxClr h xd n xa ∧ f = fun old a => old &&& ~~~a) ∧ d = xd) →
      ((csrExists false n.toNat = false ∨ csrReadOnly n.toNat = true) →
        exec i s = .next (trapped t.id (illegalOp t.pc t.line rVariant) t.pc s)) ∧
      (csrExists false n.toNat = true → csrReadOnly n.toNat = false → csrPrivileged n.toNat = true → t.priv = false →
        exec i s = .next (trapped t.id (privTrap t.pc t.line) t.pc s)) ∧
      ∀ a t1, csrExists false n.toNat = true → csrReadOnly n.toNat = false →
        (csrPrivileged n.toNat = true → t.priv = true) → ReadsT s t [xa.toNat] [a] t1 → FreeT s t [d.toNat] →
        (n = 0x020 → qbindBad s t (f (csrReadT s t 0x020) a) = false) →
          exec i s = .next (doneT t.id (csrWriteT t.id n.toNat (f (csrReadT s t n.toNat) a)
            (writeX t.id d.toNat (csrReadT s t n.toNat) (s.setThread t1))))) ∧
  ∀ (s : State) (g : Gang) (h : Hd) (xd xa : Reg) (n : BitVec 12) (l0 : Nat) (ls : List Nat),
    RunsG s g → g.xOk [xd.toNat, xa.toNat] = true → g.active h = l0 :: ls → csrExists true n.toNat = true →
    s.busy g.id ((l0 :: ls).map fun l => xDst xd.toNat l) = false →
      exec (.csrr h xd n) s = .next (doneG g.id
        ((l0 :: ls).foldl (fun s1 l => s1.putDst g.id (xDst xd.toNat l) (csrReadG s g l n.toNat)) s)) ∧
      ∀ a, csrReadOnly n.toNat = false → n ≠ 0x080 → g.readX xa.toNat l0 = some a →
        s.regErr g.id [xDst xa.toNat l0] = none →
          exec (.csrxSwap h xd n xa) s = .next (doneG g.id (csrWriteG g.id n.toNat a
            ((l0 :: ls).foldl (fun s1 l => s1.putDst g.id (xDst xd.toNat l) (csrReadG s g l0 n.toNat)) s)))

/-- R272, R24, R276, R199, R273, R274: a control register read after a write gives what the write left in it, and every other control
register reads as before; the layouts of STATUS and CTXID, field by field, every other bit zero. -/
def Obligations.ControlRegisterValues : Prop :=
  (∀ (s : State) (c : CtxId) (t : Thread) (n : Nat) (v : Word),
    s.thread? c = some t → t.id = c → csrExists false n = true → csrReadOnly n = false →
    (n = 0x081 → (s.part? t.part).isSome = true) →
      ∃ u, (csrWriteT c n v s).thread? c = some u ∧ csrReadT (csrWriteT c n v s) u n = csrWritten n v ∧
        (∀ m, m ≠ n → csrReadT (csrWriteT c n v s) u m = csrReadT s t m) ∧
        u.x = t.x ∧ u.preds = t.preds ∧ u.flags = t.flags ∧ u.pc = t.pc ∧ (csrWriteT c n v s).mem = s.mem) ∧
  (∀ t : Thread, t.depth < 128 →
    t.status.extractLsb' 16 7 = BitVec.ofNat 7 t.depth ∧ t.status.getLsbD 1 = t.inTrap ∧ t.status.getLsbD 0 = t.priv ∧
      ∀ k, (2 ≤ k ∧ k < 16 ∨ 23 ≤ k) → t.status.getLsbD k = false) ∧
  ∀ c : CtxId, c.ok = true →
    c.word.extractLsb' 24 4 = BitVec.ofNat 4 c.cluster ∧ c.word.extractLsb' 16 6 = BitVec.ofNat 6 c.tile ∧
      c.word.getLsbD 8 = c.wide ∧ c.word.extractLsb' 6 2 = BitVec.ofNat 2 c.core ∧
      c.word.extractLsb' 0 5 = BitVec.ofNat 5 c.ctx ∧
      ∀ k, (k = 5 ∨ 9 ≤ k ∧ k < 16 ∨ 22 ≤ k ∧ k < 24 ∨ 28 ≤ k) → c.word.getLsbD k = false


/-! ## Memory -/

/-- R278, R281, R284, R285: `ld`, `ldx`, `ldp` and `ld.acq`: their addresses, sizes, alignment and destinations, in a thread, in
each active lane and once for the gang; `ldp` with xd = x31 traps. -/
def Obligations.Loads : Prop :=
  (∀ h sz r, LoadEffect (.ld h sz r) h r.g [r.xa] (fun vs => vs.getD 0 0 + r.imm.signExtend 64) [(sz, r.xd.toNat)] sz.bytes
    none) ∧
  (∀ h sz r, LoadEffect (.ldx h sz r) h r.g [r.xa, r.xb] (fun vs => vs.getD 0 0 + vs.getD 1 0 <<< r.s.toNat)
    [(sz, r.xd.toNat)] sz.bytes none) ∧
  (∀ h sz sc r, LoadEffect (.ldAcq h sz sc r) h r.g [r.xa] (fun vs => vs.getD 0 0 + r.imm.signExtend 64) [(sz, r.xd.toNat)]
    sz.bytes (some (Scope4.scope sc))) ∧
  (∀ h r, r.xd ≠ 31 → LoadEffect (.ldp h r) h r.g [r.xa] (fun vs => vs.getD 0 0 + r.imm.signExtend 64)
    [(.n64, r.xd.toNat), (.n64, r.xd.toNat + 1)] 8 none) ∧
  ∀ h r s t, r.xd = 31 → s.cur = some t.id → s.thread? t.id = some t →
    exec (.ldp h r) s = .next (trapped t.id (illegalOp t.pc t.line rRegister) t.pc s)

/-- R278, R281, R284, R285: `st`, `stx`, `stp` and `st.rel`; `stp` with xd = x31 traps. -/
def Obligations.Stores : Prop :=
  (∀ h sz r, StoreEffect (.st h sz r) h r.g [r.xa] [r.xd] (fun vs => vs.getD 0 0 + r.imm.signExtend 64) [sz] sz.bytes none) ∧
  (∀ h sz r, StoreEffect (.stx h sz r) h r.g [r.xa, r.xb] [r.xd] (fun vs => vs.getD 0 0 + vs.getD 1 0 <<< r.s.toNat) [sz]
    sz.bytes none) ∧
  (∀ h sz sc r, StoreEffect (.stRel h sz sc r) h r.g [r.xa] [r.xd] (fun vs => vs.getD 0 0 + r.imm.signExtend 64) [sz] sz.bytes
    (some (Scope4.scope sc))) ∧
  (∀ h r, r.xd ≠ 31 → StoreEffect (.stp h r) h r.g [r.xa] [r.xd, r.xd + 1] (fun vs => vs.getD 0 0 + r.imm.signExtend 64)
    [.n64, .n64] 8 none) ∧
  ∀ h r s t, r.xd = 31 → s.cur = some t.id → s.thread? t.id = some t →
    exec (.stp h r) s = .next (trapped t.id (illegalOp t.pc t.line rRegister) t.pc s)

/-- R286, R287, R288: prefetches and cache controls, and `cc.pin`, which is privileged: it sets the pinned ways of the thread's
partition in its cluster, clears the ways that change hands, once no L1 has a copy of a line in them (R73), and returns the size of
the region; on a wide core it traps. -/
def Obligations.PrefetchAndCacheControl : Prop :=
  (∀ h m, LineEffect (.prefL1 h m) h m (prefetch true)) ∧ (∀ h m, LineEffect (.prefCc h m) h m (prefetch false)) ∧
  (∀ h m, LineEffect (.ccWbL1 h m) h m (cacheControl ccWriteBack)) ∧
  (∀ h m, LineEffect (.ccWbCc h m) h m (cacheControl ccClean)) ∧
  (∀ h m, LineEffect (.ccInvL1 h m) h m (cacheControl ccInvalidateL1)) ∧
  (∀ h m, LineEffect (.ccInvCc h m) h m (cacheControl ccRecall)) ∧
  (∀ (h : Hd) (xd : Reg) (n : BitVec 2) (s : State) (g : Gang) (l : Nat) (ls : List Nat), RunsG s g → g.galley = false →
    g.xOk [xd.toNat] = true → g.active h = l :: ls →
      exec (.ccPin h xd n) s = .next (trapGrid g.id (privTrap g.pc g.line) l g.pc
        (s.updGang g.id fun g => { g with issued := g.issued + 1, state := .ready }))) ∧
  ∀ (h : Hd) (xd : Reg) (n : BitVec 2) (s : State) (t : Thread) (p : Partition), RunsT s t h →
    (t.priv = false → exec (.ccPin h xd n) s = .next (trapped t.id (privTrap t.pc t.line) t.pc s)) ∧
    (t.priv = true → FreeT s t [xd.toNat] → s.part? t.part = some p → s.ops = [] →
      (s.ccClear t.id.cluster fun l => (p.pinChanges t.id.cluster n.toNat).contains l.way).2 = true →
      ∃ s', exec (.ccPin h xd n) s = .next (doneT t.id (writeX t.id xd.toNat
        (w64 (n.toNat * (p.quarters t.id.cluster).length * 2 ^ 21)) s')) ∧
        s'.part? t.part = some (p.setPinned t.id.cluster n.toNat) ∧ s'.threads = s.threads ∧ s'.mem = s.mem ∧
        (n.toNat = p.pinned t.id.cluster → s'.pinned = s.pinned))

/-- R53, R54, R79, R80, R282, R283: an access to the thread's own team's scratchpad reads its bytes, little-endian, or writes exactly
them, where no gang bears the thread's context number (a barrel context is no gang context, R153); a store to global memory waits in
the thread's store buffer and changes no byte of memory. -/
def Obligations.WhereStoresGo : Prop :=
  (∀ (s : State) (t t1 : Thread) (h : Hd) (r : RI) (a : Acc),
    s.storesOk = true → RunsT s t h → s.gang? t.id = none → t.queueOn = false → s.ops = [] → s.errs = [] →
    a.own t.id = true → flagFull t.flags (flagOf t.line h) = false →
    (∀ sz b, ReadsT s t [r.xa.toNat] [b] t1 → FreeT s t [r.xd.toNat] → r.xd ≠ 0 →
      checkPieces t.agent (b + r.imm.signExtend 64) [sz.bytes] sz.bytes .load true s = .ok s [a] →
      ∃ s' u, exec (.ld h sz r) s = .next s' ∧ s'.thread? t.id = some u ∧
        u.getX r.xd.toNat = ⟨loadedValue sz (leNat (readSpace s a.space a.addr sz.bytes)), true⟩ ∧
        (∀ k, k ≠ r.xd.toNat → u.getX k = t.getX k) ∧ u.preds = t.preds ∧ u.flags = t.flags ∧ u.tr = t.tr ∧
        onlyThread t.id s s') ∧
    ∀ (sz : StSize) b v, ReadsT s t [r.xa.toNat, r.xd.toNat] [b, v] t1 →
      checkPieces t.agent (b + r.imm.signExtend 64) [sz.bytes] sz.bytes .store true s = .ok s [a] →
      ∃ s', exec (.st h sz r) s = .next s' ∧
        leNat (readSpace s' a.space a.addr sz.bytes) = v.toNat % 2 ^ (8 * sz.bytes) ∧ onlyBytes a.space a.addr sz.bytes s s' ∧
        s'.storesOk = true) ∧
  ∀ (s : State) (t t1 : Thread) (h : Hd) (r : RI) (sz : StSize) (a : Acc) (b v : Word),
    RunsT s t h → ReadsT s t [r.xa.toNat, r.xd.toNat] [b, v] t1 → s.ops = [] → s.errs = [] → t.sb = [] →
    t.agent.relHandler = false → flagFull t.flags (flagOf t.line h) = false →
    checkPieces t.agent (b + r.imm.signExtend 64) [sz.bytes] sz.bytes .store true s = .ok s [a] → a.space = .mem →
    a.addr % sz.bytes = 0 →
      ∃ s' u e, exec (.st h sz r) s = .next s' ∧ s'.thread? t.id = some u ∧ u.sb = [e] ∧ e.pa = a.addr / 32 * 32 ∧
        e.held = none ∧ e.ptbase = t.ptbase ∧ sbForward u.sb a.addr 0 (rdBytes s.mem a.addr sz.bytes) =
          (toBytes sz.bytes v.toNat, true) ∧ u.x = t.x ∧ u.preds = t.preds ∧ u.tr = t.tr ∧ onlyThread t.id s s'

/-- R279, R14, R15, R18: what an access checks first. A window other than the three traps BADWINDOW, then a bad scratchpad or pinned
address traps, then a misaligned one traps MISALIGN with its address. -/
def Obligations.AccessChecksInOrder : Prop :=
  (∀ (ag : Agent) (va : Word) (size align : Nat) (k : AccKind) (ho : Bool) (s : State),
    (window va ≠ 0 → window va ≠ 0xFE → window va ≠ 0xFD →
      checkAccess ag va size align k ho s = .trap s ⟨0x06, va, memInfo 0 k 1⟩) ∧
    (window va = 0xFD → bits va.toNat 55 25 ≠ 0 → checkAccess ag va size align k ho s = .trap s ⟨0x08, va, memInfo 0 k 0x0A⟩) ∧
    (window va = 0xFE → ag.team = none → checkAccess ag va size align k ho s = .trap s ⟨0x08, va, memInfo 0 k 0x0B⟩) ∧
    (window va = 0 → va.toNat % align ≠ 0 → checkAccess ag va size align k ho s = .trap s ⟨0x05, va, memInfo 0 k 0⟩)) ∧
  ∀ (s : State) (t t1 : Thread) (h : Hd) (r : RI) (sz : LdSize) (b : Word),
    RunsT s t h → ReadsT s t [r.xa.toNat] [b] t1 → FreeT s t [r.xd.toNat] → flagFull t.flags (flagOf t.line h) = false →
    window (b + r.imm.signExtend 64) = 0 → (b + r.imm.signExtend 64).toNat % sz.bytes ≠ 0 →
      exec (.ld h sz r) s = .next (trapped t.id ⟨0x05, b + r.imm.signExtend 64, memInfo 0 .load 0⟩ t.pc s)

/-- R71, R87, R289, R291, R292: `amo`, `cas` and `red`, with the source registers of each, in a thread, in each active lane and once
for the gang. Where the checks pass, the release is made and the agent's own bytes under the operand are performed, the operation
leaves for its unit with its destination empty and the head's flag up. One that acquires, and one that fills an s register, is made
at once where its unit is ready, and else waited for: the head ends once it has been performed. -/
def Obligations.Atomics : Prop :=
  (∀ h op sc ord sz8 r off, AtomicEffect (.amo h op sc ord sz8 r off) h r.g
    { op := op, cas := false, red := false, sc := sc, rel := ord == .rel || ord == .ar, acq := ord == .acq || ord == .ar,
      sz8 := sz8, off := off, xd := r.xd.toNat, srcs := [r.xa.toNat, r.xb.toNat] }) ∧
  (∀ h sc ord sz8 r xc off, AtomicEffect (.cas h sc ord sz8 r xc off) h r.g
    { op := .swap, cas := true, red := false, sc := sc, rel := ord == .rel || ord == .ar, acq := ord == .acq || ord == .ar,
      sz8 := sz8, off := off, xd := r.xd.toNat, srcs := [r.xa.toNat, r.xb.toNat, xc.toNat] }) ∧
  ∀ h op sc rel sz8 xa xb g off, AtomicEffect (.red h op sc rel sz8 xa xb g off) h g
    { op := op, cas := false, red := true, sc := sc, rel := rel, acq := false, sz8 := sz8, off := off, xd := 0,
      srcs := [xa.toNat, xb.toNat] }

/-- R87, R290, R291: an atomic at its unit reads and writes as one: the new value of its operation is left there, the value that was
there is returned, a compare-and-swap writes only where the value is the expected one, and no other byte changes. -/
def Obligations.AtomicAtItsUnit : Prop :=
  ∀ (s : State) (c : CtxId) (e : AmoElt), s.storesOk = true → s.errs = [] →
    ∀ n old b, n = (if e.sz8 then 8 else 4) → old = leNat (readSpace s e.acc.space e.acc.addr n) →
      b = e.operand.toNat % 2 ^ (8 * n) →
      onlyBytes e.acc.space e.acc.addr n s (performAmo c e s).1 ∧
      (e.cmp = none →
        (e.op ≠ .fadd → e.op ≠ .fmin → e.op ≠ .fmax →
          leNat (readSpace (performAmo c e s).1 e.acc.space e.acc.addr n) = atomicGives e.op e.sz8 old b) ∧
        readSpace (performAmo c e s).1 e.acc.space e.acc.addr n = toBytes n (atomicGives e.op e.sz8 old b) ∧
        (e.op ≠ .minI → e.op ≠ .maxI → (performAmo c e s).2 = BitVec.ofNat 64 old)) ∧
      ∀ x, e.cmp = some x →
        (performAmo c e s).2 = BitVec.ofNat 64 old ∧
        leNat (readSpace (performAmo c e s).1 e.acc.space e.acc.addr n) = if old = x.toNat % 2 ^ (8 * n) then b else old

/-- R92, R294, R295, R296: `fence` waits for the copies of letter c and the matrix operations of letter m, makes the release of its
scope for letter s and the acquire for a successor letter l; `watch` arms a monitor that fills xd with 1 when its sector is
written, and `unwatch` fills it with 0 instead. -/
def Obligations.FencesAndMonitors : Prop :=
  ∀ (s : State) (h : Hd),
    (∀ t sc pred succ s2, RunsT s t h → (pred.c = true → s.copying t.id = false) →
      (s.opsAwait t.id fun o => (pred.l && o.kind.isLoad) || (succ.l && o.rel)) = none →
      (if pred.s then releaseThread t.id sc (if pred.l then settleLoads t.id s else s)
        else .ok (if pred.l then settleLoads t.id s else s)) = .ok s2 →
      exec (.fence h sc pred succ) s = .next (doneT t.id (if succ.l then acquire t.id sc s2 else s2))) ∧
    (∀ g sc pred succ s2, RunsG s g → g.active h ≠ [] → (pred.c = true → s.copying g.id = false) →
      (pred.m = true → g.matBusy = false) →
      (s.opsAwait g.id fun o => (pred.l && o.kind.isLoad) || (succ.l && o.rel)) = none →
      (if pred.s then releaseGang g.id sc (if pred.l then settleLoads g.id s else s)
        else .ok (if pred.l then settleLoads g.id s else s)) = .ok s2 →
      exec (.fence h sc pred succ) s = .next (doneG g.id (if succ.l then acquire g.id sc s2 else s2))) ∧
    ∀ (t : Thread), RunsT s t h →
      (∀ r t1 b s1 a lv, ReadsT s t [r.xa.toNat] [b] t1 → FreeT s t [r.xd.toNat] →
        checkAccess t.agent (b + r.imm.signExtend 64) 1 1 .load true s = .ok s1 a lv →
        (t.monitors.length < 4 → watchable a = true → exec (.watch h r) s = .next (doneT t.id
          (((keepQueue t.id t1 s1).markEmpty t.id (t.dst r.xd.toNat)).updThread t.id fun u =>
            { u with monitors := u.monitors ++ [⟨a.space, a.addr / 32, t.dst r.xd.toNat⟩] }))) ∧
        ((4 ≤ t.monitors.length ∨ watchable a = false) →
          exec (.watch h r) s = .next (doneT t.id ((keepQueue t.id t1 s1).putDst t.id (t.dst r.xd.toNat) 0)))) ∧
      ∀ xd, s.pushBlocked t [xd.toNat] = false →
        ((∀ m ∈ t.monitors, m.dst ≠ t.dst xd.toNat) → exec (.unwatch h xd) s = .next (doneT t.id s)) ∧
        ((∃ m ∈ t.monitors, m.dst = t.dst xd.toNat) → exec (.unwatch h xd) s = .next (doneT t.id
          ((s.updThread t.id fun u => { u with monitors := u.monitors.filter fun m => m.dst != t.dst xd.toNat }).putDst t.id
            (t.dst xd.toNat) 0)))

/-! ## Copies, messages, folios -/

/-- R297 to R300: `cpy` and `cpyg`, by a thread, and by a gang with G = 1; `chset` and `chwm`; a channel number of 16 or more, which no
team has, traps COPY_BOUNDS. -/
def Obligations.CopiesAndChannels : Prop :=
  ((∀ h v f ch r, CopyEffect (.cpy h v f ch r) h false none v f ch r) ∧
  ∀ h esz v f ch r, CopyEffect (.cpyg h esz v f ch r) h true (Esz.bytes esz) v f ch r) ∧
  (∀ h ch xa g, ChsetEffect (.chsetFill h ch xa g) h ch xa g fun v c => { c with fill := v }) ∧
  (∀ h ch xa g, ChsetEffect (.chsetTable h ch xa g) h ch xa g fun v c => { c with table := v }) ∧
  (∀ h ch xa g, ChsetEffect (.chsetNsrc h ch xa g) h ch xa g fun v c => { c with nsrc := v.toNat % 2 ^ 32 }) ∧
  (∀ h ch xa loc g, ChsetEffect (.chsetFolio h ch xa loc g) h ch xa g fun v c => { c with folio := v, loc := loc.toNat }) ∧
  (∀ h xd ch g, ChwmEffect (.chwm h xd ch g) h xd ch g fun c => BitVec.ofNat 64 c.wm) ∧
  (∀ h xd ch g, ChwmEffect (.chwmSt h xd ch g) h xd ch g Channel.stat) ∧
  ∀ (s : State) (i : TeamId) (n : Nat), 16 ≤ n → s.chan? i n = none

/-- R301 to R305: `send` from a message or a capability whose checks pass: its release, then the message is on its way with its
payload, folio, location and sender, and the sender waits for its acceptance. `done` ends the handler: the next message in
order starts it again, or the thread becomes IDLEMSG. `bind` binds a class to the thread, which becomes IDLEMSG. -/
def Obligations.Messages : Prop :=
  ∀ (s : State) (t : Thread) (h : Hd), RunsT s t h →
    (∀ e n xd xa vs t1 loc f q s1, ReadsT s t (sendRegs n xd xa) vs t1 →
      sendPoint (illegalOp t.pc t.line rVariant) t.msg t.caps e.toNat (vs.getD 0 0) = .ok (loc, f) →
      sendFrom s t.agent e.toNat loc f (vs.getD 1 0) (vs.drop 2) = .ok q →
      s.room t.part [q.pt] = true → releaseThread t.id q.dest.scope (settleLoads t.id s) = .ok s1 →
      s1.overLimit t.part [] [(0, q.pt)] = [] →
        ∃ s' m, exec (.send h e n xd xa) s = .next s' ∧ s'.msgs = s1.msgs ++ [m] ∧ m.payload = vs.drop 2 ∧
          m.folio = q.pt.folio ∧ m.loc = BitVec.ofNat 64 q.pt.loc ∧ m.sender = t.id.word ∧ m.cls = q.cls ∧ m.pt = some q.pt ∧
          m.heldAt = some t.id ∧ s'.mem = s1.mem ∧ ∀ u, s1.thread? t.id = some u →
            ∃ u', s'.thread? t.id = some u' ∧ u'.state = .parked .accept ∧ u'.pc = u.pc ∧ u'.x = u.x) ∧
    (t.msg = none → exec (.done h) s = .next (trapped t.id (illegalOp t.pc t.line rVariant) t.pc s)) ∧
    (∀ m s1 u, t.msg = some m → m.gang = none → s.copying t.id = false →
      releaseThread t.id (msgScope s t.part m) (settleLoads t.id s) = .ok s1 → s1.thread? t.id = some u → u.unacked = 0 →
        exec (.done h) s = .next (nextMessage t.id
          ((retireMsg t.id.cluster t.id.tile m s1).updThread t.id fun u => { u with issued := u.issued + 1 }))) ∧
    (∀ u : Thread, (u.inbox = [] → u.takeNext.state = .idleMsg ∧ u.takeNext.msg = none) ∧
      ∀ m ms, u.inbox = m :: ms → u.takeNext.state = .ready ∧ u.takeNext.msg = some m ∧ u.takeNext.pc = u.entry ∧
        u.takeNext.inbox = ms ++ u.spillbox.take 1 ∧ u.takeNext.depth = 0 ∧
        (∀ i, 8 ≤ i → i < 16 → u.takeNext.getX i = ⟨m.payload.getD (i - 8) 0, true⟩) ∧
        u.takeNext.getX 16 = ⟨m.folio, true⟩ ∧ u.takeNext.getX 17 = ⟨m.loc, true⟩ ∧
        u.takeNext.getX 18 = ⟨m.sender, true⟩ ∧ u.takeNext.getX 19 = ⟨m.senderTeam, true⟩ ∧
        ∀ i, 20 ≤ i → i < 32 → u.takeNext.getX i = ⟨0, true⟩) ∧
    ∀ cls xa v t1, ReadsT s t [xa.toNat] [v] t1 →
      (bindRefused s t cls.toNat = true →
        exec (.bind h cls xa) s = .next (trapped t.id (illegalOp t.pc t.line rVariant) t.pc s)) ∧
      ∀ s1, bindRefused s t cls.toNat = false → releaseThread t.id .tm (settleLoads t.id s) = .ok s1 →
        exec (.bind h cls xa) s = .next (teamCheck t.team (nextMessage t.id
          ((s1.updTeam t.team fun x => { x with binds := x.binds ++ [⟨cls.toNat, t.id, v⟩] }).updThread t.id fun u =>
            { u with cls := some cls.toNat, entry := v, issued := u.issued + 1, recvq := t1.recvq,
                     keepsTeam := u.keepsTeam && cls != 15 })))

/-- R306, R123, R124: `fenter` adds a counter to a folio and `fleave` takes the innermost away, with the traps of a malformed
folio, a depth out of range and a counter that does not fit; leaving undoes entering. -/
def Obligations.FolioEnterLeave : Prop :=
  (∀ h r, FolioEffect (.fenter h r) h r.g r.xa r.xd (enterFolio r.imm.toNat)) ∧
  (∀ h r, FolioEffect (.fleave h r) h r.g r.xa r.xd leaveFolio) ∧
  ∀ (f g : Word) (v : Nat),
    (folioOk f = false → enterFolio v f = .error (folioRange f 0 0 0x22) ∧ leaveFolio f = .error (folioRange f 0 0 0x22)) ∧
    (folioOk f = true → folioDepth f = 3 → enterFolio v f = .error (folioRange f 0 0 0x21)) ∧
    (folioOk f = true → folioDepth f = 0 → leaveFolio f = .error (folioRange f 0 0 0x21)) ∧
    (enterFolio v f = .ok g → leaveFolio g = .ok f ∧ folioDepth g = folioDepth f + 1 ∧ folioOk g = true)

/-- R307: `fhold`, `finc` and `fdrop` of a thread: a held capability is counted with +1 at its count point and takes the lowest free
handle; `finc` sends +1 at the new folio and, once it is acknowledged, −1 at the old one; `fdrop` retires the count after the
release. -/
def Obligations.Capabilities : Prop :=
  ∀ (s : State) (t t1 : Thread) (h : Hd), RunsT s t h →
    (∀ xd xa loc f, ReadsT s t [xa.toNat] [f] t1 →
      (∀ ti, holdCheck s t.agent t.caps loc.toNat f = .trap ti →
        exec (.fhold h xd xa loc) s = .next (trapped t.id ti t.pc s)) ∧
      ∀ pt k, holdCheck s t.agent t.caps loc.toNat f = .ok pt k → s.overLimit t.part [] [(0, pt)] = [] →
        s.room t.part [pt] = true → FreeT s t [xd.toNat] → exec (.fhold h xd xa loc) s = .next (doneT t.id (writeX t.id xd.toNat (BitVec.ofNat 64 k)
          ((s.addChange t.id.cluster t.id.tile pt 1 [t.id]).updThread t.id fun u =>
            { u with caps := u.caps ++ [⟨k, pt, none⟩], recvq := t1.recvq })))) ∧
    (∀ caps k, freeHandle caps = some k → 1 ≤ k ∧ k ≤ 8 ∧ (∀ c ∈ caps, c.handle ≠ k) ∧
      ∀ j, 1 ≤ j → j < k → ∃ c ∈ caps, c.handle = j) ∧
    (∀ xa xb hv g pt k x, ReadsT s t [xa.toNat, xb.toNat] [hv, g] t1 → incCheck s t.agent t.caps hv g = .ok pt k →
      (t.caps.find? fun x => x.handle == k) = some x →
      (∀ s1, x.moving = none → s.overLimit t.part [] [(0, { x.pt with folio := g })] = [] →
        s.room t.part [{ x.pt with folio := g }] = true → s.copying t.id = false → capRelease t.id t.part [x.pt.loc] s = .ok s1 →
        exec (.finc h xa xb) s = .next
          (((s1.addChange t.id.cluster t.id.tile { x.pt with folio := g } 1 [t.id]).updThread t.id fun u =>
            { u with caps := u.caps.map fun y => if y.handle = k then { y with moving := some g } else y }).updThread t.id
              fun u => { u with state := .parked .retry })) ∧
      ∀ g1, x.moving = some g1 → t.unacked = 0 →
        exec (.finc h xa xb) s = .next (doneT t.id
          ((s.addChange t.id.cluster t.id.tile x.pt (-1) []).updThread t.id fun u =>
            { u with recvq := t1.recvq, caps := u.caps.map fun y =>
              if y.handle = k then { y with pt := { y.pt with folio := g1 }, moving := none } else y }))) ∧
    ∀ xa hv, ReadsT s t [xa.toNat] [hv] t1 →
      ((∀ k ∈ t.caps, BitVec.ofNat 64 k.handle ≠ hv) →
        exec (.fdrop h xa) s = .next (trapped t.id (folioRange hv 0 0 0x24) t.pc s)) ∧
      ∀ pt k s1 u, dropCheck t.caps hv = .ok pt k → s.copying t.id = false →
        capRelease t.id t.part [pt.loc] s = .ok s1 → s1.thread? t.id = some u → u.unacked = 0 →
          exec (.fdrop h xa) s = .next (doneT t.id
            ((s1.addChange t.id.cluster t.id.tile pt (-1) []).updThread t.id fun u =>
              { u with caps := u.caps.filter fun x => x.handle != k, recvq := t1.recvq }))

/-- R308, R309: `fwait` goes on, with an acquire at the location's scope, once the closure is announced, and at once where nothing
was ever counted; until then it waits. `fprobe` gives the announced frontier, `fprobe.info` the location's descriptor. -/
def Obligations.FolioWaitProbe : Prop :=
  ∀ (s : State) (t t1 : Thread) (h : Hd), RunsT s t h →
    (∀ xa loc gb f, ReadsT s t [xa.toNat] [f] t1 →
      (∀ sc, waitCheck s t.agent loc.toNat f = .closed sc → s.relAwait t.id = none →
        exec (.fwait h xa loc gb) s = .next (doneT t.id (acquire t.id sc (settleLoads t.id (keepQueue t.id t1 s))))) ∧
      (waitCheck s t.agent loc.toNat f = .free → exec (.fwait h xa loc gb) s = .next (doneT t.id (keepQueue t.id t1 s))) ∧
      (waitCheck s t.agent loc.toNat f = .wait →
        exec (.fwait h xa loc gb) s = .next (s.updThread t.id fun u => { u with state := .parked .retry })) ∧
      ∀ ti, waitCheck s t.agent loc.toNat f = .trap ti →
        exec (.fwait h xa loc gb) s = .next (trapped t.id ti t.pc s)) ∧
    ∀ xd loc gb, FreeT s t [xd.toNat] →
      exec (.fprobe h xd loc gb) s =
        .next (doneT t.id (writeX t.id xd.toNat (probeFrontier s t.agent loc.toNat) (s.setThread t))) ∧
      exec (.fprobeInfo h xd loc gb) s =
        .next (doneT t.id (writeX t.id xd.toNat (probeInfo s t.agent loc.toNat) (s.setThread t)))

/-- R310, R311, R170, R46: a `gcall` reads the header of its target, keeps its arguments, releases at .cl and joins the galley; a bad
header traps. `gret` releases at .cl, gives each active lane's x8 to x15 to its caller's x24 to x31, whose `gcall` then ends, and
ends the lanes. -/
def Obligations.GalleyCallsAndReturns : Prop :=
  (∀ (s s1 : State) (t t1 : Thread) (h : Hd) (i : Instr) (target : Word) (b : List Byte), RunsT s t h →
    ((∃ tg, i = .gcallLabel h tg ∧ target = Target.pc tg t.pc ∧ t1 = t) ∨
      ∃ xa, i = .gcallReg h xa ∧ t.readX xa.toNat = some (target, t1) ∧ s.regErr t.id [t.dst xa.toNat] = none) →
    fetchBytes t.id t.part t.ptbase (BitVec.ofNat 64 (target.toNat / 64 * 64) - 64) s = .ok s1 b →
    ((target.toNat % 64 ≠ (headerOf b).entry ∨ headerValid b = false ∨ (headerOf b).kind ≠ 2 ∨
        leafTooBig s1 t (headerOf b) = true) →
      exec i s = .next (trapped t.id (badHeader t.pc target t.line) t.pc s1)) ∧
    ∀ vs t2 s2, target.toNat % 64 = (headerOf b).entry → headerValid b = true → (headerOf b).kind = 2 →
      leafTooBig s1 t (headerOf b) = false → t.readXs [24, 25, 26, 27, 28, 29, 30, 31] = some (vs, t2) →
      s1.regErr t.id ([24, 25, 26, 27, 28, 29, 30, 31].map t.dst) = none →
      releaseThread t.id .cl (settleLoads t.id s1) = .ok s2 →
        exec i s = .next (arriveGalley
          ⟨t.part, t.id.cluster, target, t.ptbase, headerOf b, t.id⟩
          ((([24, 25, 26, 27, 28, 29, 30, 31].map t.dst).foldl (fun s d => s.markEmpty t.id d) s2).updThread t.id fun u =>
            { u with args := vs, recvq := t1.recvq, state := .parked .gcall }))) ∧
  (∀ (s s1 : State) (g : Gang) (h : Hd) (rows : List (Nat × List Word)), RunsG s g → g.galley = true → g.active h ≠ [] →
    (g.active h).mapM (fun l => (g.readXs [8, 9, 10, 11, 12, 13, 14, 15] l).map fun vs => (l, vs)) = some rows →
    (∀ l ∈ g.active h, s.regErr g.id ([8, 9, 10, 11, 12, 13, 14, 15].map fun r => xDst r l) = none) →
    releaseGang g.id .cl (settleLoads g.id s) = .ok s1 →
      exec (.gret h) s = .next (endGalleyLanes g (rows.map (·.1))
        (rows.foldl (fun s r => match g.callers[r.1]?.join with | none => s | some k => returnTo k r.2 s) s1))) ∧
  ∀ (s : State) (k : CtxId) (t : Thread) (vs : List Word), s.thread? k = some t → t.id = k → t.state = .parked .gcall →
    s.errs = [] → (∀ o ∈ s.ops, o.owner = k → o.rel = false) →
      ∃ u, (returnTo k vs s).thread? k = some u ∧ u.state = .ready ∧ u.pc = nextPc t.pc t.line ∧
        (∀ i, i < 8 → u.getX (24 + i) = ⟨vs.getD i 0, true⟩) ∧ (∀ r, r < 24 → u.getX r = t.getX r) ∧
        u.preds = t.preds ∧ u.tr = t.tr ∧ (returnTo k vs s).mem = s.mem

/-- R312 to R316, R39, R242: the privileged instructions trap PRIV in a thread that is not privileged and on a wide core. Else
`tlbinv` releases and its invalidation is on its way; `scrub` gives 1 and has no effect while a team of the partition stands on a
named tile, and otherwise clears the classes and gives 0; `ipi` gives 1 where no thread of the partition has that CTXID, and
otherwise wakes it from its sleep, or leaves it the signal, and gives 0; `fgraph` puts a walk in progress. -/
def Obligations.PrivilegedInstructions : Prop :=
  (∀ h xd xa asid, TlbinvEffect (.tlbinvPg h xd xa asid) h xd [xa] fun vs => .page asid.toNat (vs.getD 0 0)) ∧
  (∀ h xd asid, TlbinvEffect (.tlbinvAs h xd asid) h xd [] fun _ => .asid asid.toNat) ∧
  (∀ h xd, TlbinvEffect (.tlbinvAll h xd) h xd [] fun _ => .all) ∧
  (∀ h xd xa classes, PrivResultEffect (.scrub h xd xa classes) h xd [xa] fun t vs s =>
    if s.teams.any fun x => x.part == t.part && x.home == t.id.cluster && decide (x.tile < 64) &&
        bitAt (vs.getD 0 0).toNat x.tile && (x.state == .running || x.state == .draining || x.state == .saved) then (s, 1)
    else (scrubClasses t.part t.id.cluster ((List.range 64).filter fun i => bitAt (vs.getD 0 0).toNat i) classes.toNat s, 0)) ∧
  (∀ h xd xa, PrivResultEffect (.ipi h xd xa) h xd [xa] fun t vs s =>
    match s.threads.find? fun u => u.id.onDevice && u.id.word == vs.getD 0 0 && u.part == t.part with
    | none => (s, 1)
    | some u => (s.updThread u.id fun u => match u.state with
        | .sleeping _ => { u with state := .ready }
        | _ => { u with ipiPending := true }, 0)) ∧
  (∀ h xd xa, FgraphEffect (.fgraphIns h xd xa) h xd xa 0) ∧
  (∀ h xd xa, FgraphEffect (.fgraphExt h xd xa) h xd xa 1) ∧
  ∀ h xd n, PrivTraps (.fgraphDel h xd n) h xd [] ∧
    ∀ (s : State) (t t1 : Thread), PrivReady s t h xd [] [] t1 → (s.part? t.part).elim false (·.walk.isSome) = false →
      (∀ s1, releaseThread t.id .dv (keepQueue t.id t1 s) = .ok s1 →
        exec (.fgraphDel h xd n) s = .next (resultDue t xd .graph (startWalk t.part 2 n.toNat [] (.instr s1.nextId) s1))) ∧
      (NothingToRelease s t → ∃ s1, s1.mem = s.mem ∧ s1.parts = s.parts ∧
        exec (.fgraphDel h xd n) s = .next (resultDue t xd .graph (startWalk t.part 2 n.toNat [] (.instr s1.nextId) s1)))

/-- R314: `ctxsave` gives 0 where the named team is not RUNNING; else the team, with those that go with it, is saved, its image
stands at xb, and the number of bytes is on its way to xd; while a gang of them cannot be saved yet, they are asked to stop and the
instruction waits. `ctxrest` gives 1 where the bytes are no saved image, 2 where its launch has ended, and otherwise sends the team
back to the device. -/
def Obligations.ContextSaveRestore : Prop :=
  (∀ h xd xa xb, PrivTraps (.ctxsave h xd xa xb) h xd [xa, xb] ∧
    ∀ (s : State) (t t1 : Thread) (va vb : Word), PrivReady s t h xd [xa, xb] [va, vb] t1 → imageCheck [va, vb] = none →
      ∀ s1 as, imagePagesAt t.agent .store (pageVas vb ((Config.imagePages s.nextId).toNat + 1))
          { keepQueue t.id t1 s with preReqs := s.preReqs.filter fun r => r.team.all fun x => x.2 != t.id } = .ok s1 as →
        ((s1.namedTeam t.part (bits va.toNat 31 16) (bits va.toNat 15 0)).all (fun tm => tm.state != .running) = true →
          exec (.ctxsave h xd xa xb) s = .next (resultDue t xd (fun d => .fills [(d, 0)]) s1)) ∧
        ∀ tm, s1.namedTeam t.part (bits va.toNat 31 16) (bits va.toNat 15 0) = some tm → tm.state = .running →
          ((s1.saveGroup tm).all s1.savable = true →
            exec (.ctxsave h xd xa xb) s = .next (saveAll true tm.id (some (vb, imageBytes s.nextId)) (s1.saveGroup tm)
              (writeImage as (imageBytes s.nextId) (resultDue t xd (fun d => .fills
                [(d, BitVec.ofNat 64 (4096 * ((Config.imagePages s.nextId).toNat + 1)))]) s1)))) ∧
          ((s1.saveGroup tm).all s1.savable = false →
            exec (.ctxsave h xd xa xb) s = .next ((({ s1.askSaves (s1.saveGroup tm) with
              preReqs := s1.preReqs ++ [⟨t.part, [], none, some (tm.id, t.id), true⟩] } : State).updThread t.id fun u =>
                { u with recvq := t.recvq }).updThread t.id fun u => { u with state := .parked .retry }))) ∧
  ∀ h xd xa, PrivTraps (.ctxrest h xd xa) h xd [xa] ∧
    ∀ (s : State) (t t1 : Thread) (va : Word), PrivReady s t h xd [xa] [va] t1 →
      ∀ s1 as, imagePagesAt t.agent .load [BitVec.ofNat 64 (va.toNat / 4096 * 4096)] (keepQueue t.id t1 s) = .ok s1 as →
        (s1.imageAt t.part (readImage t.agent va s1) va = none →
          exec (.ctxrest h xd xa) s = .next (resultDue t xd (fun d => .fills [(d, 1)]) s1)) ∧
        ∀ v, s1.imageAt t.part (readImage t.agent va s1) va = some v →
          ((s1.launch? v.id.launch).all (fun l => l.state == .ended) = true →
            exec (.ctxrest h xd xa) s = .next (resultDue t xd (fun d => .fills [(d, 2)]) s1)) ∧
          ((s1.launch? v.id.launch).all (fun l => l.state == .ended) = false →
            exec (.ctxrest h xd xa) s = .next (resultDue t xd (fun d => .restore v.id d) s1))

/-! ## Vector instructions -/

/-- R323 to R328: the element instructions: integer results wrap, or saturate with .sat; a floating result is one rounding of the
exact value; the divisions and square roots are late. -/
def Obligations.VectorElements : Prop :=
  (∀ h r, Elementwise (.vadd h r) h r.ty (stepsRs r.ty r.rm) r.vd [r.va, r.vb]
    (arith r.ty r.rm r.sat (fun v => iv v 0 + iv v 1) fun v => exactAdd r.rm (fv v 0) (fv v 1))) ∧
  (∀ h r, Elementwise (.vsub h r) h r.ty (stepsRs r.ty r.rm) r.vd [r.va, r.vb]
    (arith r.ty r.rm r.sat (fun v => iv v 0 - iv v 1) fun v => exactAdd r.rm (fv v 0) (fv v 1).neg)) ∧
  (∀ h r, Elementwise (.vmul h r) h r.ty (stepsRs r.ty r.rm) r.vd [r.va, r.vb]
    (arith r.ty r.rm r.sat (fun v => iv v 0 * iv v 1) fun v => exactMul (fv v 0) (fv v 1))) ∧
  (∀ h neg r vc, Elementwise (.vfma h neg r vc) h r.ty (stepsRs r.ty r.rm) r.vd [r.va, r.vb, vc]
    (arith r.ty r.rm r.sat (fun v => (if neg then -(iv v 0 * iv v 1) else iv v 0 * iv v 1) + iv v 2)
      fun v => exactFma r.rm neg (fv v 0) (fv v 1) (fv v 2))) ∧
  (∀ h ty r, Elementwise (.vmin h ty r) h ty false r.vd [r.va, r.vb] fun c _ => minMax ty false (c.getD 0 0) (c.getD 1 0)) ∧
  (∀ h ty r, Elementwise (.vmax h ty r) h ty false r.vd [r.va, r.vb] fun c _ => minMax ty true (c.getD 0 0) (c.getD 1 0)) ∧
  (∀ h ty r, Elementwise (.vmulh h ty r) h ty false r.vd [r.va, r.vb] fun c _ =>
    wrapInt (etyWidth ty) (intOp ty (c.getD 0 0) * intOp ty (c.getD 1 0) / 2 ^ etyWidth ty)) ∧
  (∀ h ty rm rem r, LateElements (.vdiv h ty rm rem r) h ty (stepsRs ty rm) r.vd [r.va, r.vb] fun c rnd =>
    match etyFF ty with
    | none => if rem then (intDivRem ty (c.getD 0 0) (c.getD 1 0)).2 else (intDivRem ty (c.getD 0 0) (c.getD 1 0)).1
    | some x => roundTo x rm false (exactDiv (x.decode (c.getD 0 0)) (x.decode (c.getD 1 0))) rnd) ∧
  (∀ h ty rm vd va, LateElements (.vsqrt h ty rm vd va) h ty (stepsRs ty rm) vd [va] fun c rnd =>
    match etyFF ty with
    | none => 0
    | some x => roundTo x rm false (exactSqrt (x.decode (c.getD 0 0))) rnd) ∧
  (∀ (i : Hd → Ety → Rnd → VReg → VReg → Instr) (f : FVal → Exact),
    (i = .vrcp ∧ f = exactRcp ∨ i = .vrsq ∧ f = exactRsq ∨ i = .vexp2 ∧ f = exactExp2 ∨ i = .vlog2 ∧ f = exactLog2) →
    ∀ h ty rm vd va, Elementwise (i h ty rm vd va) h ty (stepsRs ty rm) vd [va] fun c rnd =>
      match etyFF ty with
      | none => 0
      | some x => if ty == .f32 then roundEst (f (x.decode (c.getD 0 0)))
        else roundTo x rm false (f (x.decode (c.getD 0 0))) rnd) ∧
  (∀ (i : Hd → Ety → V3 → Instr) (f : Bool → Bool → Bool),
    (i = .vsgnCp ∧ (f = fun _ b => b) ∨ i = .vsgnNcp ∧ (f = fun _ b => !b) ∨ i = .vsgnXor ∧ (f = fun a b => a != b)) →
    ∀ h ty r x, etyFF ty = some x → Elementwise (i h ty r) h ty false r.vd [r.va, r.vb] fun c _ =>
      setSign x (c.getD 0 0) (f (x.neg (c.getD 0 0)) (x.neg (c.getD 1 0)))) ∧
  (∀ h ty vd va x, etyFF ty = some x →
    (Elementwise (.vsgnAbs h ty vd va) h ty false vd [va] fun c _ => setSign x (c.getD 0 0) false) ∧
    Elementwise (.vsgnNeg h ty vd va) h ty false vd [va] fun c _ => setSign x (c.getD 0 0) (!x.neg (c.getD 0 0))) ∧
  (∀ h r, Elementwise (.vand h r) h .n32 false r.vd [r.va, r.vb] fun c _ => Nat.land (c.getD 0 0) (c.getD 1 0)) ∧
  (∀ h r, Elementwise (.vor h r) h .n32 false r.vd [r.va, r.vb] fun c _ => Nat.lor (c.getD 0 0) (c.getD 1 0)) ∧
  (∀ h r, Elementwise (.vxor h r) h .n32 false r.vd [r.va, r.vb] fun c _ => Nat.xor (c.getD 0 0) (c.getD 1 0)) ∧
  (∀ h r, Elementwise (.vandn h r) h .n32 false r.vd [r.va, r.vb] fun c _ =>
    Nat.land (c.getD 0 0) (2 ^ 32 - 1 - c.getD 1 0)) ∧
  (∃ pop clz : Nat → Nat → Nat,
    (∀ h vd va, Elementwise (.vpopc h vd va) h .n32 false vd [va] fun c _ => pop (c.getD 0 0) 32) ∧
    (∀ h ty vd va, Elementwise (.vclz h ty vd va) h ty false vd [va] fun c _ => clz (c.getD 0 0) (etyWidth ty)) ∧
    (∀ a, a < 2 ^ 32 → pop a 32 = (BitVec.ofNat 32 a).cpop.toNat) ∧
    ∀ w a, 0 < w → w ≤ 64 → a < 2 ^ w → clz a w = (BitVec.ofNat w a).clz.toNat) ∧
  (∀ h n64 vd va, Elementwise (.vmov h n64 vd va) h (if n64 then .n64 else .n32) false vd [va] fun c _ => c.getD 0 0) ∧
  ∀ (i : Hd → Ety → VReg → VReg → VAmt → Instr) (f : Ety → Nat → Nat → Nat),
    (i = .vshl ∧ (f = fun ty a n => a * 2 ^ n % 2 ^ etyWidth ty) ∨ i = .vshr ∧ (f = fun _ a n => a / 2 ^ n) ∨
      i = .vsar ∧ (f = fun ty a n => wrapInt (etyWidth ty) (intVal (etyWidth ty) true a / 2 ^ n))) →
    ∀ h ty vd va,
      (∀ vb, Elementwise (i h ty vd va (.reg vb)) h ty false vd [va, vb] fun c _ =>
        f ty (c.getD 0 0) (min (etyWidth ty) (c.getD 1 0))) ∧
      ∀ n, Elementwise (i h ty vd va (.imm n)) h ty false vd [va] fun c _ => f ty (c.getD 0 0) (min (etyWidth ty) n.toNat)

/-- R329 to R336: comparisons, selection, conversion, packing, lookup and dot products. -/
def Obligations.VectorFormats : Prop :=
  (∀ h ty c k pd va vb, VecEffect (.vcmp h ty c k pd va vb) h (opsOk ty.is64 [va, vb])
    (fun _ l => opReads ty.is64 (vnums [va, vb]) l) (fun _ _ => []) fun g act => act.foldl (fun g1 l =>
      g1.setPred pd.toNat l (Comb.gives k (g.pred pd.toNat l)
        (elemCond ty c (etyPart ty (g.getE ty.is64 va.toNat l) 0) (etyPart ty (g.getE ty.is64 vb.toNat l) 0)))) g) ∧
  (∀ h n64 r pc, LaneValues (.vsel h n64 r pc) h n64 r.vd (opsOk n64 [r.vd, r.va, r.vb])
    (fun _ l => opReads n64 (vnums [r.va, r.vb]) l) fun g l seed =>
      (if g.pred pc.toNat l then g.getE n64 r.va.toNat l else g.getE n64 r.vb.toNat l, seed)) ∧
  (∀ h dst src rm sat vd va, LaneValues (.vcvt h dst src rm sat vd va) h dst.is64 vd
    (fun g => g.okOp dst.is64 vd.toNat && g.okOp (xfmtPair src) va.toNat) (fun _ l => opReads (xfmtPair src) [va.toNat] l)
    fun g l seed =>
      (etyJoin dst [convert (etyXfmt dst) src rm sat (g.getE (xfmtPair src) va.toNat l)
        (if rm == .rs && !(dst.isInt && src.isInt) then srStep seed else seed)],
        if rm == .rs && !(dst.isInt && src.isInt) then srStep seed else seed)) ∧
  (∀ h f ty rm sat r s g, VecReady s g h
      ((g.okOp false r.vd.toNat && ((List.range (pfmtParts f)).all fun n => g.okOp false (r.va.toNat + n))) &&
        (!(f.takesScale && r.vb != 0) || g.okOp false r.vb.toNat))
      (fun l => ((List.range (pfmtParts f)).map fun n => (r.va.toNat + n, l)) ++
        if f.takesScale && r.vb != 0 then [(r.vb.toNat, l)] else [])
      ((g.active h).map fun l => Dst.v r.vd.toNat l) →
    exec (.vpack h f ty rm sat r) s = .next (doneG g.id (s.setGang (lanesRun false r.vd.toNat (fun g l seed =>
      packParts f (wtyX ty) rm sat (rm == .rs && !(f.isInt && ty != .f32))
        (if f.takesScale && r.vb != 0 then g.getE false r.vb.toNat l % 256 else 127)
        ((List.range (pfmtParts f)).map fun n => g.getE false (r.va.toNat + n) l) 0 seed) g (g.active h))))) ∧
  (∀ h f ty rm sat vd va s g, VecReady s g h
      (g.okOp false va.toNat && (List.range (pfmtParts f)).all fun n => g.okOp false (vd.toNat + n))
      (fun l => [(va.toNat, l)]) ((g.active h).flatMap fun l => (List.range (pfmtParts f)).map fun n => Dst.v (vd.toNat + n) l) →
    ∃ g1 seed, exec (.vunpk h f ty rm sat vd va) s = .next (doneG g.id (s.setGang { g1 with srseed := seed })) ∧
      (g1, seed) = (g.active h).foldl (fun a l => unpackLane f (wtyX ty) rm sat (rm == .rs && !f.isInt && ty != .f32) vd.toNat l
        (g.getE false va.toNat l) (pfmtParts f) 0 a) (g, g.srseed)) ∧
  (∀ h vd va, VecEffect (.vlutL4 h vd va) h
    (fun g => g.okOp false vd.toNat && g.okOp false (vd.toNat + 1) && g.okOp false va.toNat) (fun _ l => [(va.toNat, l)])
    (fun _ act => act.flatMap fun l => [(vd.toNat, l), (vd.toNat + 1, l)]) fun g act => act.foldl (fun g1 l =>
      (g1.setE false vd.toNat l (l4Bytes g.lutlo g.luthi (g.getE false va.toNat l) 0)).setE false (vd.toNat + 1) l
        (l4Bytes g.lutlo g.luthi (g.getE false va.toNat l) 4)) g) ∧
  (∀ h r s g, VecReady s g h
      (g.okOp false r.vd.toNat && g.okOp false r.va.toNat && (List.range 16).all fun n => g.okOp false (r.vb.toNat + n))
      (fun l => (r.va.toNat, l) :: (List.range 16).map fun n => (r.vb.toNat + n, l))
      ((g.active h).map fun l => Dst.v r.vd.toNat l) →
    exec (.vlutTab h r) s = .next (doneG g.id (s.setGang (lanesRun false r.vd.toNat (fun g l seed =>
      ((List.range 4).foldl (fun a j =>
        a + tabByte g r.vb.toNat l (g.getE false r.va.toNat l / 2 ^ (8 * j) % 256) * 2 ^ (8 * j)) 0, seed)) g
        (g.active h))))) ∧
  ∀ h r vc, LaneValues (.vdot h r vc) h false r.vd (opsOk false [r.vd, r.va, r.vb, vc])
    (fun _ l => opReads false (vnums [r.va, r.vb, vc]) l) fun g l seed =>
      (dotVal r.ty r.rm r.sat (g.getE false r.va.toNat l) (g.getE false r.vb.toNat l) (g.getE false vc.toNat l)
        (if stepsRs r.ty r.rm then srStep seed else seed), if stepsRs r.ty r.rm then srStep seed else seed)

/-- R337 to R346: moves between lanes, ballots, reductions, scans, conflicts, and the top-k instructions with the VARIANT trap of a k
outside 1 to the width. -/
def Obligations.VectorLanes : Prop :=
  (∀ h n64 r, MovesLanes (.vshfIdx h n64 r) h n64 r.vd r.va [r.vb] [] fun g l => (g.getV r.vb.toNat l).toNat % g.width) ∧
  (∀ h n64 vd va c, MovesLanes (.vshfXor h n64 vd va c) h n64 vd va [] [] fun g l => Nat.xor l c.toNat % g.width) ∧
  (∀ h n64 vd va c, MovesLanes (.vshfUp h n64 vd va c) h n64 vd va [] [] fun _ l => if c.toNat ≤ l then l - c.toNat else l) ∧
  (∀ h n64 vd va c, MovesLanes (.vshfDn h n64 vd va c) h n64 vd va [] [] fun g l =>
    if l + c.toNat < g.width then l + c.toNat else l) ∧
  (∀ h n64 vd va src, MovesLanes (.vbcast h n64 vd va src) h n64 vd va [] (LaneSrc.regs src) fun g _ =>
    LaneSrc.num src g % g.width) ∧
  (∀ h n64 vd va src, MovesLanes (.vrot h n64 vd va src) h n64 vd va [] (LaneSrc.regs src) fun g l =>
    (l + LaneSrc.num src g) % g.width) ∧
  (∀ h n64 vd n, LaneValues (.vsplat h n64 vd (.imm n)) h n64 vd (fun g => g.okOp n64 vd.toNat) (fun _ _ => [])
    fun _ _ seed => ((n.signExtend 64).toNat, seed)) ∧
  (∀ h n64 vd r, LaneValues (.vsplat h n64 vd (.sreg r)) h n64 vd (fun g => g.okOp n64 vd.toNat && g.sOk [r.toNat])
    (fun _ _ => []) fun g _ seed => ((g.getS r.toNat).toNat, seed)) ∧
  (∀ h hi cnt sd pc, VecEffect (.vballot h hi cnt sd pc) h (fun g => g.sOk [sd.toNat]) (fun _ _ => []) (fun _ _ => [])
    fun g act => g.setS sd.toNat (if cnt then BitVec.ofNat 64 (act.filter fun l => g.pred pc.toNat l).length
      else if hi then (maskOf (act.filter fun l => g.pred pc.toNat l)).extractLsb' 64 64
      else (maskOf (act.filter fun l => g.pred pc.toNat l)).extractLsb' 0 64)) ∧
  (∀ (h : Hd) (op : RedOp) (ty : Ety) (rm : Rnd) (sat : Bool) (vd va : VReg) (i : Instr)
      (f : Gang → List Nat → List (Nat × Nat) × BitVec 32),
    (i = .vred h op ty rm sat vd va ∧ (f = fun g act =>
        (act.map fun l => (l, (foldLanes (redStep op ty rm sat) (laneVals ty g va.toNat act) g.srseed).1),
          (foldLanes (redStep op ty rm sat) (laneVals ty g va.toNat act) g.srseed).2)) ∨
      i = .vscan h op ty rm sat false vd va ∧ (f = fun g act =>
        scanLanes (redStep op ty rm sat) (laneVals ty g va.toNat act) g.srseed) ∨
      i = .vscan h op ty rm sat true vd va ∧ (f = fun g act =>
        scanExcl (redStep op ty rm sat) (redIdentity op ty) (laneVals ty g va.toNat act) g.srseed)) →
    VecEffect i h (opsOk ty.is64 [vd, va]) (fun _ l => opReads ty.is64 [va.toNat] l)
      (fun _ act => act.flatMap fun l => opReads ty.is64 [vd.toNat] l)
      fun g act => { putLanes ty.is64 vd.toNat (f g act).1 g with srseed := (f g act).2 }) ∧
  (∀ h op ty rm sat r, VecEffect (.vseg h op ty rm sat r) h (fun g => opsOk ty.is64 [r.vd, r.va] g && opsOk false [r.vb] g)
    (fun _ l => opReads ty.is64 [r.va.toNat] l ++ opReads false [r.vb.toNat] l)
    (fun _ act => act.flatMap fun l => opReads ty.is64 [r.vd.toNat] l) fun g act =>
      let fs := segFolds (redStep op ty rm sat)
        ((laneVals ty g r.va.toNat act).map fun x => (x.1, (g.getV r.vb.toNat x.1).toNat, x.2)) [] g.srseed
      { putLanes ty.is64 r.vd.toNat
          (act.map fun l => (l, (fs.1.find? fun a => a.1 == (g.getV r.vb.toNat l).toNat).elim 0 (·.2))) g with
        srseed := fs.2 }) ∧
  (∀ h n64 vd va pc, VecEffect (.vconf h n64 vd va pc) h (fun g => g.okOp false vd.toNat && g.okOp n64 va.toNat)
    (fun _ l => opReads n64 [va.toNat] l) (fun _ act => act.map fun l => (vd.toNat, l)) fun g act => act.foldl (fun g1 l =>
      let m := (act.find? fun m => g.getE n64 va.toNat m == g.getE n64 va.toNat l).getD l
      (g1.setE false vd.toNat l m).setPred pc.toNat l (m == l)) g) ∧
  ∀ (h : Hd) (ty : Ety) (r : V3) (k : BitVec 9) (sc : Reg) (s : State) (g : Gang) (i : Instr),
    (i = .vtopk h ty r k sc ∨ i = .vmrgk h ty r k sc) →
    (RunsG s g → (k = 0 ∨ g.width < k.toNat) → g.galley = false → ∀ l ls, lanesOf g.lanes = l :: ls →
      exec i s = .next (trapGrid g.id (illegalOp g.pc g.line rVariant) l g.pc
        (s.updGang g.id fun g => { g with issued := g.issued + 1, state := .ready }))) ∧
    (1 ≤ k.toNat → k.toNat ≤ g.width → g.okOp false r.vd.toNat = true → g.okOp false (r.vd.toNat + 1) = true →
      g.sOk [sc.toNat] = true →
      (i = .vtopk h ty r k sc → VecReady s g h (opsOk false [r.va, r.vb] g) (fun l => [(r.va.toNat, l), (r.vb.toNat, l)])
          ((List.range k.toNat).flatMap fun j => [Dst.v r.vd.toNat j, Dst.v (r.vd.toNat + 1) j]) →
        let es := (sortBy (entryLe ty) ((g.active h).map fun l =>
          (g.getE false r.va.toNat l, g.getE false r.vb.toNat l))).take k.toNat
        exec i s = .next (doneG g.id (s.setGang
          ((putEntries ty r.vd.toNat k.toNat es g).setS sc.toNat (BitVec.ofNat 64 es.length))))) ∧
      (i = .vmrgk h ty r k sc → VecReady s g h
          (opsOk false [r.va, r.vb] g && g.okOp false (r.va.toNat + 1) && g.okOp false (r.vb.toNat + 1))
          (fun _ => (List.range k.toNat).flatMap fun j =>
            [(r.va.toNat, j), (r.va.toNat + 1, j), (r.vb.toNat, j), (r.vb.toNat + 1, j)])
          ((List.range k.toNat).flatMap fun j => [Dst.v r.vd.toNat j, Dst.v (r.vd.toNat + 1) j]) →
        let es := (sortBy (entryLe ty) (listEntries g r.va.toNat k.toNat ++ listEntries g r.vb.toNat k.toNat)).take k.toNat
        exec i s = .next (doneG g.id (s.setGang ((putEntries ty r.vd.toNat k.toNat es g).setS sc.toNat
          (BitVec.ofNat 64 (es.filter fun e => e.2 != 0xFFFF_FFFF).length))))))

/-- R347 to R351: vector loads and stores of elements and of register rows, atomics of the lanes and the combined atomic. -/
def Obligations.VectorMemory : Prop :=
  (∀ h sz m vd sr imm s s1 g good,
    VecAccess s s1 g h (g.okOp (sz == .n64) vd.toNat && (vmodeRegs m).all (g.okOp false)) [sr.toNat]
      (fun l => opReads false (vmodeRegs m) l) (fun l => [opDst (sz == .n64) vd.toNat l]) sz.bytes .load true
      (fun l => [(vmodeAddr m (g.getS sr.toNat) imm sz.bytes g l, sz.bytes)]) good →
    exec (.vld h sz m vd sr imm) s = .next (doneG g.id (startLoad g.id (flagOf g.line h) false none
      (good.flatMap fun x => x.2.map fun a => ⟨a, sz, opDst (sz == .n64) vd.toNat x.1, none⟩) s1))) ∧
  (∀ h sz m vd sr imm s s1 s2 s3 g good late es,
    VecAccess s s1 g h (g.okOp (sz == .n64) vd.toNat && (vmodeRegs m).all (g.okOp false)) [sr.toNat]
      (fun l => opReads false (vmodeRegs m) l ++ opReads (sz == .n64) [vd.toNat] l) (fun _ => []) sz.bytes .store true
      (fun l => [(vmodeAddr m (g.getS sr.toNat) imm sz.bytes g l, sz.bytes)]) good → s1.errs = [] →
    es = (good.flatMap fun x => x.2.map fun a => (x.1, a, toBytes sz.bytes (g.getE (sz == .n64) vd.toNat x.1))) →
    storeRoom g es s1 = (s2, [], false) → gangStores g es s2 = (s3, late) →
    exec (.vst h sz m vd sr imm) s = .next (doneG g.id (lateStores g h false late (s3.wideEnds g (es.map (·.2)))))) ∧
  (∀ h n1 vd sr imm s s1 g good,
    VecAccess s s1 g h ((List.range (n1.toNat + 1)).all fun j => g.okOp false (vd.toNat + j)) [sr.toNat] (fun _ => [])
      (fun l => (List.range (n1.toNat + 1)).map fun j => Dst.v (vd.toNat + j) l) 4 .load true
      (fun l => (List.range (n1.toNat + 1)).map fun j =>
        (g.getS sr.toNat + imm.signExtend 64 + BitVec.ofNat 64 (4 * (g.width * j + l)), 4)) good →
    exec (.vldc h n1 vd sr imm) s = .next (doneG g.id (startLoad g.id (flagOf g.line h) false none
      (good.flatMap fun x => (((List.range (n1.toNat + 1)).map fun j => vd.toNat + j).zip x.2).map fun y =>
        ⟨y.2, .n32, .v y.1 x.1, none⟩) s1))) ∧
  (∀ h n1 vd sr imm s s1 s2 s3 g good late es,
    VecAccess s s1 g h ((List.range (n1.toNat + 1)).all fun j => g.okOp false (vd.toNat + j)) [sr.toNat]
      (fun l => (List.range (n1.toNat + 1)).map fun j => (vd.toNat + j, l)) (fun _ => []) 4 .store true
      (fun l => (List.range (n1.toNat + 1)).map fun j =>
        (g.getS sr.toNat + imm.signExtend 64 + BitVec.ofNat 64 (4 * (g.width * j + l)), 4)) good → s1.errs = [] →
    es = (good.flatMap fun x => (((List.range (n1.toNat + 1)).map fun j => vd.toNat + j).zip x.2).map fun y =>
      (x.1, y.2, toBytes 4 (g.getV y.1 x.1).toNat)) →
    storeRoom g es s1 = (s2, [], false) → gangStores g es s2 = (s3, late) →
    exec (.vstc h n1 vd sr imm) s = .next (doneG g.id (lateStores g h false late (s3.wideEnds g (es.map (·.2)))))) ∧
  (∀ h op ty dv r s s1 s2 g good,
    VecAccess s s1 g h (g.okOp true r.va.toNat && (r.vd.toNat :: vamoData op r.vb).all (g.okOp ty.is64)) []
      (fun l => opReads true [r.va.toNat] l ++ opReads ty.is64 (vamoData op r.vb) l) (fun l => [opDst ty.is64 r.vd.toNat l])
      (if ty.is64 then 8 else 4) .atomic (vamoReq op ty dv).hostOk
      (fun l => [(BitVec.ofNat 64 (g.getE true r.va.toNat l), if ty.is64 then 8 else 4)]) good →
    drainAll g.id (if ty.is64 then 8 else 4) (good.flatMap (·.2)) s1 = .ok s2 →
    exec (.vamo h op ty dv r) s = .next (doneG g.id (startAmo g.id (vamoReq op ty dv) (flagOf g.line h)
      (good.flatMap fun y => y.2.map fun a => (vamoReq op ty dv).elt a (opDst ty.is64 r.vd.toNat y.1)
        (a.va :: (vamoData op r.vb).map fun v => BitVec.ofNat 64 (g.getE ty.is64 v y.1))) s2))) ∧
  ∀ (h : Hd) (op : AmoOp) (sz8 : Bool) (sc : Scope) (vd va : VReg) (sr : Reg) (imm : BitVec 16) (s s1 s2 : State) (g : Gang)
      (good : List (Nat × List Acc)) (l0 : Nat) (a : Acc) (as : List Acc) (rest : List (Nat × List Acc)),
    VecAccess s s1 g h (opsOk sz8 [vd, va] g) [sr.toNat] (fun l => opReads sz8 [va.toNat] l)
      (fun l => [opDst sz8 vd.toNat l]) (if sz8 then 8 else 4) .atomic (hostAmo op false)
      (fun _ => [(g.getS sr.toNat + imm.signExtend 64, if sz8 then 8 else 4)]) good →
    drainAll g.id (if sz8 then 8 else 4) (good.flatMap (·.2)) s1 = .ok s2 → good = (l0, a :: as) :: rest →
    exec (.vrdm h op sz8 sc vd va sr imm) s = .next (doneG g.id
      (((((good.map fun y => (opDst sz8 vd.toNat y.1, BitVec.ofNat 64 (g.getE sz8 va.toNat y.1))).foldl
          (fun s f => (s.markEmpty g.id f.1).clearErr g.id f.1) s2).raise g.id (flagOf g.line h)).addOp g.id (flagOf g.line h)
        (.vrdm { near := a.cached && !sc.dvOrWider, acc := a, op := op, cmp := none, operand := 0, sz8 := sz8, dst := .none }
          (good.map fun y => (opDst sz8 vd.toNat y.1, BitVec.ofNat 64 (g.getE sz8 va.toNat y.1)))))))

/-! ## The matrix engine -/

/-- R353, R356, R361, R362, R363, R370, R372, R373: `mma` and `mrot` enter the engine queue; `mready` and `mwait` go on when nothing
that they wait for is left; `mjoin` releases at its arrival and acquires when it is released. A gang whose width is not 64 takes
a VARIANT trap at `mma`, and one whose launch is not co-resident a TORUS trap at `mrot` and `mjoin`. -/
def Obligations.MatrixQueueAndWaits : Prop :=
  ∀ (s : State) (g : Gang) (h : Hd), RunsG s g → g.active h ≠ [] →
    (∀ m, g.width = 64 → MM.inAlloc m g = true → engineRoom s g → flagFull g.flags (flagOf g.line h) = false →
      exec (.mma h m) s = .next (queued h m false g s) ∧
      (s.torus g = none → exec (.mrot h m) s = trapActive h g (torusTrap g 0 0 0x40) s) ∧
      ∀ l n, s.torus g = some (l, n) → (s.participant l g.num (l.west n)).isSome = true →
        (s.participant l g.num (l.north n)).isSome = true → exec (.mrot h m) s = .next (queued h m true g s)) ∧
    (∀ m l ls, g.width ≠ 64 → g.galley = false → lanesOf g.lanes = l :: ls →
      exec (.mma h m) s = .next (trapGrid g.id (illegalOp g.pc g.line rVariant) l g.pc
        (s.updGang g.id fun g => { g with issued := g.issued + 1, state := .ready }))) ∧
    (s.vFillPending g = false → exec (.mready h) s = .next (doneG g.id (s.updGang g.id fun g => { g with written := [] }))) ∧
    (∀ acc : Option AccReg, (∀ a, acc = some a → a.toNat < g.accs) →
      (∀ x ∈ g.pendingSends, ∃ a, acc = some a ∧ x.2.acc ≠ a.toNat) →
      (∀ o ∈ g.matOps, (∀ a, acc = some a → o.mm.acc = a) → o.ended = true ∧ o.err = none) →
        exec (.mwait h acc) s = .next (doneG g.id (coverOps g.id (fun o => acc.all fun a => o.mm.acc == a) s))) ∧
    (s.torus g = none → exec (.mjoin h) s = trapActive h g (torusTrap g 0 2 0x40) s) ∧
    ∀ l n, s.torus g = some (l, n) →
      (g.inJoin = true → g.joinDone = true → exec (.mjoin h) s = .next (doneG g.id
        ((acquire g.id .cl s).updGang g.id fun g => { g with inJoin := false, joinDone := false }))) ∧
      ∀ s1, g.inJoin = false → s.joinMissing l g.num = none → releaseGang g.id .cl (settleLoads g.id s) = .ok s1 →
        exec (.mjoin h) s = .next ((s1.updGang g.id fun g => { g with inJoin := true, njoin := g.njoin + 1 }).updGang g.id
          fun g => { g with state := .parked .retry })

/-- R364 to R368: `mzero` clears a tile, `mrd` and `mwr` move a group of 16 columns between a tile and registers, a part of a lane's
row after the other from the lowest, and `mtrn` transposes; no other tile changes. A tile with an operation that is not
covered reads as free values (R100). -/
def Obligations.MatrixTiles : Prop :=
  ∀ (s : State) (g : Gang) (h : Hd), RunsG s g → g.active h ≠ [] → s.errs = [] → g.matOps = [] → twf 0 g.acc = true →
    twf 0 g.v = true → flagFull g.flags (flagOf g.line h) = false →
    (∀ acc : AccReg, acc.toNat < g.accs →
      ∃ s' g', exec (.mzero h acc) s = .next s' ∧ gangBecomes s s' g g' ∧ g'.v = g.v ∧
        ∀ a i c, i < 64 → c < 64 → g'.getAcc a i c = if a = acc.toNat then 0 else g.getAcc a i c) ∧
    (∀ (accd accs : AccReg), g.width = 64 → accd.toNat < g.accs → accs.toNat < g.accs →
      ∃ s' g', exec (.mtrn h accd accs) s = .next s' ∧ gangBecomes s s' g g' ∧ g'.v = g.v ∧
        ∀ a i c, i < 64 → c < 64 → g'.getAcc a i c = if a = accd.toNat then g.getAcc accs.toNat c i else g.getAcc a i c) ∧
    (∀ (acc : AccReg) (blk : Blk) (g4 : BitVec 2) (off : BitVec 4) (conv : Option MFmt), g.width = 64 → acc.toNat < g.accs →
      g.vOk (moveRegs blk off (mwrParts conv)) = true →
      (∀ r ∈ moveRegs blk off (mwrParts conv), ∀ l, l < 64 → g.fullV r l = true) →
      ∃ s' g', exec (.mwr h acc blk g4 off conv) s = .next s' ∧ gangBecomes s s' g g' ∧ g'.v = g.v ∧
        ∀ a i c, i < 64 → c < 64 → g'.getAcc a i c =
          if a = acc.toNat ∧ c / 16 = g4.toNat then
            mwrElem conv ((g.getV (16 * blk.toNat + off.toNat + c % 16 / mwrParts conv) i).toNat
              / 2 ^ (32 / mwrParts conv * (c % 16 % mwrParts conv)) % 2 ^ (32 / mwrParts conv))
          else g.getAcc a i c) ∧
    ∀ (acc : AccReg) (blk : Blk) (g4 : BitVec 2) (off : BitVec 4) (k : MrdKind), g.width = 64 → acc.toNat < g.accs →
      g.vOk (moveRegs blk off (mrdParts k)) = true →
      s.busy g.id ((moveRegs blk off (mrdParts k)).flatMap fun r => (List.range 64).map fun l => Dst.v r l) = false →
      ∃ s' g', exec (.mrd h acc blk g4 off k) s = .next s' ∧ gangBecomes s s' g g' ∧ g'.acc = g.acc ∧
        (∀ r l, l < 128 → r ∉ moveRegs blk off (mrdParts k) ∨ 64 ≤ l → g'.getV r l = g.getV r l) ∧
        (k = .raw → ∀ j l, j < 16 → l < 64 →
          g'.getV (16 * blk.toNat + off.toNat + j) l = g.getAcc acc.toNat l (16 * g4.toNat + j))

/-- R202, R356, R361, R371, R372: the engine carries out the oldest operation of a partition's queue: its tile becomes the product;
blocks of `mrot` are accepted and land, and a join that every participant has reached is released. -/
def Obligations.MatrixEngine : Prop :=
  (∀ (s : State) (part cl tile : Nat) (c : CtxId) (seq : Nat) (q : List (CtxId × Nat)) (g : Gang) (o : MatOp),
    s.engineQueue part cl tile = (c, seq) :: q → s.gang? c = some g → g.id = c →
    (g.matOps.find? fun o => o.seq == seq) = some o → o.rot = false → s.errs = [] → twf 0 g.acc = true →
      ∃ s' g', exec (.engineOperationEnd part cl tile) s = .next s' ∧ s'.gang? c = some g' ∧
        s'.engine = s.engine.erase (c, seq) ∧ s'.mem = s.mem ∧ g'.v = g.v ∧ g'.s = g.s ∧ g'.preds = g.preds ∧
        (∀ a i n, i < 64 → n < 64 → g'.getAcc a i n =
          if a = o.mm.acc.toNat then (MM.product o.mm o.table g).getD (64 * i + n) 0 else g.getAcc a i n) ∧
        ∀ x ∈ g'.matOps, x.seq = seq → x.ended = true) ∧
  (∀ s part cl tile, s.engineQueue part cl tile = [] → exec (.engineOperationEnd part cl tile) s = .next s) ∧
  (∀ s c north, exec (.mrotArrival c north) s = .next (landBlock c north (acceptBlock c north s))) ∧
  ∀ (s : State) (launch gang : Nat) (l : Launch), s.launch? launch = some l → l.coresident = true →
    (∀ n, n < l.teams → ∃ x, s.participant l gang n = some x ∧ x.inJoin = true ∧ x.joinDone = false ∧
      ∀ y, s.participant l gang 0 = some y → x.njoin = y.njoin) →
    exec (.mjoinRelease launch gang) s = .next
      (((List.range l.teams).filterMap fun n => s.participant l gang n).foldl
        (fun s g => (s.updGang g.id fun g => { g with joinDone := true })) s)

/-! ## Steps of contexts, of operations in flight and of the stores on their way -/

/-- R51, R77, R95, R161, R168, R208, R209, R211, R221, R224, R242, R357, R379: the steps that a context makes between its heads: a
sleeper wakes when its cc has come, a line is entered, a wait for flags ends, results and flags arrive, windows move between the core
and their record, a late error is delivered at a boundary, the lowest address first, and a reserved opcode traps. -/
def Obligations.StepsOfContexts : Prop :=
  ∀ (s : State) (c : CtxId),
    (∀ t, s.thread? c = some t → t.id = c →
      (∀ w, t.state = .sleeping (some w) →
        exec (.sleepExpiry c) s = .next ((s.passTo w).updThread c (Thread.wakeAt (s.passTo w).cc)) ∧ w ≤ (s.passTo w).cc) ∧
      (s.canIssueT t = true → t.line = none →
        (∀ l s1, enterLine c t.part t.ptbase t.pc t.flags s = .start s1 l →
          exec (.lineEntry c) s = .next (s1.updThread c fun t => { t with line := some l, state := .ready })) ∧
        (∀ s1, enterLine c t.part t.ptbase t.pc t.flags s = .wait s1 →
          exec (.lineEntry c) s = .next (s1.updThread c fun t => { t with state := .parked .retry })) ∧
        ∀ s1 ti, enterLine c t.part t.ptbase t.pc t.flags s = .trap s1 ti →
          exec (.lineEntry c) s = .next (takeTrap c ti t.pc s1)) ∧
      (t.state = .parked .retry → t.line = none →
        (∀ l s1, enterLine c t.part t.ptbase t.pc t.flags s = .start s1 l → exec (.lineWaitRelease c) s = .next (s.wake c)) ∧
        ∀ s1, enterLine c t.part t.ptbase t.pc t.flags s = .wait s1 → exec (.lineWaitRelease c) s = .next s) ∧
      (s.windowTurn c = some (.spill, t) → t.spilled < t.outer.length → exec (.windowSpill c) s = .next
        (s.updThread c fun t => { t with spilled := min (t.spilled + 1) t.outer.length, winOp := none })) ∧
      (s.windowTurn c = some (.reload, t) → exec (.windowReload c) s = .next
        (s.updThread c fun t => { t with spilled := t.spilled - 1, winOp := none })) ∧
      ∀ ti, ti ∈ t.dueMachine → (∀ u, u ∈ t.dueMachine → u ≠ ti → ti.tval.toNat < u.tval.toNat) →
        (t.state = .ready → t.inTrap = false → c.onDevice = true → s.amoHeld c = false →
          exec (.asyncMachineDelivery c) s = .next (takeTrap c ti t.pc
            (s.updThread c fun t => { t with dueMachine := t.dueMachine.erase ti }))) ∧
        (t.inTrap = true → exec (.asyncMachineDelivery c) s = .next s)) ∧
    (∀ g, s.thread? c = none → s.gang? c = some g → g.id = c →
      (s.canIssueG g = true → g.line = none → g.switchDue = false → g.yieldDue = false → g.timeUp = false →
        ∀ l s1, enterLine c g.part g.ptbase g.pc g.flags (s.setGang g) = .start s1 l →
          (∀ s2, coverByWait c (lineWait l) s1 = (s2, none) →
            exec (.lineEntry c) s = .next (s2.updGang c fun g => { g with line := some l, state := .ready })) ∧
          ∀ s2 ti, coverByWait c (lineWait l) s1 = (s2, some ti) → exec (.lineEntry c) s = .next (allFault g ti s2)) ∧
      (g.modeNone = false → g.stack ≠ [] → 1 ≤ g.timer → g.period ≤ g.timer →
        (g.line = none → g.state = .ready →
          exec (.fairnessTimerExpiry c) s = .next (s.setGang { g.switch with state := .ready })) ∧
        ∀ l, g.line = some l → exec (.fairnessTimerExpiry c) s = .next (s.setGang { g with switchDue := true }))) ∧
    (∀ op o, s.op? op = some o →
      (o.kind = .flagDue → exec (.flagCompletion op) s = .next ((s.dropOp op).lower o.owner o.flag)) ∧
      (∀ fs, o.kind = .fills fs → o.acq = false →
        exec (.registerFill op) s = .next ((fs.foldl (fun s f => s.fillReply o.owner f.1 f.2) s).endOp o)) ∧
      (∀ fs, o.kind = .fills fs → o.acq = true → exec (.registerFill op) s = .next s) ∧
      (∀ es, o.kind = .load es → (∀ e ∈ es, e.val.isSome = true) →
        exec (.registerFill op) s = .next ((fillElts o.owner es s).endOp o)) ∧
      ∀ s1, opAwait o s = some s1 → (∃ es, o.kind = .load es) → exec (.registerFill op) s = .next s1) ∧
    (∀ pa e, s.errAt .mem (pa / 32 * 32) 32 = some e → ∃ s', exec (.quirePatrolRead pa) s = .next s' ∧
      s'.fw.log = s.fw.log ++ [pa / 32 * 32] ∧ s'.mem = s.mem ∧ s'.errs = s.errs ∧ s'.threads = s.threads ∧ s'.gangs = s.gangs) ∧
    ∀ head tail t, s.cur = some c → s.thread? c = some t → t.id = c →
      exec (.reservedOpcode head tail) s = .next (trapped c
        ⟨0x02, w64 (head % 2 ^ 16 + tail * 2 ^ 16), headInfo (bits head 13 6) (t.pc.toNat % 64) rOpcode⟩ t.pc s)

/-- R27, R29, R35, R40, R42, R47, R53, R61, R69, R71, R84, R91, R277, R351: the memory side of operations in flight: a store buffer's
oldest entry asks for its line or is written, a refused one stays held until the next release; stores, atomics and pushes arrive at
their unit, the lanes of one atomic instruction one after another; a walk reads its entries and installs its translation; an
invalidation is acknowledged once nothing under a matching translation is in flight. -/
def Obligations.StepsOfMemoryOperations : Prop :=
  ∀ (s : State),
    (∀ (c : CtxId) (t : Thread) (e : SbEntry) (es : List SbEntry), s.thread? c = some t → t.sb = e :: es → e.held = none →
      c.onDevice = true → (t.agent.relHandler = true → e.inHandler = true) →
      (e.cached = true → s.l1State c.coreId (e.pa / 32) = none →
        exec (.storeBufferWriteback c) s = .next (sendReq .getm c.coreId c.quarter (e.pa / 32) s)) ∧
      (e.cached = true → s.l1State c.coreId (e.pa / 32) = some .s →
        exec (.storeBufferWriteback c) s = .next (sendReq .upg c.coreId c.quarter (e.pa / 32) s)) ∧
      (e.cached = false ∨ s.l1State c.coreId (e.pa / 32) = some .e ∨ s.l1State c.coreId (e.pa / 32) = some .m →
        (∀ s1, recheck t.part c.cluster e.ptbase e.va e.pa s = (s1, none) → s1.errs = [] →
          exec (.storeBufferWriteback c) s = .next ((sbPut c e s1).updThread c fun t => { t with sb := es }) ∧
          (s1.storesOk = true → ∀ i, i < 32 → byteAt (sbPut c e s1) .mem (e.pa + i) =
            if bitAt e.mask.toNat i then tget 0 e.data i else byteAt s1 .mem (e.pa + i))) ∧
        ∀ s1 tr, recheck t.part c.cluster e.ptbase e.va e.pa s = (s1, some tr) →
          tr.cause ≠ 0x13 → exec (.storeBufferWriteback c) s = .next
            (s1.updThread c fun t => { t with sb := { e with held := some tr.tinfo } :: es }))) ∧
    (∀ op o, s.op? op = some o →
      (∀ es, o.kind = .store es → exec (.storeAcknowledgement op) s = .next
        ((es.foldl (fun s e => writeSpace e.1.space e.1.addr e.2 s) s).endOp o)) ∧
      (∀ c v, o.kind = .push c v → (∀ x ∈ s.ops.takeWhile fun x => x.id != op, x.pushes o.owner c = false) →
        exec (.queuePushArrival op) s = .next ((pushArrive o.owner c v s).endOp o)) ∧
      (∀ e es s1, o.kind = .atomic (e :: es) ∨ o.kind = .red (e :: es) ∧ es ≠ [] →
        s.await o.owner.wideCore o.owner.quarter e.needs = some s1 → es ≠ [] → exec (.atomicAtUnit op) s = .next s1) ∧
      (∀ e, o.kind = .atomic [e] → s.await o.owner.wideCore o.owner.quarter e.needs = none →
        exec (.atomicAtUnit op) s = .next ((performAmo o.owner e s).1.updOp o.id fun o =>
          { o with kind := .fills [(e.dst, (performAmo o.owner e s).2)] })) ∧
      (∀ e e1 es, o.kind = .atomic (e :: e1 :: es) → s.await o.owner.wideCore o.owner.quarter e.needs = none →
        exec (.atomicAtUnit op) s = .next (((performAmo o.owner e s).1.addOp o.owner none
          (.fills [(e.dst, (performAmo o.owner e s).2)]) false o.acq).updOp op fun o => { o with kind := .atomic (e1 :: es) })) ∧
      (∀ e, o.kind = .red [e] → s.await o.owner.wideCore o.owner.quarter e.needs = none →
        exec (.atomicAtUnit op) s = .next (((performAmo o.owner e s).1.endOp o).pendDown o.owner)) ∧
      (∀ e ls, o.kind = .vrdm e ls → s.await o.owner.wideCore o.owner.quarter e.needs = none →
        exec (.atomicAtUnit op) s = .next
          ((performRdm o.owner e ls s).1.updOp o.id fun o => { o with kind := .fills (performRdm o.owner e ls s).2 })) ∧
      ∀ x d, o.kind = .tlbinv x d → s.matchingInFlight o.part x = false →
        ∃ s', exec (.tlbinvAck op) s = .next s' ∧ (∀ e ∈ s'.tlb, e.part = o.part → x.removes e = false) ∧
          (∀ m ∈ s'.utlb, m.entry.part = o.part → x.removes m.entry = false) ∧ s'.op? op = none ∧
          ((∀ m ∈ s.missq, m.part ≠ o.part) → (∀ e ∈ s.tlb, e.part ≠ o.part → e ∈ s'.tlb) ∧ s'.mem = s.mem)) ∧
    (∀ (c : CoreId) (q : Nat) (e : AmoElt), s.await c q e.needs = none → e.acc.space = .mem → e.acc.host = false →
      (e.near = true → s.inCc c.cluster (e.acc.addr / 32) = true ∧ s.ownsRegion c.cluster (e.acc.addr / 32) = true ∧
        (s.homeLine c.cluster (e.acc.addr / 32)).st = none) ∧
      (e.near = false → ∀ r ∈ s.region, r.region = regionOf (e.acc.addr / 32) → r.st = none)) ∧
    (∀ (c : CtxId) (va : Word) (k : AccKind),
      (∀ m, (s.missq.find? fun m => m.state != .failed && m.ctx == c && m.vpage == vpageOf false va.toNat && m.kind == k) = some m →
        exec (.pageWalk c va k) s = .next (stepMiss m s)) ∧
      ((∀ m ∈ s.missq, m.ctx ≠ c) → exec (.pageWalk c va k) s = .next s)) ∧
    (∀ (m : Miss) (l : Leaf), m.state = .walking (some l) →
      (leNat (rdBytes s.mem l.at_ 8) ≠ l.pte → (stepMiss m s).tlb = s.tlb ∧ (stepMiss m s).mem = s.mem) ∧
      (leNat (rdBytes s.mem l.at_ 8) = l.pte → ∃ pte, (setAccessed l m.kind { s with missq := s.missq.erase m }).2 = pte ∧
        l.entry pte m.part m.cluster (bits m.ptbase.toNat 63 56) m.va.toNat ∈ (stepMiss m s).tlb)) ∧
    ∀ cl block m, (s.merges.find? fun m => m.cluster == cl && m.block == block) = some m →
      exec (.missMergeExpiry cl block) s = .next (({ s with merges := s.merges.erase m }).sendRead cl block m.sectors)

/-! ## Coherence -/

/-- R55, R60 to R64, R66: the protocol between the scalar L1s of a cluster and a line's home, by the rows of its tables: what a
request that finds the line idle and its sector there is answered with and what the entry becomes, what the last answer of a
transaction ends, what a put leaves, what an L1 does at each message (the buffered stores of its core that waited for the line are
written when it comes in M), and the events of the overflow handler. -/
def Obligations.CoherenceOfACluster : Prop :=
  (∀ (s s1 : State) (c : CoreId) (line : Nat) (m : CohMsg) (h : HomeLine), h = s1.homeLine c.cluster line →
    h.trans = none → h.queue = [] → s1.inCc c.cluster line = true → s1.regionCalled c.cluster line = false →
    (s.takeCoh .gets c line = some (m, s1) →
      (h.st = none → exec (.gets c line) s = .next
        (((s1.ccUse c.cluster line).answer .dataE ⟨.gets, c, m.quarter⟩ line).setHome { h with st := some .o, ptrs := [c] })) ∧
      (h.st = some .s → c ∈ h.ptrs ∨ h.ptrs.length < 4 → exec (.gets c line) s = .next
        (((s1.ccUse c.cluster line).answer .dataS ⟨.gets, c, m.quarter⟩ line).setHome
          { h with ptrs := (h.ptrs.filter fun x => x != c) ++ [c] })) ∧
      (h.st = some .o → exec (.gets c line) s = .next
        ((h.ptrs.foldl (fun s o => s.postCoh .fwds o line) (s1.ccUse c.cluster line)).setHome
          { h with trans := some ⟨⟨.gets, c, m.quarter⟩, h.ptrs, false⟩ }))) ∧
    (s1.ownsRegion c.cluster line = true →
      (s.takeCoh .getm c line = some (m, s1) →
        (h.st = none ∨ h.st = some .s ∧ (∀ x ∈ h.ptrs, x = c) → exec (.getm c line) s = .next
          (((s1.ccUse c.cluster line).answer .dataM ⟨.getm, c, m.quarter⟩ line).setHome { h with st := some .o, ptrs := [c] })) ∧
        (h.st = some .s → (∃ x ∈ h.ptrs, x ≠ c) → exec (.getm c line) s = .next
          (((h.ptrs.filter fun x => x != c).foldl (fun s o => s.postCoh .inv o line) (s1.ccUse c.cluster line)).setHome
            { h with trans := some ⟨⟨.getm, c, m.quarter⟩, h.ptrs.filter fun x => x != c, false⟩ })) ∧
        (h.st = some .o → exec (.getm c line) s = .next
          ((h.ptrs.foldl (fun s o => s.postCoh .fwdm o line) (s1.ccUse c.cluster line)).setHome
            { h with trans := some ⟨⟨.getm, c, m.quarter⟩, h.ptrs, false⟩ }))) ∧
      (s.takeCoh .upg c line = some (m, s1) → h.st = some .s → c ∈ h.ptrs →
        ((∀ x ∈ h.ptrs, x = c) → exec (.upg c line) s = .next
          (((s1.ccUse c.cluster line).answer .ackUpg ⟨.upg, c, m.quarter⟩ line).setHome { h with st := some .o, ptrs := [c] })) ∧
        ((∃ x ∈ h.ptrs, x ≠ c) → exec (.upg c line) s = .next
          (((h.ptrs.filter fun x => x != c).foldl (fun s o => s.postCoh .inv o line) (s1.ccUse c.cluster line)).setHome
            { h with trans := some ⟨⟨.upg, c, m.quarter⟩, h.ptrs.filter fun x => x != c, true⟩ }))))) ∧
  (∀ (s s1 : State) (c : CoreId) (line : Nat) (m : CohMsg) (h : HomeLine), h = s1.homeLine c.cluster line →
    (∀ t, h.trans = some t → h.record = none → t.awaiting = [c] →
      (t.ask.req = .getm ∨ t.ask.req = .upg → s.takeCoh .invack c line = some (m, s1) → exec (.invack c line) s = .next
        (retryHome c.cluster (homeRank (32 * line)) ((s1.answer (if t.heldS then .ackUpg else .dataM) t.ask line).setHome
          { h with st := some .o, ptrs := [t.ask.core], trans := none }))) ∧
      (t.ask.req = .gets → s.takeCoh .datawb c line = some (m, s1) → exec (.datawb c line) s = .next
        (retryHome c.cluster (homeRank (32 * line)) (((m.land s1).answer .dataS t.ask line).setHome
          { h with st := some .s, ptrs := [c, t.ask.core], trans := none })))) ∧
    (∀ t x, h.trans = some t → t.awaiting.erase c = x → x ≠ [] → s.takeCoh .invack c line = some (m, s1) →
      exec (.invack c line) s = .next (s1.setHome { h with trans := some { t with awaiting := x } })) ∧
    (h.trans = none → h.st = some .s → s.takeCoh .puts c line = some (m, s1) →
      exec (.puts c line) s = .next (s1.setHome (if (h.ptrs.filter fun x => x != c) = [] then { h with st := none, ptrs := [] }
        else { h with ptrs := h.ptrs.filter fun x => x != c }))) ∧
    (h.trans = none → h.st = some .o → h.ptrs = [c] →
      (s.takeCoh .pute c line = some (m, s1) → exec (.pute c line) s = .next (retryHome c.cluster (homeRank (32 * line))
        ((m.land s1).setHome { h with st := none, ptrs := [] }))) ∧
      (s.takeCoh .putm c line = some (m, s1) → exec (.putm c line) s = .next (retryHome c.cluster (homeRank (32 * line))
        ((m.land s1).setHome { h with st := none, ptrs := [] }))))) ∧
  (∀ (s s1 : State) (c : CoreId) (line : Nat) (m : CohMsg),
    (s.takeCoh .inv c line = some (m, s1) → exec (.inv c line) s = .next ((s1.setL1 c line none).postCoh .invack c line)) ∧
    (∀ st, s1.l1State c line = some st → st ≠ .s →
      (s.takeCoh .fwds c line = some (m, s1) → exec (.fwds c line) s = .next
        { s1.setL1 c line (some .s) with coh := s1.coh ++ [⟨.datawb, c, line, 0, st == .m⟩] }) ∧
      (s.takeCoh .fwdm c line = some (m, s1) → exec (.fwdm c line) s = .next
        { s1.setL1 c line none with coh := s1.coh ++ [⟨.datawb, c, line, 0, st == .m⟩] })) ∧
    (s1.l1State c line = none → (s.takeCoh .fwds c line = some (m, s1) → exec (.fwds c line) s = .next s1) ∧
      (s.takeCoh .fwdm c line = some (m, s1) → exec (.fwdm c line) s = .next s1)) ∧
    (∀ s2,
      (s.takeCoh .dataS c line = some (m, s1) → s1.allocL1 c m.quarter line .s = some s2 → exec (.dataReply c line) s = .next s2) ∧
      (s.takeCoh .dataE c line = some (m, s1) → s1.allocL1 c m.quarter line .e = some s2 → exec (.dataReply c line) s = .next s2) ∧
      (s.takeCoh .dataM c line = some (m, s1) → s1.allocL1 c m.quarter line .m = some s2 →
        exec (.dataReply c line) s = .next (serveCore c line s2))) ∧
    (s.takeCoh .dataN c line = some (m, s1) → exec (.dataReply c line) s = .next s1) ∧
    (s.takeCoh .ackUpg c line = some (m, s1) →
      exec (.ackupg c line) s = .next (serveCore c line (s1.setL1 c line (some .m))))) ∧
  ∀ (s s1 : State) (cl rank q : Nat) (e : OvfEvent), s.takeEvent cl rank q = some (e, s1) →
    (∀ u, e.add = some u → exec (.overflowAdd cl rank q) s = .next (retryHome cl rank { s1 with ovf := s1.ovf.map fun r =>
      if r.cluster == cl && r.line == e.line && !(r.sharers.contains u) then { r with sharers := r.sharers ++ [u] } else r })) ∧
    ∀ h t more, e.add = none → h = s1.homeLine cl e.line → h.trans = some t →
      more = ((s1.recorded cl e.line).eraseDups).filter (fun x => x != t.ask.core && !h.ptrs.contains x) →
      exec (.overflowInval cl rank q) s = .next (retryHome cl rank (endTrans cl e.line []
        ((more.foldl (fun (s : State) o => s.postCoh .inv o e.line)
          { s1 with ovf := s1.ovf.filter fun r => !(r.cluster == cl && r.line == e.line) }).setHome
          { h with st := some .s, record := none, trans := some { t with awaiting := t.awaiting ++ more } })))

/-- R31, R67, R395, R396: the region directory: a request that finds its region idle is granted, or its transaction asks the holders
concerned, a write every other one to give the region back and a read an owner to go down; a cluster answers once no L1 has a line
of the region; the last answer grants the request, and the data makes the sectors valid; a cluster that leaves is no holder any more.
Host accesses are made in the host-visible ranges only, and read all ones elsewhere. -/
def Obligations.RegionDirectory : Prop :=
  (∀ (s s1 : State) (cl r : Nat) (m : RegMsg) (e : RegEntry), e = s1.regEntry r → e.trans = none → cl < 12 →
    (s1.region.map (·.region)).Nodup → (∀ x ∈ s1.region, x.queue = []) → s1.regRoom r = true →
    (s.takeReg .rds cl r = some (m, s1) →
      (e.st ≠ some .m → ∃ s', exec (.rds cl r) s = .next s' ∧ (s'.regEntry r).st = some .s ∧ (s'.regEntry r).trans = none ∧
        (s'.regEntry r).agents = (e.agents.filter fun a => a != cl) ++ [cl] ∧
        s'.reg = s1.reg ++ [⟨.data, cl, r, m.block, m.sectors⟩] ∧ s'.mem = s.mem) ∧
      (e.st = some .m → (∃ a ∈ e.agents, a ≠ cl) → ∃ s', exec (.rds cl r) s = .next s' ∧ (s'.regEntry r).st = some .m ∧
        (s'.regEntry r).trans = some ⟨cl, false, .fill m.block m.sectors⟩ ∧
        (s'.regEntry r).awaiting = (e.agents.filter fun a => a != cl) ∧
        s'.reg = s1.reg ++ ((e.agents.filter fun a => a != cl).map fun a => ⟨.rdown, a, r, 0, []⟩) ∧ s'.mem = s.mem)) ∧
    (s.takeReg .rdm cl r = some (m, s1) →
      ((∀ a ∈ e.agents, a = cl) → ∃ s', exec (.rdm cl r) s = .next s' ∧ (s'.regEntry r).st = some .m ∧
        (s'.regEntry r).trans = none ∧ (s'.regEntry r).agents = [cl] ∧
        s'.reg = s1.reg ++ [⟨.data, cl, r, m.block, m.sectors⟩] ∧ s'.mem = s.mem) ∧
      ((∃ a ∈ e.agents, a ≠ cl) → ∃ s', exec (.rdm cl r) s = .next s' ∧
        (s'.regEntry r).trans = some ⟨cl, true, .fill m.block m.sectors⟩ ∧
        (s'.regEntry r).awaiting = (e.agents.filter fun a => a != cl) ∧
        s'.reg = s1.reg ++ ((e.agents.filter fun a => a != cl).map fun a => ⟨.rinv, a, r, 0, []⟩) ∧ s'.mem = s.mem))) ∧
  (∀ (s s1 : State) (cl r : Nat) (m : RegMsg),
    (s.takeReg .rinv cl r = some (m, s1) →
      ((∀ h ∈ s.home, h.cluster = cl → regionOf h.line = r → h.st = none ∧ h.trans = none) →
        exec (.rinv cl r) s = .next (retryLines (fun h => h.cluster == cl && regionOf h.line == r)
          ({ s1 with ccache := s1.ccache.filter fun (l : CcLine) => !(l.cluster == cl && l.block / 16 == r) }.postReg .ack cl r))) ∧
      ∀ ls, ls = (s.home.filter fun h => h.cluster == cl && regionOf h.line == r && (h.st.isSome || h.trans.isSome)) → ls ≠ [] →
        exec (.rinv cl r) s = .next (ls.foldl (fun s h => s.recallLine cl h.line) s)) ∧
    (s.takeReg .rdown cl r = some (m, s1) →
      (∀ h ∈ s.home, h.cluster = cl → regionOf h.line = r → h.st = none ∧ h.trans = none) →
        exec (.rdown cl r) s = .next (retryLines (fun h => h.cluster == cl && regionOf h.line == r)
          ({ s1 with ccache := s1.ccache.map fun (l : CcLine) => if l.cluster == cl && l.block / 16 == r then { l with dirty := 0 } else l
            }.postReg .ack cl r))) ∧
    (∀ e q, s.takeAnswer r = some (m, s1) → e = s1.regEntry r → e.trans = some q → q.agent ≠ 13 →
      (e.awaiting.erase m.agent ≠ [] →
        exec (.regionAcknowledgement r) s = .next (s1.setReg { e with awaiting := e.awaiting.erase m.agent })) ∧
      (e.awaiting.erase m.agent = [] → exec (.regionAcknowledgement r) s = .next (serveSet r ((grantReg q r s1).setReg
        { e with st := some (if q.write then .m else .s), trans := none, awaiting := []
                 agents := if q.write then [q.agent] else (e.agents.filter fun a => a != q.agent) ++ [q.agent] })))) ∧
    (s.takeReg .data cl r = some (m, s1) →
      exec (.regionData cl r) s = .next (retryLines (fun h => h.cluster == cl && regionOf h.line == r)
        (({ s1 with ccache := s1.ccache.map fun (l : CcLine) => if l.cluster = cl ∧ l.block = m.block then
              { l with valid := l.valid ||| m.sectors.foldl (fun v k => v ||| BitVec.ofNat 8 (2 ^ k)) 0 } else l } : State).tellEmpty
          cl r))) ∧
    (s.takeReg .wb cl r = some (m, s1) → (s1.regEntry r).agents = [cl] →
      exec (.regionWb cl r) s = .next (s1.setReg (s1.regEntry r))) ∧
    (s.takeReg .evr cl r = some (m, s1) → cl ∈ (s1.regEntry r).agents →
      exec (.evr cl r) s = .next (serveSet r (s1.setReg { s1.regEntry r with
        agents := (s1.regEntry r).agents.filter fun a => a != cl
        st := if ((s1.regEntry r).agents.filter fun a => a != cl) = [] then none else (s1.regEntry r).st })))) ∧
  ∀ (s : State) (pa : Nat) (e : RegEntry), e = s.regEntry (pa / 4096) →
    (∀ n, s.hostVisible pa n = false →
      exec (.hostCxlMemRead pa n) s = .next { s with out := s.out ++ [.cxl (List.replicate n 0xFF)] }) ∧
    (∀ bs, s.hostVisible pa bs.length = false → exec (.hostCxlMemWrite pa bs) s = .next s) ∧
    (e.trans = none → (s.region.map (·.region)).Nodup → (∀ x ∈ s.region, x.queue = []) → s.regRoom (pa / 4096) = true →
      (∀ n, s.hostVisible pa n = true → e.st ≠ some .m → ∃ s', exec (.hostCxlMemRead pa n) s = .next s' ∧ s'.mem = s.mem ∧
        s'.out = s.out ++ [.cxl (rdBytes s.mem pa n)]) ∧
      ∀ bs, s.hostVisible pa bs.length = true → (∀ a ∈ e.agents, a = 12) → s.storesOk = true →
        ∃ s', exec (.hostCxlMemWrite pa bs) s = .next s' ∧ readSpace s' .mem pa bs.length = bs ∧
          onlyBytes .mem pa bs.length s s')

/-! ## Counts, copies, messages and galley launches under way -/

/-- R135 to R138, R142 to R147: a batch that a unit sends on is the netting of the oldest changes, at most 32 or 128 count points
of them; a unit applies the changes of its own instances and passes the rest on; a frontier that has grown is announced; a
closure walk that ends replaces the graph and moves the counts whose level it has changed, or leaves the graph where it is refused;
where the counts of a location stand at another device, that one is asked first (log 92: the model's choice). -/
def Obligations.StepsOfCounting : Prop :=
  (∀ (b : List Change) (pt : CountPt), changeSum pt (netBatch b) = changeSum pt b ∧ ((netBatch b).map fun c => c.pt).Nodup) ∧
  (∀ (n : Nat) (b : List Change), batchPrefix n [] b <+: b ∧ ((batchPrefix n [] b).map fun c => c.pt).eraseDups.length ≤ n) ∧
  (∀ (s : State) (p : Partition) (b : Batch) (pt : CountPt), (s.applyBatch p b).count pt = p.count pt + changeSum pt b) ∧
  ∀ (s : State),
    (∀ cl rank cs, cs = batchPrefix 32 [] ((s.tileOut.filter fun x => x.1 == cl && x.2.1 == rank && !x.2.2.pt.isTeam).map
        fun x => x.2.2) → cs ≠ [] →
      ∃ s', exec (.tileBatchSend cl rank) s = .next s' ∧ s'.clusterIn = s.clusterIn ++ [(cl, netBatch cs)] ∧
        ((s'.tileOut.filter fun x => x.1 == cl && x.2.1 == rank && !x.2.2.pt.isTeam).map fun x => x.2.2) =
          ((s.tileOut.filter fun x => x.1 == cl && x.2.1 == rank && !x.2.2.pt.isTeam).map fun x => x.2.2).drop cs.length ∧
        s'.parts = s.parts) ∧
    (∀ cl cs, cs = batchPrefix 128 [] ((s.clusterOut.filter fun x => x.1 == cl).map fun x => x.2) → cs ≠ [] →
      ∃ s', exec (.clusterBatchForward cl) s = .next s' ∧ s'.devIn = s.devIn ++ [netBatch cs] ∧
        ((s'.clusterOut.filter fun x => x.1 == cl).map fun x => x.2) =
          ((s.clusterOut.filter fun x => x.1 == cl).map fun x => x.2).drop cs.length ∧ s'.parts = s.parts) ∧
    (s.devOut ≠ [] →
      (s.aggregator = s.jobDevice → exec .deviceBatchForward s = .next { s with
        devOut := [], aggIn := s.aggIn ++ [netBatch s.devOut] }) ∧
      (s.aggregator ≠ s.jobDevice → exec .deviceBatchForward s = .next { s with
        devOut := [], nextId := s.nextId + 1, sentBatches := s.sentBatches ++ [(s.nextId, netBatch s.devOut)]
        out := s.out ++ [.counts s.aggregator s.nextId (netBatch s.devOut)] })) ∧
    (∀ d a, exec (.jobStart d a) s = .next { s with jobDevice := d, aggregator := a, jobFaulted := false, faultedDevices := [] }) ∧
    (∀ b bs,
      (s.devIn = b :: bs → exec (.batchApply .device) s = .next (applyUnit (b.filter fun c => c.pt.isDevice)
        { s with devIn := bs, devOut := s.devOut ++ b.filter fun c => !c.pt.isDevice })) ∧
      (s.aggIn = b :: bs → exec (.batchApply .aggregator) s = .next (applyUnit b { s with aggIn := bs })) ∧
      (∀ cl, s.clusterIn = (cl, b) :: bs.map (fun x => (cl, x)) →
        exec (.batchApply (.cluster cl)) s = .next (applyUnit (b.filter fun c => c.pt.isCluster)
          { s with clusterIn := bs.map (fun x => (cl, x)),
                   clusterOut := s.clusterOut ++ (b.filter fun c => !c.pt.isCluster).map fun c => (cl, c) }))) ∧
    (∀ i loc p a new, s.part? (s.instPart i) = some p → new = p.frontier i loc → s.canAnnounce p i = true →
      loc < p.graph.locs.length → p.told? i loc = some a → frontierGrew a.folio new = true → (∀ n, i ≠ .system n) →
        exec (.frontierAnnounce i loc) s = .next (setAnnounced p.cfg.num i loc new s)) ∧
    ∀ part p w, s.part? part = some p → p.walk = some w → (w.op = 2 → s.changesUnderWay part = false) →
      (remoteLocs s p w ≠ [] → w.remote = none → exec (.closureWalkEnd part) s = .next
        { s.updPart part fun p => { p with walk := some { w with remote := some none } } with
          out := s.out ++ [.countQuery s.aggregator part (remoteLocs s p w)] }) ∧
      ∀ op o d st, remoteLocs s p w = [] ∨ (∃ b, w.remote = some (some b)) → w.client = .instr op → s.op? op = some o →
        o.kind = .graph d →
        (walkEnd s p w = (st, none) → exec (.closureWalkEnd part) s = .next
          (((s.updPart part fun _ => { p with walk := none }).fill o.owner d (walkWord st p.graph)).dropOp op)) ∧
        ∀ g, walkEnd s p w = (st, some g) →
          (w.op = 0 → exec (.closureWalkEnd part) s = .next
            (((s.updPart part fun _ => p.afterWalk 0 g).fill o.owner d (walkWord st g)).dropOp op)) ∧
          (w.op ≠ 0 → exec (.closureWalkEnd part) s = .next (((relocate part p.graph g
            (s.updPart part fun _ => { p with graph := g, walk := none })).fill o.owner d (walkWord st g)).dropOp op))

/-- R105, R106, R116 to R120, R163, R164, R170 to R172: the bursts of a copy are sent in order within 64 of the watermark, in runs
that cross no 4 KiB granule, transferred once no cached copy of their destination is left, and landed, where the watermark advances and never passes the length; an access that waits for a watermark goes on when it is
covered, and traps when the channel is in error; a message is taken by the context that binds its class, or held; a gathering key that has
timed out launches with the callers present, and a launch record is placed as a gang of them. -/
def Obligations.StepsOfCopiesMessagesAndGalleys : Prop :=
  (∀ (c : Channel) (n : Nat), c.wm ≤ c.len → c.wm ≤ (advance c n).wm ∧ (advance c n).wm ≤ c.len ∧ (advance c n).len = c.len) ∧
  (∀ (tile n : Nat) (c : Channel) (x : StallAt), x.ch = n → x.released = false →
    (canonVa tile c.base + c.wm < x.hi → StallAt.pass tile n c x = x) ∧
    (x.hi ≤ canonVa tile c.base + c.wm → (StallAt.pass tile n c x).released = true ∧
      (StallAt.pass tile n c x).bad = if c.err then some (copyInfo c.errpos n (0x18 + c.errkind - 1)) else none)) ∧
  (∀ (t : Thread) (m : Msg),
    (t.state = .idleMsg → t.accept m true = some (t.startMsg m)) ∧
    (t.state ≠ .idleMsg → t.inbox.length < 8 → t.spillbox = [] → ∃ u, t.accept m true = some u ∧ u.inbox = t.inbox ++ [m]) ∧
    (t.state ≠ .idleMsg → 8 ≤ t.inbox.length → t.spillbox.length < 32 →
      ∃ u, t.accept m true = some u ∧ u.inbox = t.inbox ∧ u.spillbox = t.spillbox ++ [m]) ∧
    (t.state ≠ .idleMsg → 8 ≤ t.inbox.length → 32 ≤ t.spillbox.length → t.accept m true = none)) ∧
  ∀ (s : State),
    (∀ t ch k tm c s1, s.team? t = some tm → s.chan? t ch = some c → c.state = .active → s.drainOver tm = false →
      k < c.bursts → k < c.wm / 256 + 64 → k ∉ c.sent → (∀ j, j < k → j ∈ c.sent ∨ j < c.wm / 256) →
      s1 = (s.updChan t ch fun c => { c with sent := c.sent ++ [k], runs := c.runs ++ burstRuns s tm c k }) →
        (k + 1 ≠ c.bursts → exec (.burstSend t ch k) s = .next s1) ∧
        (k + 1 = c.bursts →
          exec (.burstSend t ch k) s = .next { s1 with copyReqs := s1.copyReqs.filter fun r => r != (t, ch) })) ∧
    (∀ tm c k va n r, r ∈ runsOf s tm c k va n → r.burst = k ∧ r.va.toNat % 4096 + r.len ≤ 4096) ∧
    (∀ t ch k tm c, s.team? t = some tm → s.chan? t ch = some c → c.state = .active → k ∈ c.sent → k ∉ c.moved →
      c.landed k = false → c.stalls = [] → s.drainOver tm = false → s.buffersFree tm c k = true →
      (burstStalls s tm c ch k ≠ [] → exec (.burstTransfer t ch k) s = .next
        (s.updChan t ch fun c => { c with stalls := c.stalls ++ burstStalls s tm c ch k })) ∧
      (burstStalls s tm c ch k = [] → ∀ s1 ps, burstPieces tm c k s = (s1, ps) →
        (∀ s2, s.await ⟨tm.cluster, 0, 4⟩ 0 (Piece.needs s tm c ps) = some s2 → exec (.burstTransfer t ch k) s = .next s2) ∧
        (s.await ⟨tm.cluster, 0, 4⟩ 0 (Piece.needs s tm c ps) = none → exec (.burstTransfer t ch k) s = .next
          (((Piece.errors ps).foldl (fun s x => dueError c x.2 x.1.st s) (ps.foldl (fun s p => match p with
            | .data off bs => writePiece tm c ch (chanWidth s c) off bs s
            | .bad j kind _ => s.updChan t ch fun c => c.bad j kind) s1)).updChan t ch
              fun c => { c with moved := c.moved ++ [k] })))) ∧
    (∀ t ch k tm c c1, s.team? t = some tm → s.chan? t ch = some c → c.state = .active → k ∈ c.moved → c.vdst = false →
      c1 = advance { c with bm := c.bm ||| 2 ^ (k - c.wm / 256), moved := c.moved.filter (· != k),
                            runs := c.runs.filter fun r => r.burst != k } 65536 →
        exec (.burstLanding t ch k) s = .next (finishChannel t ch (passStalls tm ch c1 ((s.updChan t ch fun _ => c1).updTeam t
          fun x => { x with chans := x.chans.map (releaseStalls tm.tile ch c1) })))) ∧
    (∀ c t xs, s.thread? c = some t → t.id = c → t.state = .parked (.stall xs) →
      ((∃ x ∈ xs, x.released = false) → exec (.watermarkStallRelease c) s = .next s) ∧
      ((∀ x ∈ xs, x.released = true) →
        ((∀ x ∈ xs, x.bad = none) → exec (.watermarkStallRelease c) s = .next
          ((acquire c .cl s).updThread c fun t => { t with state := .ready })) ∧
        ∀ x ys w, xs = x :: ys → x.bad = some w →
          exec (.watermarkStallRelease c) s = .next (trapped c ⟨0x0C, x.tval, w⟩ t.pc s))) ∧
    (∀ t tm p, s.team? t = some tm → tm.state = .saved → s.part? tm.part = some p →
      (tm.savedAt + p.drainlim ≤ s.time →
        exec (.channelDrainExpiry t) s = .next { s.updTeam t fun x => { x with chans := x.chans.map Channel.squash } with
          copyReqs := s.copyReqs.filter fun r => r.1 != t }) ∧
      (s.time < tm.savedAt + p.drainlim → exec (.channelDrainExpiry t) s = .next s)) ∧
    (∀ m i, m.dev = none → i = (if m.held then Instr.senderHeldAccept m.id else .messageArrival m.id) → s.msgs = [m] →
      (s.receiver m = none → exec i s = .next { s with msgs := [{ m with held := true }] }) ∧
      (∀ t th, s.receiver m = some (t, th) → th.accept m (t.state != .saved) = none →
        exec i s = .next { s with msgs := [{ m with held := true }] }) ∧
      ∀ t th th1, s.receiver m = some (t, th) → th.accept m (t.state != .saved) = some th1 → th.state ≠ .idleMsg →
        exec i s = .next (acceptMsg m { s.updThread th.id fun u => { th1 with monitors := u.monitors } with msgs := [] })) ∧
    (∀ key k, (s.keys.find? fun k => k.id == key) = some k → k.hdr.timeout ≠ 0 → k.since + k.hdr.timeout ≤ s.ac →
      k.callers ≠ [] → exec (.galleyTimeout key) s = .next (keysFreed k.part k.cluster { s with
        keys := s.keys.filter fun x => x.id != key
        launchRecs := s.launchRecs ++ [⟨k.part, k.cluster, k.entry, k.ptbase, k.hdr, k.callers⟩] })) ∧
    ∀ part cl r tile c cs, (s.launchRecs.find? fun r => r.part == part && r.cluster == cl) = some r → galleyTile s r = some tile →
      (s.freeGangCtx part cl tile).head? = some c → s.gang? c = none → cs = laneOrder r.callers → cs.length ≤ 128 →
        ∃ s' g, exec (.gangPlacement part cl) s = .next s' ∧ s'.gang? c = some g ∧ s'.launchRecs = s.launchRecs.erase r ∧
          g.id = c ∧ g.part = part ∧ g.team = none ∧ g.state = .ready ∧ g.pc = r.entry ∧ g.ptbase = r.ptbase ∧
          g.lanes = firstLanes cs.length ∧ g.callers = cs.map some ∧ g.width = r.hdr.lanes ∧ g.vregs = r.hdr.vregs ∧
          g.sregs = r.hdr.sregs ∧ g.accs = r.hdr.acc ∧
          ∀ l i d t, l < 128 → i < 8 → cs[l]? = some d → s.thread? d = some t →
            g.readX (8 + i) l = some (t.args.getD i 0)

/-! ## Queues, placement, heat -/

/-- R393, R398 to R404: the registers of a queue, the start of its packets by kind, a packet that its checks refuse, an abort, and
the completion of its oldest packet. -/
def Obligations.QueuesAndPackets : Prop :=
  ∀ (s : State) (q : QueueId) (x : Queue), s.queue? q = some x →
    (∀ v : Word,
      (v.toNat < x.qwr ∨ x.qrd + x.qsize < v.toNat →
        exec (.qwrDoorbell q v) s = .next (s.updQueue q fun x => { x with badwr := true })) ∧
      (x.qwr ≤ v.toNat → v.toNat ≤ x.qrd + x.qsize → exec (.qwrDoorbell q v) s = .next
        (watchPackets x x.qwr (v.toNat - x.qwr) (s.updQueue q fun x => { x with qwr := v.toNat }))) ∧
      (x.en = true → exec (.queueRegisterWrite q .qbase v) s = .next s ∧ exec (.queueRegisterWrite q .qsize v) s = .next s ∧
        exec (.queueRegisterWrite q .qpt v) s = .next s) ∧
      (x.en = false →
        exec (.queueRegisterWrite q .qpt v) s = .next (s.updQueue q fun x => { x with qpt := ptbaseOf v }) ∧
        (v.toNat % 4096 = 0 →
          exec (.queueRegisterWrite q .qbase v) s = .next ((s.bump 1).updQueue q fun x => { x with qbase := v })) ∧
        ((∃ k, k < 11 ∧ v.toNat = 64 * 2 ^ k) →
          exec (.queueRegisterWrite q .qsize v) s = .next ((s.bump 1).updQueue q fun x => { x with qsize := v.toNat }))) ∧
      (v.getLsbD 1 = false → exec (.queueRegisterWrite q .qctl v) s = .next (s.updQueue q fun x => { x with
        en := v.getLsbD 0, prio := v.toNat / 2 ^ 6 % 4, stopped := x.stopped && !v.getLsbD 2,
        ringfault := x.ringfault && !v.getLsbD 2, badwr := x.badwr && !v.getLsbD 8 }))) ∧
    exec (.qctlResume q) s = .next (s.updQueue q fun x => { x with stopped := false, ringfault := false }) ∧
    exec (.qctlBadwrClear q) s = .next (s.updQueue q fun x => { x with badwr := false }) ∧
    (∀ b, exec (.privokSet q b) s = .next (s.updQueue q fun x => { x with privok := b })) ∧
    (∀ l, s.launches = [l] → l.queue = q → l.state ≠ .ended → exec (.qctlKill q) s = .next (killLaunch l.uid none s)) ∧
    (∀ p, s.part? q.part = some p → p.stopped = false → p.held = false → x.en = true → x.stopped = false → x.qrd < x.qwr →
      s.waitingPkt q = none → s.launchWaits q = false →
      (readPacket x x.qrd s = none → exec (.packetStart q) s = .next
        (s.updQueue q fun x => { x with stopped := true, ringfault := true })) ∧
      ∀ s1 k, readPacket x x.qrd s = some (s1, k) → (k.flags.testBit 2 = true → ∀ y ∈ s.pkts, y.queue ≠ q) →
        (∀ s2 n, checkPacket x p k s1 = (s2, .error n) → exec (.packetStart q) s = .next
          ({ s2 with pkts := s2.pkts ++ [{ k with started := true, done := some ⟨2, n, 0⟩ }] }.updQueue q
            fun x => { x with qrd := x.qrd + 1 })) ∧
        (∀ s2 l, checkPacket x p k s1 = (s2, .ok l) → exec (.packetStart q) s = .next
          (watchSignals x k { s2 with pkts := s2.pkts ++ [{ k with plan := l }] })) ∧
        (k.kind = 0 ∨ 5 < k.kind → checkPacket x p k s1 = (s1, .error 1)) ∧
        (k.kind ≠ 0 → k.kind ≤ 5 → 8 ≤ k.flags → checkPacket x p k s1 = (s1, .error 2))) ∧
    (∀ k l, (s.ready? q 1 = some (x, k) → k.plan = some l → exec (.launchPacket q) s = .next (startLaunch q l s)) ∧
      (s.ready? q 2 = some (x, k) → k.plan = some l → exec (.folioLaunchPacket q) s = .next (startLaunch q l s)) ∧
      (s.ready? q 3 = some (x, k) → (k.body 2).toNat ≠ 0 → exec (.copyPacket q) s = .next
        (startPkt q (fun y => { y with copy := some (y.body 0, y.body 1, (k.body 2).toNat), done := none }) s)) ∧
      (∀ vs, s.ready? q 4 = some (x, k) → readSignals x k s = some vs → s.sawNegative k = false →
        (∀ i ∈ vs, i = 0) → exec (.signalWaitPacket q) s = .next (startPkt q (fun k => { k with done := some ⟨0, 0, 0⟩ }) s)) ∧
      (s.ready? q 4 = some (x, k) → s.sawNegative k = true → x.qwr = x.qrd + 1 → x.id = q → exec (.signalAbort q) s = .next
        (({ s with
          pkts := s.pkts.map fun (y : Pkt) =>
            if y.queue = q ∧ y.started = false then { y with started := true, done := some ⟨3, 0, 0⟩ } else y
          sigs := s.sigs.filter fun (w : SigWatch) => w.queue != q }.updQueue q fun y => { y with qrd := x.qrd + 1 }).updQueue q
          fun y => { y with stopped := true })) ∧
      (∀ s1 bs, s.ready? q 5 = some (x, k) → (s.part? q.part).elim true (·.walk.isSome) = false → (k.body 1).toNat % 4 ≠ 2 →
        queueDescriptor x (k.body 0) s = some (s1, bs) → exec (.graphInstallPacket q) s = .next
          (startWalk q.part ((k.body 1).toNat % 4) (bits (k.body 1).toNat 25 16) bs (.packet q k.index)
            (startPkt q (fun k => k) s1))) ∧
      ∀ d, (s.pkts.find? fun k => k.queue == q) = some k → k.done = some d →
        ∃ s', exec (.packetCompletion q) s = .next s' ∧ s'.pkts = s.pkts.erase k ∧ s'.out = s.out ++ [.msix q] ∧
          (k.csig = 0 → s'.mem =
            (queueStore x (k.va + 56) d.result (queueStore x (k.va + 48) (w64 (d.status % 256 + d.check % 256 * 256)) s)).mem)) ∧
    ∀ launch l p e, s.launch? launch = some l → s.part? l.part = some p → l.expect = some e → l.state = .held → p.held = false →
      (p.clseq = e → exec (.expectedSeqRelease launch) s = .next
        (s.updLaunch launch fun l => { l with state := .placing, startedAt := s.cc })) ∧
      (p.clseq.toNat < e.toNat → exec (.expectedSeqRelease launch) s = .next s) ∧
      (e.toNat < p.clseq.toNat → exec (.expectedSeqRelease launch) s = .next (completeLaunch launch ⟨2, 9, 0⟩
        ((dropLaunchMsgs launch 0 0 s).updLaunch launch fun l => { l with state := .ended })))

/-- R2, R174 to R176, R383, R388, R401: a team is placed on the tile that the distributor's order chooses and starts there at once,
with fresh contexts; a rectangle that is not complete 6,400 cc after its start gives everything back; heat and droop exclude a
tile, and five cool milliseconds bring it back. -/
def Obligations.PlacementAndHeat : Prop :=
  ∀ (s : State),
    (∀ u l cl tile p, s.launch? u = some l → l.uid = u → l.state = .placing → l.placed < l.teams → s.part? l.part = some p →
      p.held = false → p.stopped = false → s.seedsPending l = false → l.coresident = false → s.placeTile l = some (cl, tile) →
        exec (.teamPlacement u) s = .next (startTeam l ⟨u, l.placed⟩
          ((reserveTeam l cl tile s).updLaunch u fun l => { l with state := .started })) ∧ s.eligible l cl tile = true) ∧
    (∀ (c : CtxId) part i d entry pt priv,
      (freshThread c part i d entry pt priv).state = .ready ∧ (freshThread c part i d entry pt priv).pc = entry ∧
        (∀ r, (freshThread c part i d entry pt priv).getX r = ⟨0, true⟩) ∧ (freshThread c part i d entry pt priv).preds = 0 ∧
        (freshThread c part i d entry pt priv).priv = priv ∧ (freshThread c part i d entry pt priv).srseed = 1) ∧
    (∀ u l, s.launch? u = some l → l.state = .placing → l.coresident = true →
      (l.startedAt + 6400 ≤ s.cc → ∃ s', exec (.coresidentPlacementTimeout u) s = .next s' ∧
        (∀ t ∈ s'.threads, t.team.launch ≠ u) ∧ (∀ t ∈ s'.teams, t.id.launch ≠ u) ∧
        (∀ t ∈ s.threads, t.team.launch ≠ u → t ∈ s'.threads) ∧ s'.mem = s.mem ∧
        ∃ l', s'.launch? u = some l' ∧ l'.state = .waiting ∧ l'.placed = 0) ∧
      (s.cc < l.startedAt + 6400 → exec (.coresidentPlacementTimeout u) s = .next s)) ∧
    (∀ cl tile temp,
      (∃ s', exec (.thermalExclusion cl tile temp) s = .next s' ∧ (s'.thermalOf cl tile).temp = temp ∧
        (95 < temp → (s'.thermalOf cl tile).excluded = true) ∧
        (temp ≤ 95 → (s'.thermalOf cl tile).excluded = (s.thermalOf cl tile).excluded) ∧
        ∀ c t, ¬ (c = cl ∧ t = tile) → s'.thermalOf c t = s.thermalOf c t) ∧
      (temp < 88 → ∀ since, (s.thermalOf cl tile).coolSince = some since → since + 5 * ccPerMs ≤ s.cc →
        ∃ s', exec (.thermalReinstatement cl tile temp) s = .next s' ∧ (s'.thermalOf cl tile).excluded = false) ∧
      (temp < 88 → ∀ since, (s.thermalOf cl tile).coolSince = some since → s.cc < since + 5 * ccPerMs →
        ∃ s', exec (.thermalReinstatement cl tile temp) s = .next s' ∧
          (s'.thermalOf cl tile).excluded = (s.thermalOf cl tile).excluded) ∧
      ∃ s', exec (.droopEvent cl tile) s = .next s' ∧
        (manyDroops (((s.thermalOf cl tile).droops.filter fun d => s.cc < d + ccPerMs) ++ [s.cc]) = true →
          (s'.thermalOf cl tile).excluded = true) ∧
        (((s.thermalOf cl tile).droops.filter fun d => s.cc < d + ccPerMs).length < 8 →
          (s'.thermalOf cl tile).excluded = (s.thermalOf cl tile).excluded)) ∧
    exec .thermalThrottle s = .next { s with throttled := true } ∧
    exec .thermalThrottleEnd s = .next { s with throttled := false }

/-! ## Pre-emption, tenants, parts -/

/-- R177, R374, R383, R384, R386, R387, R389 to R394, R397: pre-emption raises PREEMPT on the tiles, stops the running teams there at
their boundaries and saves them once every one can be saved; one for a higher priority waits for a co-resident placement; a saved team
comes back on a tile that is eligible; a kill ends the launch; a tenant switch that succeeds leaves nothing of the outgoing tenant in
contexts, graph or device memory but the colophon, takes the new pairs and ranges, and advances CLSEQ by one; one that fails holds the
partition. -/
def Obligations.PreemptionAndTenants : Prop :=
  ∀ (s : State),
    (∀ part tiles why ts r s1, r = (⟨part, tiles, some why, none, true⟩ : PreReq) → s.preReqs = [] →
      ts = (s.teams.filter fun t => t.state == .running && (t.part == part && tiles.contains (t.cluster, t.tile))).flatMap s.saveGroup →
      s1 = { s with
        preReqs := [r]
        preempt := s.preempt ++ tiles.map fun p => (p.1, p.2, ⟨0x15, w64 part, w64 (PreReason.code why)⟩) } →
      ((why = .higherPriority → s.placingRect part = false) →
        (ts.all s1.savable = true → exec (.partitionPreempt part tiles why) s = .next { saveGroups (ts.map (·.id)) s1 with
          preReqs := (saveGroups (ts.map (·.id)) s1).preReqs.filter fun x => x != r }) ∧
        (ts.all s1.savable = false → exec (.partitionPreempt part tiles why) s = .next (s1.askSaves ts))) ∧
      (why = .higherPriority → s.placingRect part = true → exec (.partitionPreempt part tiles why) s = .next { s with
        preReqs := [⟨part, tiles, some why, none, false⟩] })) ∧
    (∀ r ∈ s.preReqs, r.raised = true → ∀ t ∈ r.teams s, (∀ u ∈ s.threads, u.team = t.id → s.canIssueT u = false) ∧
      ∀ g ∈ s.gangs, g.team = some t.id → g.line = none → s.canIssueG g = false) ∧
    (∀ v b im t, s.team? t.id = some t →
      ∃ u, (saveTeam v b im t s).team? t.id = some u ∧ u.state = .saved ∧ u.cluster = v ∧ u.tile = t.tile ∧ u.part = t.part) ∧
    (∀ part p, s.part? part = some p →
      (p.slice = 0 ∨ 0 < p.sliceLeft → exec (.timeSliceExpiry part) s = .next s) ∧
      (p.slice ≠ 0 → p.sliceLeft = 0 → exec (.timeSliceExpiry part) s = exec (.partitionPreempt part
        ((p.cfg.pairs.map (·.1)).eraseDups.flatMap fun c => (List.range 64).map fun t => (c, t)) .sliceEnd)
          (s.updPart part fun q => { q with sliceLeft := q.slice }))) ∧
    (∀ t l p cl tile, s.team? t.id = some t → s.launch? t.id.launch = some l → t.state = .saved → l.state ≠ .ended →
      l.coresident = false → (∀ v ∈ s.saved, v.id = t.id → v.byCtxsave = false) → s.part? l.part = some p → p.held = false →
      p.stopped = false → s.restoreTile l t = some (cl, tile) →
      exec (.contextRestore t.id) s = .next (endRestores [t.id] 0 (restoreTeam l cl tile t.id s))) ∧
    (∀ c t, s.thread? c = some t → exec (.kill c) s = .next (killLaunch t.team.launch none s)) ∧
    (∀ c g i, s.thread? c = none → s.gang? c = some g → g.team = some i → exec (.kill c) s = .next (killLaunch i.launch none s)) ∧
    (∀ part incoming p cfg c, s.part? part = some p → c = cfg.getD p.cfg →
      (∀ x, cfg = some x → x.num = part ∧ configOk x = true ∧ ∀ q ∈ s.parts, q.cfg.num ≠ part → configsApart x q.cfg = true) →
      (∃ s' q, exec (.tenantSwitch part ⟨incoming, cfg⟩ true) s = .next s' ∧ s'.part? part = some q ∧ q.held = true ∧ q.clseq = p.clseq ∧
        (∀ t ∈ s'.threads, t.part ≠ part)) ∧
      (s.storesOk = true → ∃ s' q, exec (.tenantSwitch part ⟨incoming, cfg⟩ false) s = .next s' ∧ s'.part? part = some q ∧
        q.clseq = w64 (s.seqOf part + 1) ∧ s'.seqOf part = s.seqOf part + 1 ∧ q.held = false ∧ q.cfg = { c with tenant := incoming } ∧
        q.graph = Graph.empty ∧ q.counts = [] ∧ q.opened = [] ∧ q.pins = [] ∧
        (∀ t ∈ s'.threads, t.part ≠ part) ∧ (∀ g ∈ s'.gangs, g.part ≠ part) ∧ (∀ t ∈ s'.teams, t.part ≠ part) ∧
        (∀ e ∈ s'.tlb, e.part ≠ part) ∧
        ∃ n, ∀ a, inRanges (p.cfg.devRanges ++ c.devRanges) a = true → (a < c.claddr ∨ c.claddr + n ≤ a) → byteAt s' .mem a = 0)) ∧
    ∀ cl tile, (s.retired.contains (cl, tile) = false →
      exec (.tileRetire cl tile) s = .next { s with retired := s.retired ++ [(cl, tile)] }) ∧
      (s.retired.contains (cl, tile) = true → exec (.tileRetire cl tile) s = .next s)

/-- R77, R150, R405 to R407, R410: a faulted part ends the launches that it meets, or runs them again when their header says so;
links deliver a class's flits in their sequence, once each; the last link to fail counts as a fault of every other device; an
uncorrectable error stays in the only copy of data until it is written; and the debug port reaches parked gangs. -/
def Obligations.FaultsLinksAndDebugging : Prop :=
  ∀ (s : State),
    (∀ cl tile u l, s.retired.contains (cl, tile) = false → s.launch? u = some l → l.state ≠ .ended → l.state ≠ .held →
      s.launchesOn cl tile = [u] →
      (l.hdr.flags % 2 = 0 → exec (.partFault (.tile cl tile)) s = .next
        (killLaunch u none (completeLaunch u ⟨4, 0, 0⟩ { s with retired := s.retired ++ [(cl, tile)] }))) ∧
      (l.hdr.flags % 2 = 1 → exec (.partFault (.tile cl tile)) s = .next
        (restartLaunch u { s with retired := s.retired ++ [(cl, tile)] }))) ∧
    (∀ n, s.launches = [] → exec (.partFault (.stack n)) s = .next s) ∧
    exec (.partFault .managementCore) s = .next s ∧
    (∀ n, exec (.partFault (.link n)) s = exec (.linkFailure n) s ∧
      ∃ s', exec (.linkFailure n) s = .next s' ∧ s'.links = s.links.setIfInBounds n false ∧
        ((∀ b ∈ s'.links.toList, b = false) → s'.jobFaulted = true) ∧
        ((∃ b ∈ s'.links.toList, b = true) → s'.jobFaulted = s.jobFaulted)) ∧
    (∀ dev, ∃ s', exec (.deviceFault dev) s = .next s' ∧ s'.jobFaulted = true ∧ dev ∈ s'.faultedDevices ∧ s'.mem = s.mem) ∧
    (∀ link crc dev cls seq m,
      (s.links[link]?.getD false = false → exec (.linkFlitReceive link crc dev cls seq m) s = .next s) ∧
      (s.links[link]?.getD false = true →
        exec (.linkFlitReceive link false dev cls seq m) s = .next (s.countErr (256 + link)) ∧
        (seq < s.linkSeq dev cls → exec (.linkFlitReceive link true dev cls seq m) s = .next s) ∧
        (s.linkHeld = [] → s.linkSeq dev cls < seq → exec (.linkFlitReceive link true dev cls seq m) s = .next
          { s with linkHeld := [(dev, cls, seq, m)] }) ∧
        (s.linkHeld = [] → seq = s.linkSeq dev cls → exec (.linkFlitReceive link true dev cls seq m) s = .next
          (deliverLink dev m { s with
            linkSeqs := (dev, cls, seq + 1) :: s.linkSeqs.filter fun y => !(y.1 == dev && y.2.1 == cls) })))) ∧
    (∀ key, exec (.uncorrectableError .quire key true) s = .next { s.countErr ErrStruct.quire.code with
        errs := s.errs ++ [⟨.quire, key, 0, none⟩] } ∧
      exec (.uncorrectableError .scalarL1 key false) s = .next { s.countErr ErrStruct.scalarL1.code with
        l1 := s.l1.filter fun l => l.line != key || l.st == .m
        coh := s.coh ++ (s.l1.filter fun l => l.line == key && l.st != .m).map fun l => ⟨l.st.put, l.core, l.line, 0, false⟩ }) ∧
    (∀ part b, exec (.debugEnable part b) s = .next (s.updPart part fun p => { p with debug := b })) ∧
    ∀ part vf ident team gang item,
      (s.debugGang part vf ident team gang = none →
        exec (.debugPortRead part vf ident team gang item) s = .next { s with out := s.out ++ [.debug none] } ∧
        ∀ v, exec (.debugPortWrite part vf ident team gang item v) s = .next { s with out := s.out ++ [.debug none] }) ∧
      ∀ g, s.debugGang part vf ident team gang = some g →
        (g.isParked = true → g.holds item = true →
          exec (.debugPortRead part vf ident team gang item) s = .next { s with out := s.out ++ [.debug (some (g.debugRead item))] } ∧
          (s.errs = [] → ∀ v, exec (.debugPortWrite part vf ident team gang item v) s = .next
            { s.setGang (g.debugWrite item v) with out := s.out ++ [.debug (some [])] })) ∧
        (g.isParked = false → g.id.onDevice = true →
          exec (.debugPortRead part vf ident team gang item) s = .next { s with out := s.out ++ [.debug none] } ∧
          ∀ v, exec (.debugPortWrite part vf ident team gang item v) s = .next { s with out := s.out ++ [.debug none] })

/-! ## The device's services -/

/-- R150, R391, R396 to R398, R408 to R416: boot, verified or into recovery; the answers of the security core, which it gives
while the firmware runs and in recovery; images, of which a rejected one changes nothing; partitions and functions; snapshots;
and live migration. -/
def Obligations.DeviceServices : Prop :=
  ∀ (s : State),
    (s.fw.boot = .off → exec .powerOn s = .next { s with fw := { s.fw with boot := .securityCore }, links := Vector.replicate 16 true }) ∧
    (∃ s', exec (.resetBoot true) s = .next s' ∧ s'.threads = [] ∧ s'.gangs = [] ∧ s'.teams = [] ∧ s'.launches = [] ∧ s'.parts = [] ∧
      s'.mem = s.mem ∧ s'.fw.slot = s.fw.slot ∧ s'.scrubSeq = s.scrubSeq ∧
      (s.fw.interrupted = false → s'.fw.boot = .running ∧ s'.fw.running = s.fw.slot) ∧
      (s.fw.interrupted = true → s'.fw.boot = .recovery)) ∧
    (∃ s', exec (.resetBoot false) s = .next s' ∧ s'.threads = [] ∧ s'.fw.boot = .recovery ∧ s'.mem = s.mem ∧
      s'.fw.slot = s.fw.slot) ∧
    (s.fw.boot = .running ∨ s.fw.boot = .recovery → ∀ (i : Instr),
      (i = .getVersion ∨ i = .getCapabilities ∨ i = .negotiateAlgorithms ∨ i = .getDigests ∨
        (∃ n, n < 2 ∧ i = .getCertificate n) ∨ (∃ nonce, i = .challenge nonce) ∨
        ∃ k, (1 ≤ k ∧ k ≤ 5 ∨ k = 0xFF) ∧ i = .getMeasurements k) →
        ∃ bs, exec i s = .next { s with out := s.out ++ [.spdm bs] }) ∧
    (∀ image version,
      (s.fw.boot = .running → s.fw.version ≤ version →
        exec (.firmwareUpdate image version true false) s = .next { s with
          fw := { s.fw with slot := image, version := version, interrupted := false } } ∧
        exec (.firmwareUpdate image version true true) s = .next { s with fw := { s.fw with interrupted := true } }) ∧
      (∀ cut, exec (.firmwareUpdate image version false cut) s = .next s) ∧
      (version < s.fw.version → ∀ ok cut, exec (.firmwareUpdate image version ok cut) s = .next s) ∧
      (s.fw.boot = .recovery → exec (.recoveryImageLoad image version true) s = .next { s with
        fw := { s.fw with boot := .running, slot := image, version := version, interrupted := false, running := image,
                          measurement := Config.sha384 image } }) ∧
      (s.fw.boot ≠ .recovery → exec (.recoveryImageLoad image version true) s = .next s) ∧
      exec (.recoveryImageLoad image version false) s = .next s) ∧
    (∀ cfg, s.fw.boot = .running → configOk cfg = true → (∀ p ∈ s.parts, configsApart cfg p.cfg = true) →
      ∃ s' p, exec (.partitionCreate cfg) s = .next s' ∧ s'.part? cfg.num = some p ∧
        p.cfg = cfg ∧ p.clseq = w64 (s.seqOf cfg.num + 1) ∧ p.held = false ∧ p.graph = Graph.empty ∧ p.drainlim = 0x7D00 ∧
        s'.seqOf cfg.num = s.seqOf cfg.num + 1) ∧
    (∀ cfg p, p ∈ s.parts → configsApart cfg p.cfg = false → exec (.partitionCreate cfg) s = .next s) ∧
    (∀ part vf, s.fw.boot = .running → (s.part? part).isSome = true → vf < 192 → (∀ v ∈ s.vfs, v.num ≠ vf) →
      (s.vfs.filter fun v => v.part == part).length < 4 → exec (.vfAssign part vf) s = .next { s with
        vfs := s.vfs ++ [{ part := part, num := vf, errq := [], drops := 0, counters := Counters.zero }]
        queues := s.queues ++ (List.range 16).map fun i => Queue.fresh ⟨part, vf, i⟩ }) ∧
    (∀ part vf dst c, (vf = 0xFF ∧ (∃ p, s.part? part = some p ∧ c = p.counters) ∨
        vf ≠ 0xFF ∧ ∃ v, (s.vfs.find? fun v => v.part == part && v.num == vf) = some v ∧ c = v.counters) →
      ∃ body, exec (.snapshotRequest part vf dst) s = .next
        (writeOutside dst (body ++ Config.ed25519 body ++ Config.mlDsa65 body) { s with snapshots := s.snapshots + 1 })) ∧
    (∀ part log cap, exec (.exportTracking part log cap) s = .next (s.updPart part fun p =>
        { p with exporting := some { log := log, cap := min cap 1048576, pages := [],
                                     overflow := p.exporting.elim false (·.overflow) } }) ∧
      exec (.exportTrackingDisable part) s = .next (s.updPart part fun p => { p with exporting := none })) ∧
    (∀ part vf dst p, s.part? part = some p → (s.vfs.any fun v => v.part == part && v.num == vf) = true →
      (∀ t ∈ s.teams, t.part = part → t.state ≠ .running ∧ t.state ≠ .draining) →
        ∃ s' q, exec (.finalExport part vf dst) s = .next s' ∧ s'.part? part = some q ∧ q.stopped = true ∧
          s'.out = s.out ++ [.exported part (p.exporting.elim false (·.overflow))
            (if p.exporting.elim false (·.overflow) = true then p.allPages else p.exporting.elim [] (·.pages))]) ∧
    (∀ part vf src p r, s.part? part = some p → s.exportAt part vf src = some r →
      pairsShape p.cfg.pairs = pairsShape r.pairs →
        ∃ s' q, exec (.importState part vf src) s = .next s' ∧ s'.part? part = some q ∧ q.stopped = false ∧
          s'.queues = (s.queues.map fun x => (r.queues.find? fun y => y.id == x.id).getD x) ∧
          ∀ l ∈ r.images.launches, (∀ x ∈ s.launches, x.uid = l.uid → x.state = .ended) →
            l ∈ s'.launches ∧ (∀ t ∈ r.images.teams, t.id.launch = l.uid → t ∈ s'.teams) ∧
            (∀ x ∈ r.images.threads, x.team.launch = l.uid → x ∈ s'.threads) ∧
            ∀ g ∈ r.images.gangs, ∀ i, g.team = some i → i.launch = l.uid → g ∈ s'.gangs) ∧
    ∀ part p counts, s.part? part = some p →
      ∃ s' q, exec (.jobCountRestore part counts) s = .next s' ∧ s'.part? part = some q ∧ s'.jobFaulted = false ∧
        s'.faultedDevices = [] ∧ q.opened.contains (.system part) = true ∧
        q.counts = counts.foldl (fun l c => addCount ⟨.system part, c.1, c.2.1⟩ c.2.2 l)
          (p.counts.filter fun c => c.pt.inst != .system part)

/-! ## The machine -/

/-- R206, R208, R223 (and log 13 for the agenda): a step whose turn is a context's executes the instruction that the context's line
holds at its PC, once the slot has come; a line that none is entered is fetched first, which waits for its translation, traps where that
faults, and takes its 64 bytes from memory where the instruction cache does not hold it; a turn that is a step of the device itself executes that step; and time passes by what a tick says. -/
def Obligations.StepRunsDecoded : Prop :=
  ∀ (s : State) (ts : List Turn),
    (∀ (t : Thread) (i : Instr) (l : Nat), s.agenda = .run t.id :: ts → s.thread? t.id = some t → s.canIssueT t = true →
      t.dueMachine = [] ∨ t.inTrap = true →
      headDecodes false l (t.pc.toNat % 64) i →
        (t.line = some l → step s = exec i (issuedT t (s.slotT t) { s with agenda := ts })) ∧
        (t.line = none → ∀ s1, enterLine t.id t.part t.ptbase t.pc t.flags { s with agenda := ts } = .start s1 l →
          step s = exec i (issuedT t (s.slotT t) (s1.updThread t.id fun t => { t with line := some l, state := .ready })))) ∧
    (∀ (g : Gang) (i : Instr) (l ac : Nat), s.agenda = .run g.id :: ts → s.thread? g.id = none → s.gang? g.id = some g →
      s.nextGang g.id g.part = some g → g.dueMachine = [] → g.line = some l → headDecodes true l (g.pc.toNat % 64) i →
      ac = wideSlotFrom (s.quarters g.part g.id.cluster) (max s.ac (s.wideSlot g.id g.part).free) 4 →
        step s = exec i (issuedG g ac (passes g.width (gAt g.pc l) i) { s with agenda := ts })) ∧
    (∀ i, s.agenda = .event i :: ts → i.coded = false → step s = exec i { s with agenda := ts }) ∧
    (∀ n, s.agenda = .tick n :: ts → step s = .next (({ s with agenda := ts } : State).passTo (s.cc + n))) ∧
    ∀ (c : CtxId) (part : Nat) (pt pc va : Word) (fl : Flags), va = w64 (pc.toNat / 64 * 64) → window va = 0 →
      (∀ s1, translateFor c part pt va .fetch s = .wait s1 → enterLine c part pt pc fl s = .wait s1) ∧
      (∀ s1 e, translateFor c part pt va .fetch s = .fault s1 e → enterLine c part pt pc fl s = .trap s1 (e.trap va .fetch)) ∧
      ∀ e, translateFor c part pt va .fetch s = .ok s e → s.icache = [] → s.codeOld = [] → s.errs = [] →
      ∀ l, l = leNat (rdBytes s.mem (e.pa va.toNat) 64) → lineCheck l (pc.toNat % 64) = none →
        waitHolds fl (lineWait l) = true → ∃ s1, enterLine c part pt pc fl s = .start s1 l ∧ s1.threads = s.threads ∧ s1.mem = s.mem

/-- R207, R223: a head whose guard is false in its thread only ends: the next head follows and nothing else changes. `ldp` and `stp` with
x31 trap before the guard is looked at. -/
def Obligations.GuardFalseHasNoEffect : Prop :=
  ∀ (i : Instr) (h : Hd) (opc tail : Nat) (s : State) (t : Thread), encBody i = some (h, opc, tail) → wideOnly opc = false →
    (∀ r, i = .ldp h r ∨ i = .stp h r → r.xd ≠ 31) → s.cur = some t.id → s.thread? t.id = some t → t.guard h = false →
      exec i s = .next (doneT t.id s)

/-- The frame of register instructions (R244 to R269): when one of them gives a next state, no byte of memory and no other context has
changed, nor anything of its thread but the destination registers, the destination predicates, the seed of one that rounds, and the
issue state; every flag stays. -/
def Obligations.RegisterFrame : Prop :=
  ∀ (i : Instr) (xs : List Reg) (ps : List PReg) (seed : Bool) (s s' : State) (t : Thread),
    frameOf i = some (xs, ps, seed) → s.cur = some t.id → s.thread? t.id = some t → t.queueOn = false → s.errs = [] →
    exec i s = .next s' →
      s' = { s with threads := s'.threads } ∧ (∀ d, d ≠ t.id → s'.thread? d = s.thread? d) ∧
        ∃ u, s'.thread? t.id = some u ∧
          u = { t with pc := u.pc, line := u.line, issued := u.issued, state := u.state, x := u.x, preds := u.preds,
                       srseed := u.srseed } ∧
          (∀ r, r ∉ xs.map (·.toNat) → u.getX r = t.getX r) ∧
          (∀ p, p ∉ ps → u.preds.getLsbD p.toNat = t.preds.getLsbD p.toNat) ∧ (seed = false → u.srseed = t.srseed)

/-- R388, R416 (and log 1 for what unwritten memory reads as): after reset there is no context and no partition, and memory is in its
canonical form; a fresh thread's and a fresh gang's registers read zero and full, their flags are zero and their control registers hold
their reset values. -/
def Obligations.ResetAndFreshContexts : Prop :=
  (State.reset.threads = [] ∧ State.reset.gangs = [] ∧ State.reset.teams = [] ∧ State.reset.parts = [] ∧ State.reset.queues = [] ∧
    State.reset.cc = 0 ∧ State.reset.fw.boot = .off ∧ State.reset.storesOk = true ∧ ∀ sp a, byteAt State.reset sp a = 0) ∧
  (∀ (s : State) (c : CtxId) (part : Nat) (i : TeamId) (d : Nat) (entry pt : Word) (priv : Bool) (t : Thread),
    t = freshThread c part i d entry pt priv → (∀ r, t.getX r = ⟨0, true⟩) ∧ (∀ k : Nat, t.flags[k]?.getD 0 = 0) ∧
      t.preds = 0 ∧ t.caps = [] ∧ t.monitors = [] ∧ t.recvq = [] ∧ t.sb = [] ∧
      csrReadT s t 0x011 = 1 ∧ csrReadT s t 0x020 = 0 ∧ csrReadT s t 0x080 = pt ∧
      ∀ n, n = 0x012 ∨ n = 0x013 ∨ (0x040 ≤ n ∧ n ≤ 0x045) → csrReadT s t n = 0) ∧
  ∀ (c : CtxId) (part : Nat) (team : Option TeamId) (num : Nat) (h : KHdr) (entry pt : Word) (lanes : Mask) (g : Gang),
    g = freshGang c part team num h entry pt lanes → (∀ r l, g.getV r l = 0 ∧ g.fullV r l = true) ∧ (∀ r, g.getS r = 0) ∧
      (∀ a i n, g.getAcc a i n = 0) ∧ (∀ p l, p ≠ 0 → g.pred p l = false) ∧ (∀ k : Nat, g.flags[k]?.getD 0 = 0) ∧ g.srseed = 1 ∧
      g.caps = [] ∧ g.matOps = []

/-- An invariant of the whole machine (log 1): whatever a step does, an instruction or a step of the device itself, the stores of the
device stay in canonical form: addresses strictly rising, and no byte listed that reads zero anyway. -/
def Obligations.StepKeepsStores : Prop :=
  ∀ (s s' : State), s.storesOk = true → step s = .next s' → s'.storesOk = true

/-- R205, R206, R212 to R222 and the encodings of the entries: for every well-formed instruction of FIS-3, with every operand at every
value that its encoding admits, decoding what it encodes to gives it back. -/
def Obligations.EncodingRoundTrip : Prop :=
  ∀ (i : Instr), i.coded = true → i.wf = true → ∃ head tail, encode i = some (head, tail) ∧
    decodeTableWord (16 + tailBits (bits head 15 14)) (head + 2 ^ 16 * tail) = some i

/-- R207, R212, R213, R214, R238, R256, R311, R345, R349, R361, R366: the words that the worked examples of `spec/` write out bit by
bit decode to the instructions they stand for. -/
def Obligations.DecodesSpecWords : Prop :=
  let h : Hd := ⟨0, false, false⟩
  decodeTableWord 32 (0x4400 + 2 ^ 16 * 0x6312) = some (.add h ⟨12, 12, 9, false⟩) ∧
  decodeTableWord 48 0x8088 = some (.br ⟨2, false, false⟩ ⟨0, 0⟩) ∧
  decodeTableWord 48 (0x8CC0 + 2 ^ 16 * 0x11520006) = some (.cmp h .ltI .or 2 5 6 false) ∧
  decodeTableWord 48 (0x8480 + 2 ^ 16 * 0x52800005) = some (.addi h ⟨10, 10, 5, false⟩) ∧
  decodeTableWord 64 (0xC200 + 2 ^ 16 * 0x480000000000) = some (.loop h 9 ⟨0, 0⟩) ∧
  decodeTableWord 48 (0x9400 + 2 ^ 16 * 0x49020100) = some (.ld h .n32 ⟨9, 4, 0x100, false⟩) ∧
  decodeTableWord 48 (0x9000 + 2 ^ 16 * 0x20800003) = some (.pand h 4 2 3 false false) ∧
  decodeTableWord 64 (0xD800 + 2 ^ 16 * 0x4A800008540B) = some (.amo h .add .cl .rel true ⟨9, 10, 11, false⟩ 8) ∧
  decodeTableWord 64 (0xDD00 + 2 ^ 16 * 0x1001) = some (.send h 1 1 0 0) ∧
  decodeTableWord 16 0x1FC0 = some (.gret h) ∧
  decodeTableWord 64 (0xE0C0 + 2 ^ 16 * 0x050503C28220) = some (.vfma h false ⟨.f32, .rz, false, 10, 20, 30⟩ 40) ∧
  decodeTableWord 64 (0xE900 + 2 ^ 16 * 0x140201204203) = some (.vtopk h .f32 ⟨40, 8, 9⟩ 4 3) ∧
  decodeTableWord 64 (0xEAC8 + 2 ^ 16 * 0x0C0585200209) = some (.vamo ⟨2, false, false⟩ (.op .fadd) .f32 false ⟨24, 22, 41⟩) ∧
  decodeTableWord 64 (0xF000 + 2 ^ 16 * 0x242991980002) = some (.mma h ⟨1, 4, 5, 100, .e2m1, .e2m1, false, true⟩) ∧
  decodeTableWord 64 (0xF100 + 2 ^ 16 * 0x200000000004) = some (.mrd h 1 0 0 0 (.fp .f16 .rn false))

/-- R206, R207, R214 to R223: the other way round: a word that decodes is, bit for bit, the encoding of a well-formed instruction, so that
no assigned field is dropped and a word with a reserved bit that is not zero decodes to nothing. -/
def Obligations.DecodedWordsAreEncodings : Prop :=
  ∀ (head tail : Nat) (i : Instr), head < 2 ^ 16 → tail < 2 ^ tailBits (bits head 15 14) → decode head tail = .ok i →
    i.coded = true ∧ i.wf = true ∧ encode i = some (head, tail)
end

