-- ==== Sys2Proof/Laws/Access.lean ====
section
/-! SUPPORT. What the checks of R279 answer when every one of them passes: one place for each piece, lane by lane. -/

namespace Sys2Proof.Machine

theorem placeAll_length {ag : Agent} {va : Word} {k : AccKind} {ho : Bool} :
    ∀ (ps : List (Word × Nat)) (s s1 : State) (as : List Acc), placeAll ag va k ho ps s = .ok s1 as → as.length = ps.length
  | [], s, s1, as, h => by simp [placeAll] at h; simp [← h.2]
  | (a, n) :: ps, s, s1, as, h => by
    simp only [placeAll] at h
    split at h <;> try (simp at h; done)
    split at h <;> try (simp at h; done)
    split at h <;> try (simp at h; done)
    split at h
    · rename_i hh; simp at h; rw [← h.2]; simp [placeAll_length ps _ _ _ hh]
    · rename_i h1; exact absurd h (h1 _ _)

theorem pieces_length (ns : List Nat) : ∀ va, (pieces va ns).length = ns.length := by
  induction ns with
  | nil => intro va; rfl
  | cons n ns ih => intro va; simp [pieces, ih]

/-- An access whose checks pass gets a place for each of its pieces. -/
theorem checkPieces_length {ag : Agent} {va : Word} {ns : List Nat} {al : Nat} {k : AccKind} {ho : Bool} {s s1 : State}
    {as : List Acc} (h : checkPieces ag va ns al k ho s = .ok s1 as) : as.length = ns.length := by
  unfold checkPieces at h
  split at h
  · simp at h
  · split at h
    · simp at h
    · split at h
      · simp at h
      · split at h
        · rename_i hh
          split at h
          · simp at h; obtain ⟨_, rfl⟩ := h; rw [placeAll_length _ _ _ _ hh, pieces_length]
          · simp at h
        · rename_i h1; exact absurd h (h1 _ _)

theorem place_stall {ag : Agent} {va : Word} {n : Nat} {k : AccKind} {s s1 : State} {xs : List StallAt} :
    place ag va n k s ≠ .stall s1 xs := by
  unfold place; intro h
  split at h
  · simp at h
  · split at h
    · split at h <;> simp at h
    · split at h
      · simp at h
      · split at h <;> simp at h

/-- The places of the pieces of an access wait for no watermark. -/
theorem placeAll_stall {ag : Agent} {va : Word} {k : AccKind} {ho : Bool} :
    ∀ (ps : List (Word × Nat)) (s s1 : State) (xs : List StallAt), placeAll ag va k ho ps s ≠ .stall s1 xs
  | [], s, s1, xs => by simp [placeAll]
  | (a, n) :: ps, s, s1, xs => by
    simp only [placeAll]
    split
    · rename_i hp; exact absurd hp place_stall
    · simp
    · simp
    · split
      · simp
      · split
        · simp
        · split
          · simp
          · exact placeAll_stall ps _ _ _

/-- An access that waits for a watermark names at least one. -/
theorem checkPieces_stall {ag : Agent} {va : Word} {ns : List Nat} {al : Nat} {k : AccKind} {ho : Bool} {s s1 : State}
    {xs : List StallAt} (h : checkPieces ag va ns al k ho s = .stall s1 xs) : xs ≠ [] := by
  unfold checkPieces at h
  split at h <;> try (simp at h; done)
  split at h <;> try (simp at h; done)
  split at h <;> try (simp at h; done)
  split at h
  · split at h
    · simp at h
    · simp at h; obtain ⟨_, rfl⟩ := h; simp_all
  · exact absurd h (placeAll_stall _ _ _ _)

/-- Lanes none of which faults or stalls: every lane is there, in order, with a place for each of its pieces. -/
theorem checkLanes_good {ag : Agent} {ns : List Nat} {al : Nat} {k : AccKind} {ho : Bool} :
    ∀ (rows : List (Nat × Word)) (s s1 : State) (good : List (Nat × List Acc)),
      checkLanes ag ns al k ho rows s = ⟨s1, good, [], [], false⟩ →
      good.map (·.1) = rows.map (·.1) ∧ ∀ x ∈ good, x.2.length = ns.length
  | [], s, s1, good, h => by simp [checkLanes] at h; simp [h]
  | (l, va) :: rows, s, s1, good, h => by
    simp only [checkLanes] at h
    split at h
    · rename_i s2 as hck
      simp at h
      obtain ⟨h1, h2, h3, h4, h5⟩ := h
      have ih := checkLanes_good rows s2 s1 (checkLanes ag ns al k ho rows s2).good (by rw [← h1, ← h3, ← h4, ← h5])
      subst h2
      refine ⟨by simp [ih.1], ?_⟩
      intro x hx
      rcases List.mem_cons.1 hx with rfl | hx
      · exact checkPieces_length hck
      · exact ih.2 x hx
    · simp at h
    · rename_i hck
      simp at h
      have := checkPieces_stall hck
      simp_all
    · simp at h

/-- A map over lanes that answers in every lane keeps the lanes. -/
theorem mapM_lanes {β : Type} {f : Nat → Option β} :
    ∀ (ls : List Nat) (rows : List (Nat × β)), ls.mapM (fun l => (f l).map fun v => (l, v)) = some rows → rows.map (·.1) = ls
  | [], rows, h => by simp at h; simp [h]
  | l :: ls, rows, h => by
    simp only [List.mapM_cons] at h
    cases hf : f l with
    | none => simp [hf] at h
    | some v =>
      cases hm : ls.mapM (fun l => (f l).map fun v => (l, v)) with
      | none => simp [hf, hm] at h
      | some bs => simp [hf, hm] at h; subst h; simp [mapM_lanes ls bs hm]

/-- A map over the answers of a map. -/
theorem mapM_map {α β γ : Type} (f : α → Option β) (k : β → γ) :
    ∀ (ls : List α) (rs : List β), ls.mapM f = some rs → ls.mapM (fun l => (f l).map k) = some (rs.map k)
  | [], rs, h => by simp_all
  | a :: ls, rs, h => by
    simp only [List.mapM_cons] at h ⊢
    cases hf : f a with
    | none => simp [hf] at h
    | some b =>
      cases hm : ls.mapM f with
      | none => simp [hf, hm] at h
      | some bs => simp [hf, hm] at h; subst h; simp [mapM_map f k ls bs hm]

theorem mergeFaults_nil : mergeFaults ([] : List (Nat × TrapInfo)) [] = [] := by decide

theorem regErr_nil {s : State} (h : s.errs = []) (c : CtxId) (ds : List Dst) : s.regErr c ds = none := by
  simp [State.regErr, h]

theorem storeErr_nil {s : State} (h : s.errs = []) (a : Acc) (n : Nat) : s.storeErr a n = none := by
  simp [State.storeErr, State.errAt, h]

theorem readX_of_readXs {t t1 : Thread} {r : Nat} {v : Word} (h : t.readXs [r] = some ([v], t1)) : t.readX r = some (v, t1) := by
  simp only [Thread.readXs] at h
  split at h <;> simp_all

theorem active_isEmpty {g : Gang} {h : Hd} (ha : g.active h ≠ []) : (g.active h).isEmpty = false := by
  cases h' : g.active h <;> simp_all

end Sys2Proof.Machine
end

