-- ==== Sys2Proof/Laws/Coherence.lean ====
section
/-! SUPPORT. The entry of a line at its home (R62), read and written, and a request that finds it idle (R63). -/

namespace Sys2Proof.Machine

/-- The entry of a line is kept under its cluster and line. -/
theorem homeLine_key (s : State) (cl line) : (s.homeLine cl line).cluster = cl ∧ (s.homeLine cl line).line = line := by
  unfold State.homeLine
  cases h : s.home.find? fun h => h.cluster == cl && h.line == line with
  | none => simp
  | some x => have := List.find?_some h; simp at this; simpa using this

/-- An entry that holds something reads back as it was put. -/
theorem homeLine_setHome (s : State) (h : HomeLine) (hk : h.st.isNone = false ∨ h.trans.isNone = false ∨ h.queue ≠ []) :
    (s.setHome h).homeLine h.cluster h.line = h := by
  unfold State.homeLine State.setHome
  have : (h.st.isNone && h.trans.isNone && h.queue.isEmpty) = false := by
    cases h1 : h.st.isNone <;> cases h2 : h.trans.isNone <;> simp_all
  simp only [this]
  simp only [Bool.false_eq_true, if_false]
  rw [List.find?_append]
  have : List.find? (fun x => x.cluster == h.cluster && x.line == h.line) (s.home.filter fun x => !(x.cluster == h.cluster && x.line == h.line)) = none := by
    rw [List.find?_eq_none]; intro x hx; simp at hx ⊢; intro h1; rcases hx.2 with h2 | h2
    · exact absurd h1 h2
    · exact h2
  rw [this]; simp

/-- The last put of a line counts. -/
theorem setHome_setHome (s : State) (h h' : HomeLine) (h1 : h.cluster = h'.cluster) (h2 : h.line = h'.line) : (s.setHome h).setHome h' = s.setHome h' := by
  have key : ∀ l : List HomeLine, ((l.filter fun x => !(x.cluster == h'.cluster && x.line == h'.line))).filter (fun x => !(x.cluster == h'.cluster && x.line == h'.line)) = l.filter fun x => !(x.cluster == h'.cluster && x.line == h'.line) := by intro l; simp
  unfold State.setHome
  simp only [h1, h2]
  have k2 : List.filter (fun x : HomeLine => !(x.cluster == h'.cluster && x.line == h'.line)) [h] = [] := by simp [h1, h2]
  cases h.st.isNone && h.trans.isNone && h.queue.isEmpty <;> cases h'.st.isNone && h'.trans.isNone && h'.queue.isEmpty <;>
    simp only [Bool.false_eq_true, if_false, if_true, List.filter_append, key, k2, List.append_nil]

theorem postCoh_setHome (s : State) (k c l) (h : HomeLine) : (s.setHome h).postCoh k c l = (s.postCoh k c l).setHome h := rfl

theorem foldl_postCoh_setHome (k l) (os : List CoreId) : ∀ (s : State) (h : HomeLine), os.foldl (fun s o => s.postCoh k o l) (s.setHome h) = (os.foldl (fun s o => s.postCoh k o l) s).setHome h := by
  induction os with
  | nil => intros; rfl
  | cons o os ih => intro s h; simp only [List.foldl_cons, postCoh_setHome, ih]

theorem answer_setHome (s : State) (k : CohKind) (a : HomeAsk) (line : Nat) (h : HomeLine) :
    (s.setHome h).answer k a line = (s.answer k a line).setHome h := rfl

theorem ccUse_setHome (s : State) (cl line : Nat) (h : HomeLine) : (s.setHome h).ccUse cl line = (s.ccUse cl line).setHome h := rfl

/-- A message taken is of the core and the line asked for (R63). -/
theorem takeCoh_key {s s1 : State} {k : CohKind} {c : CoreId} {line : Nat} {m : CohMsg} (h : s.takeCoh k c line = some (m, s1)) :
    m.core = c ∧ m.line = line := by
  unfold State.takeCoh at h
  split at h
  · simp at h
  · rename_i x hx
    split at h
    · simp at h
      have := List.find?_some hx
      simp at this
      rw [← h.1]; exact ⟨this.1.1, this.1.2⟩
    · simp at h

/-- A sector that a cluster cache holds has its place (R59). -/
theorem ccPlace_of_inCc {s : State} {cl line q : Nat} (h : s.inCc cl line = true) : s.ccPlace cl (line / 8) q = (s, true) := by
  unfold State.ccPlace
  rw [if_pos]
  simp only [State.inCc, List.any_eq_true, Bool.and_eq_true] at h ⊢
  obtain ⟨l, hl, h1, _⟩ := h
  exact ⟨l, hl, by simpa using h1⟩

/-- A request that finds its sector at the home, which the cluster may write if it needs to, is served there (R62, R67). -/
theorem serveReq_here {s : State} {a : HomeAsk} {h : HomeLine} (hc : s.inCc h.cluster h.line = true)
    (hr : s.regionCalled h.cluster h.line = false) (hw : a.req = .gets ∨ a.req = .read ∨ s.ownsRegion h.cluster h.line = true)
    (hk : a.req ≠ .recall) :
    serveReq a h s = if a.req = .gets ∨ a.req = .read then serveRead a h (s.ccUse h.cluster h.line)
      else callBack a h (s.ccUse h.cluster h.line) := by
  obtain ⟨req, core, q⟩ := a
  unfold serveReq
  simp only [ccPlace_of_inCc hc, hr, hc]
  cases req <;> simp_all <;> simp [show (HomeReq.gets != HomeReq.gets) = false from rfl, show (HomeReq.read != HomeReq.gets) = true from rfl,
    show (HomeReq.read != HomeReq.read) = false from rfl, show (HomeReq.getm != HomeReq.gets) = true from rfl,
    show (HomeReq.getm != HomeReq.read) = true from rfl, show (HomeReq.upg != HomeReq.gets) = true from rfl,
    show (HomeReq.upg != HomeReq.read) = true from rfl, show (HomeReq.write != HomeReq.gets) = true from rfl,
    show (HomeReq.write != HomeReq.read) = true from rfl]

/-- A request served at an idle line, after which nothing waits, is all that the line does. -/
theorem serveQueue_one {cl line : Nat} {s s2 : State} {h : HomeLine} {q : HomeAsk} (he : s.homeLine cl line = h)
    (hn : h.trans = none) (hq : h.queue = [q]) (hs : serveReq q { h with queue := [] } s = (s2, true))
    (hd : (s2.homeLine cl line).trans.isSome ∨ (s2.homeLine cl line).queue = []) : serveQueue cl line 2 s = s2 := by
  have h1 : serveQueue cl line 1 s2 = s2 := by
    unfold serveQueue
    rcases hd with hd | hd
    · obtain ⟨t, ht⟩ := Option.isSome_iff_exists.1 hd
      simp only [ht]
    · cases h5 : (s2.homeLine cl line).trans <;> simp only [hd, h5]
  show serveQueue cl line (1 + 1) s = s2
  unfold serveQueue
  simp only [he, hn, hq]
  rw [← hn, hs]
  exact h1

/-- A request that reaches an idle line is served at once (R63). -/
theorem arriveReq_idle {s1 s2 : State} {m : CohMsg} {req : HomeReq} {h : HomeLine}
    (hh : h = s1.homeLine m.core.cluster m.line) (hq : h.queue = []) (hn : h.trans = none)
    (hsv : serveReq ⟨req, m.core, m.quarter⟩ h (s1.setHome { h with queue := [⟨req, m.core, m.quarter⟩] }) = (s2, true))
    (hdone : (s2.homeLine m.core.cluster m.line).trans.isSome ∨ (s2.homeLine m.core.cluster m.line).queue = []) :
    arriveReq m req s1 = s2 := by
  obtain ⟨e1, e2⟩ := homeLine_key s1 m.core.cluster m.line
  rw [← hh] at e1 e2
  have e3 : (s1.setHome { h with queue := [⟨req, m.core, m.quarter⟩] }).homeLine m.core.cluster m.line =
      { h with queue := [⟨req, m.core, m.quarter⟩] } := by
    have := homeLine_setHome s1 { h with queue := [⟨req, m.core, m.quarter⟩] } (by simp)
    simpa [e1, e2] using this
  have hb : ({ h with queue := [] } : HomeLine) = h := by cases h; simp_all
  have e4 : ({ h with queue := h.queue ++ [⟨req, m.core, m.quarter⟩] } : HomeLine) =
      { h with queue := [⟨req, m.core, m.quarter⟩] } := by rw [hq]; rfl
  unfold arriveReq
  simp only [← hh, e4, serveLine, e3, List.length_singleton]
  exact serveQueue_one e3 hn rfl (by simpa [hb] using hsv) hdone

end Sys2Proof.Machine
end

