-- ==== Sys2Proof/Laws/Encoding.lean ====
section
/-! SUPPORT. Heads and tails are taken apart as they are packed: one lemma per class of R214, and one for the head (R207). -/

namespace Sys2Proof

theorem b2n_le (b : Bool) : b2n b ≤ 1 := by cases b <;> simp [b2n]

@[simp] theorem b2n_true : b2n true = 1 := rfl
@[simp] theorem b2n_false : b2n false = 0 := rfl

theorem b2n_beq (b : Bool) : (b2n b == 1) = b := by cases b <;> rfl

theorem ofNat_eq_of_toNat {w n : Nat} {x : BitVec w} (h : n = x.toNat) : BitVec.ofNat w n = x := by
  subst h; simp

/-- A bit of a number whose bit is known. -/
theorem bitAt_eq_of {n k : Nat} {b : Bool} (h : n / 2 ^ k % 2 = b2n b) : bitAt n k = b := by
  simp only [bitAt, h]; cases b <;> rfl

theorem X3Tail.of_pack (t : X3Tail) : X3Tail.of t.pack = t := by
  obtain ⟨xd, xa, xb, g⟩ := t
  have h1 := xd.isLt; have h2 := xa.isLt; have h3 := xb.isLt; have h4 := b2n_le g
  simp only [X3Tail.of, X3Tail.pack, X3Tail.mk.injEq]
  refine ⟨ofNat_eq_of_toNat ?_, ofNat_eq_of_toNat ?_, ofNat_eq_of_toNat ?_, bitAt_eq_of ?_⟩ <;>
    (try simp only [bits]) <;> omega

theorem XITail.of_pack (t : XITail) (hs : t.sub < 32) (hi : t.imm < 2 ^ 16) : XITail.of t.pack = t := by
  obtain ⟨xd, xa, g, sub, imm⟩ := t
  have h1 := xd.isLt; have h2 := xa.isLt; have h4 := b2n_le g
  simp only [XITail.of, XITail.pack, XITail.mk.injEq] at *
  refine ⟨ofNat_eq_of_toNat ?_, ofNat_eq_of_toNat ?_, bitAt_eq_of ?_, ?_, ?_⟩ <;>
    (try simp only [bits]) <;> omega

theorem XLTail.of_pack (t : XLTail) (hs : t.sub < 32) (hi : t.imm < 2 ^ 32) : XLTail.of t.pack = t := by
  obtain ⟨xd, xa, g, sub, imm⟩ := t
  have h1 := xd.isLt; have h2 := xa.isLt; have h4 := b2n_le g
  simp only [XLTail.of, XLTail.pack, XLTail.mk.injEq] at *
  refine ⟨ofNat_eq_of_toNat ?_, ofNat_eq_of_toNat ?_, bitAt_eq_of ?_, ?_, ?_⟩ <;>
    (try simp only [bits]) <;> omega

theorem Target.of_pack (t : Target) : Target.of t.pack = t := by
  obtain ⟨d, i⟩ := t
  have h1 := d.isLt; have h2 := i.isLt
  simp only [Target.of, Target.pack, Target.mk.injEq]
  refine ⟨ofNat_eq_of_toNat ?_, ofNat_eq_of_toNat ?_⟩ <;> (try simp only [bits]) <;> omega

theorem Target.pack_lt (t : Target) : t.pack < 2 ^ 32 := by
  obtain ⟨d, i⟩ := t
  have h1 := d.isLt; have h2 := i.isLt
  simp only [Target.pack]; omega

theorem XBTail.of_pack (t : XBTail) (hz : t.zero < 2 ^ 11) : XBTail.of t.pack = t := by
  obtain ⟨x, z, ⟨d, i⟩⟩ := t
  have h0 := x.isLt; have h1 := d.isLt; have h2 := i.isLt
  simp only [XBTail.of, XBTail.pack, Target.of, Target.pack, XBTail.mk.injEq, Target.mk.injEq] at *
  refine ⟨ofNat_eq_of_toNat ?_, ?_, ofNat_eq_of_toNat ?_, ofNat_eq_of_toNat ?_⟩ <;> (try simp only [bits]) <;> omega

theorem V3Tail.of_pack (t : V3Tail) (hs : t.sub < 32) : V3Tail.of t.pack = t := by
  obtain ⟨vd, va, vb, sub⟩ := t
  have h1 := vd.isLt; have h2 := va.isLt; have h3 := vb.isLt
  simp only [V3Tail.of, V3Tail.pack, V3Tail.mk.injEq] at *
  refine ⟨ofNat_eq_of_toNat ?_, ofNat_eq_of_toNat ?_, ofNat_eq_of_toNat ?_, ?_⟩ <;> (try simp only [bits]) <;> omega

theorem CTail.of_pack (t : CTail) (hs : t.sub < 2 ^ 10) : CTail.of t.pack = t := by
  obtain ⟨xd, xa, n, sub⟩ := t
  have h1 := xd.isLt; have h2 := xa.isLt; have h3 := n.isLt
  simp only [CTail.of, CTail.pack, CTail.mk.injEq] at *
  refine ⟨ofNat_eq_of_toNat ?_, ofNat_eq_of_toNat ?_, ofNat_eq_of_toNat ?_, ?_⟩ <;> (try simp only [bits]) <;> omega

theorem V4Tail.of_pack (t : V4Tail) (ht : t.ty < 16) (hr : t.rm < 8) (hv : t.var < 32) : V4Tail.of t.pack = t := by
  obtain ⟨vd, va, vb, vc, ty, rm, var⟩ := t
  have h1 := vd.isLt; have h2 := va.isLt; have h3 := vb.isLt; have h4 := vc.isLt
  simp only [V4Tail.of, V4Tail.pack, V4Tail.mk.injEq] at *
  refine ⟨ofNat_eq_of_toNat ?_, ofNat_eq_of_toNat ?_, ofNat_eq_of_toNat ?_, ofNat_eq_of_toNat ?_, ?_, ?_, ?_⟩ <;>
    (try simp only [bits]) <;> omega

theorem VXTail.of_pack (t : VXTail) (hs : t.sub < 512) (hi : t.imm < 2 ^ 16) : VXTail.of t.pack = t := by
  obtain ⟨vd, va, s, sub, imm⟩ := t
  have h1 := vd.isLt; have h2 := va.isLt; have h3 := s.isLt
  simp only [VXTail.of, VXTail.pack, VXTail.mk.injEq] at *
  refine ⟨ofNat_eq_of_toNat ?_, ofNat_eq_of_toNat ?_, ofNat_eq_of_toNat ?_, ?_, ?_⟩ <;> (try simp only [bits]) <;> omega

theorem MTail.of_pack (t : MTail) (ha : t.fa < 16) (hb : t.fb < 16) (hv : t.var < 2 ^ 18) : MTail.of t.pack = t := by
  obtain ⟨acc, va, vb, vs, fa, fb, var⟩ := t
  have h1 := acc.isLt; have h2 := va.isLt; have h3 := vb.isLt; have h4 := vs.isLt
  simp only [MTail.of, MTail.pack, MTail.mk.injEq] at *
  refine ⟨ofNat_eq_of_toNat ?_, ofNat_eq_of_toNat ?_, ofNat_eq_of_toNat ?_, ofNat_eq_of_toNat ?_, ?_, ?_, ?_⟩ <;>
    (try simp only [bits]) <;> omega

theorem Hd.of_pack (h : Hd) (tlen opc : Nat) : Hd.of (h.pack tlen opc) = h := by
  obtain ⟨gp, gs, fs⟩ := h
  have h1 := gp.isLt; have h2 := b2n_le gs; have h3 := b2n_le fs
  simp only [Hd.of, Hd.pack, Hd.mk.injEq]
  refine ⟨ofNat_eq_of_toNat ?_, bitAt_eq_of ?_, bitAt_eq_of ?_⟩ <;> (try simp only [bits]) <;> omega

theorem Hd.opc_pack (h : Hd) (tlen opc : Nat) (ho : opc < 256) : bits (h.pack tlen opc) 13 6 = opc := by
  obtain ⟨gp, gs, fs⟩ := h
  have h1 := gp.isLt; have h2 := b2n_le gs; have h3 := b2n_le fs
  simp only [Hd.pack, bits]; omega

theorem Hd.tlen_pack (h : Hd) (tlen opc : Nat) (ht : tlen < 4) (ho : opc < 256) : bits (h.pack tlen opc) 15 14 = tlen := by
  obtain ⟨gp, gs, fs⟩ := h
  have h1 := gp.isLt; have h2 := b2n_le gs; have h3 := b2n_le fs
  simp only [Hd.pack, bits]; omega

theorem X3Tail.g_pack (t : X3Tail) : tailG .X3 t.pack = t.g := by
  have h := congrArg X3Tail.g (X3Tail.of_pack t); exact h

theorem XITail.g_pack (t : XITail) (hs : t.sub < 32) (hi : t.imm < 2 ^ 16) : tailG .XI t.pack = t.g := by
  have h := congrArg XITail.g (XITail.of_pack t hs hi); exact h

theorem XLTail.g_pack (t : XLTail) (hs : t.sub < 32) (hi : t.imm < 2 ^ 32) : tailG .XL t.pack = t.g := by
  have h := congrArg XLTail.g (XLTail.of_pack t hs hi); exact h

theorem Cls.tlen_lt (c : Cls) : c.tlen < 4 := by cases c <;> decide

/-- What `decode` gives for a packed head: the checks of R223 steps 3 and 4, then the tail. -/
theorem decode_pack {h : Hd} {opc tail : Nat} {i : OpInfo} (ho : opInfo opc = some i) (hl : opc < 256) :
    decode (h.pack i.cls.tlen opc) tail =
      if tailG i.cls tail && !(i.g && h.unguarded) then .error .gBit
      else if h.fs && !i.flag then .error .flagSelect
      else decBody i.cls opc h tail := by
  simp [decode, Hd.opc_pack h _ opc hl, ho, Hd.of_pack, Hd.tlen_pack h _ opc (Cls.tlen_lt i.cls) hl]

end Sys2Proof
end

