-- ==== Sys2Proof/Laws/State.lean ====
section
/-! SUPPORT. What each small update of the state leaves in every field: true by definition, for `simp`, so that no proof
unfolds a record update. -/

namespace Sys2Proof.Machine

variable (s : State)

@[simp] theorem State.setThread_cc (t : Thread) : (s.setThread t).cc = s.cc := rfl
@[simp] theorem State.setThread_agenda (t : Thread) : (s.setThread t).agenda = s.agenda := rfl
@[simp] theorem State.setThread_cur (t : Thread) : (s.setThread t).cur = s.cur := rfl
@[simp] theorem State.setThread_fresh (t : Thread) : (s.setThread t).fresh = s.fresh := rfl
@[simp] theorem State.setThread_nextId (t : Thread) : (s.setThread t).nextId = s.nextId := rfl
@[simp] theorem State.setThread_turns (t : Thread) : (s.setThread t).turns = s.turns := rfl
@[simp] theorem State.setThread_mem (t : Thread) : (s.setThread t).mem = s.mem := rfl
@[simp] theorem State.setThread_scratch (t : Thread) : (s.setThread t).scratch = s.scratch := rfl
@[simp] theorem State.setThread_pinned (t : Thread) : (s.setThread t).pinned = s.pinned := rfl
@[simp] theorem State.setThread_threads (t : Thread) : (s.setThread t).threads = s.threads.map fun u => if u.id == t.id then t else u := rfl
@[simp] theorem State.setThread_gangs (t : Thread) : (s.setThread t).gangs = s.gangs := rfl
@[simp] theorem State.setThread_teams (t : Thread) : (s.setThread t).teams = s.teams := rfl
@[simp] theorem State.setThread_launches (t : Thread) : (s.setThread t).launches = s.launches := rfl
@[simp] theorem State.setThread_saved (t : Thread) : (s.setThread t).saved = s.saved := rfl
@[simp] theorem State.setThread_ops (t : Thread) : (s.setThread t).ops = s.ops := rfl
@[simp] theorem State.setThread_msgs (t : Thread) : (s.setThread t).msgs = s.msgs := rfl
@[simp] theorem State.setThread_keys (t : Thread) : (s.setThread t).keys = s.keys := rfl
@[simp] theorem State.setThread_keyQueue (t : Thread) : (s.setThread t).keyQueue = s.keyQueue := rfl
@[simp] theorem State.setThread_launchRecs (t : Thread) : (s.setThread t).launchRecs = s.launchRecs := rfl
@[simp] theorem State.setThread_copyReqs (t : Thread) : (s.setThread t).copyReqs = s.copyReqs := rfl
@[simp] theorem State.setThread_races (t : Thread) : (s.setThread t).races = s.races := rfl
@[simp] theorem State.setThread_engine (t : Thread) : (s.setThread t).engine = s.engine := rfl
@[simp] theorem State.setThread_wide (t : Thread) : (s.setThread t).wide = s.wide := rfl
@[simp] theorem State.setThread_tileOut (t : Thread) : (s.setThread t).tileOut = s.tileOut := rfl
@[simp] theorem State.setThread_clusterIn (t : Thread) : (s.setThread t).clusterIn = s.clusterIn := rfl
@[simp] theorem State.setThread_clusterOut (t : Thread) : (s.setThread t).clusterOut = s.clusterOut := rfl
@[simp] theorem State.setThread_devIn (t : Thread) : (s.setThread t).devIn = s.devIn := rfl
@[simp] theorem State.setThread_devOut (t : Thread) : (s.setThread t).devOut = s.devOut := rfl
@[simp] theorem State.setThread_aggIn (t : Thread) : (s.setThread t).aggIn = s.aggIn := rfl
@[simp] theorem State.setThread_sentBatches (t : Thread) : (s.setThread t).sentBatches = s.sentBatches := rfl
@[simp] theorem State.setThread_jobDevice (t : Thread) : (s.setThread t).jobDevice = s.jobDevice := rfl
@[simp] theorem State.setThread_aggregator (t : Thread) : (s.setThread t).aggregator = s.aggregator := rfl
@[simp] theorem State.setThread_jobFaulted (t : Thread) : (s.setThread t).jobFaulted = s.jobFaulted := rfl
@[simp] theorem State.setThread_faultedDevices (t : Thread) : (s.setThread t).faultedDevices = s.faultedDevices := rfl
@[simp] theorem State.setThread_wl1 (t : Thread) : (s.setThread t).wl1 = s.wl1 := rfl
@[simp] theorem State.setThread_tlb (t : Thread) : (s.setThread t).tlb = s.tlb := rfl
@[simp] theorem State.setThread_utlb (t : Thread) : (s.setThread t).utlb = s.utlb := rfl
@[simp] theorem State.setThread_missq (t : Thread) : (s.setThread t).missq = s.missq := rfl
@[simp] theorem State.setThread_icache (t : Thread) : (s.setThread t).icache = s.icache := rfl
@[simp] theorem State.setThread_codeOld (t : Thread) : (s.setThread t).codeOld = s.codeOld := rfl
@[simp] theorem State.setThread_l1 (t : Thread) : (s.setThread t).l1 = s.l1 := rfl
@[simp] theorem State.setThread_ccache (t : Thread) : (s.setThread t).ccache = s.ccache := rfl
@[simp] theorem State.setThread_home (t : Thread) : (s.setThread t).home = s.home := rfl
@[simp] theorem State.setThread_coh (t : Thread) : (s.setThread t).coh = s.coh := rfl
@[simp] theorem State.setThread_sysctx (t : Thread) : (s.setThread t).sysctx = s.sysctx := rfl
@[simp] theorem State.setThread_ovf (t : Thread) : (s.setThread t).ovf = s.ovf := rfl
@[simp] theorem State.setThread_ovfEvents (t : Thread) : (s.setThread t).ovfEvents = s.ovfEvents := rfl
@[simp] theorem State.setThread_region (t : Thread) : (s.setThread t).region = s.region := rfl
@[simp] theorem State.setThread_reg (t : Thread) : (s.setThread t).reg = s.reg := rfl
@[simp] theorem State.setThread_merges (t : Thread) : (s.setThread t).merges = s.merges := rfl
@[simp] theorem State.setThread_errs (t : Thread) : (s.setThread t).errs = s.errs := rfl
@[simp] theorem State.setThread_errCounts (t : Thread) : (s.setThread t).errCounts = s.errCounts := rfl
@[simp] theorem State.setThread_parts (t : Thread) : (s.setThread t).parts = s.parts := rfl
@[simp] theorem State.setThread_vfs (t : Thread) : (s.setThread t).vfs = s.vfs := rfl
@[simp] theorem State.setThread_queues (t : Thread) : (s.setThread t).queues = s.queues := rfl
@[simp] theorem State.setThread_pkts (t : Thread) : (s.setThread t).pkts = s.pkts := rfl
@[simp] theorem State.setThread_sigs (t : Thread) : (s.setThread t).sigs = s.sigs := rfl
@[simp] theorem State.setThread_fw (t : Thread) : (s.setThread t).fw = s.fw := rfl
@[simp] theorem State.setThread_throttled (t : Thread) : (s.setThread t).throttled = s.throttled := rfl
@[simp] theorem State.setThread_thermal (t : Thread) : (s.setThread t).thermal = s.thermal := rfl
@[simp] theorem State.setThread_retired (t : Thread) : (s.setThread t).retired = s.retired := rfl
@[simp] theorem State.setThread_links (t : Thread) : (s.setThread t).links = s.links := rfl
@[simp] theorem State.setThread_linkSeqs (t : Thread) : (s.setThread t).linkSeqs = s.linkSeqs := rfl
@[simp] theorem State.setThread_linkHeld (t : Thread) : (s.setThread t).linkHeld = s.linkHeld := rfl
@[simp] theorem State.setThread_snapshots (t : Thread) : (s.setThread t).snapshots = s.snapshots := rfl
@[simp] theorem State.setThread_scrubSeq (t : Thread) : (s.setThread t).scrubSeq = s.scrubSeq := rfl
@[simp] theorem State.setThread_exports (t : Thread) : (s.setThread t).exports = s.exports := rfl
@[simp] theorem State.setThread_preempt (t : Thread) : (s.setThread t).preempt = s.preempt := rfl
@[simp] theorem State.setThread_preReqs (t : Thread) : (s.setThread t).preReqs = s.preReqs := rfl
@[simp] theorem State.setThread_time (t : Thread) : (s.setThread t).time = s.time := rfl
@[simp] theorem State.setThread_out (t : Thread) : (s.setThread t).out = s.out := rfl

@[simp] theorem State.setGang_cc (g : Gang) : (s.setGang g).cc = s.cc := rfl
@[simp] theorem State.setGang_agenda (g : Gang) : (s.setGang g).agenda = s.agenda := rfl
@[simp] theorem State.setGang_cur (g : Gang) : (s.setGang g).cur = s.cur := rfl
@[simp] theorem State.setGang_fresh (g : Gang) : (s.setGang g).fresh = s.fresh := rfl
@[simp] theorem State.setGang_nextId (g : Gang) : (s.setGang g).nextId = s.nextId := rfl
@[simp] theorem State.setGang_turns (g : Gang) : (s.setGang g).turns = s.turns := rfl
@[simp] theorem State.setGang_mem (g : Gang) : (s.setGang g).mem = s.mem := rfl
@[simp] theorem State.setGang_scratch (g : Gang) : (s.setGang g).scratch = s.scratch := rfl
@[simp] theorem State.setGang_pinned (g : Gang) : (s.setGang g).pinned = s.pinned := rfl
@[simp] theorem State.setGang_threads (g : Gang) : (s.setGang g).threads = s.threads := rfl
@[simp] theorem State.setGang_gangs (g : Gang) : (s.setGang g).gangs = s.gangs.map fun u => if u.id == g.id then g else u := rfl
@[simp] theorem State.setGang_teams (g : Gang) : (s.setGang g).teams = s.teams := rfl
@[simp] theorem State.setGang_launches (g : Gang) : (s.setGang g).launches = s.launches := rfl
@[simp] theorem State.setGang_saved (g : Gang) : (s.setGang g).saved = s.saved := rfl
@[simp] theorem State.setGang_ops (g : Gang) : (s.setGang g).ops = s.ops := rfl
@[simp] theorem State.setGang_msgs (g : Gang) : (s.setGang g).msgs = s.msgs := rfl
@[simp] theorem State.setGang_keys (g : Gang) : (s.setGang g).keys = s.keys := rfl
@[simp] theorem State.setGang_keyQueue (g : Gang) : (s.setGang g).keyQueue = s.keyQueue := rfl
@[simp] theorem State.setGang_launchRecs (g : Gang) : (s.setGang g).launchRecs = s.launchRecs := rfl
@[simp] theorem State.setGang_copyReqs (g : Gang) : (s.setGang g).copyReqs = s.copyReqs := rfl
@[simp] theorem State.setGang_races (g : Gang) : (s.setGang g).races = s.races := rfl
@[simp] theorem State.setGang_engine (g : Gang) : (s.setGang g).engine = s.engine := rfl
@[simp] theorem State.setGang_wide (g : Gang) : (s.setGang g).wide = s.wide := rfl
@[simp] theorem State.setGang_tileOut (g : Gang) : (s.setGang g).tileOut = s.tileOut := rfl
@[simp] theorem State.setGang_clusterIn (g : Gang) : (s.setGang g).clusterIn = s.clusterIn := rfl
@[simp] theorem State.setGang_clusterOut (g : Gang) : (s.setGang g).clusterOut = s.clusterOut := rfl
@[simp] theorem State.setGang_devIn (g : Gang) : (s.setGang g).devIn = s.devIn := rfl
@[simp] theorem State.setGang_devOut (g : Gang) : (s.setGang g).devOut = s.devOut := rfl
@[simp] theorem State.setGang_aggIn (g : Gang) : (s.setGang g).aggIn = s.aggIn := rfl
@[simp] theorem State.setGang_sentBatches (g : Gang) : (s.setGang g).sentBatches = s.sentBatches := rfl
@[simp] theorem State.setGang_jobDevice (g : Gang) : (s.setGang g).jobDevice = s.jobDevice := rfl
@[simp] theorem State.setGang_aggregator (g : Gang) : (s.setGang g).aggregator = s.aggregator := rfl
@[simp] theorem State.setGang_jobFaulted (g : Gang) : (s.setGang g).jobFaulted = s.jobFaulted := rfl
@[simp] theorem State.setGang_faultedDevices (g : Gang) : (s.setGang g).faultedDevices = s.faultedDevices := rfl
@[simp] theorem State.setGang_wl1 (g : Gang) : (s.setGang g).wl1 = s.wl1 := rfl
@[simp] theorem State.setGang_tlb (g : Gang) : (s.setGang g).tlb = s.tlb := rfl
@[simp] theorem State.setGang_utlb (g : Gang) : (s.setGang g).utlb = s.utlb := rfl
@[simp] theorem State.setGang_missq (g : Gang) : (s.setGang g).missq = s.missq := rfl
@[simp] theorem State.setGang_icache (g : Gang) : (s.setGang g).icache = s.icache := rfl
@[simp] theorem State.setGang_codeOld (g : Gang) : (s.setGang g).codeOld = s.codeOld := rfl
@[simp] theorem State.setGang_l1 (g : Gang) : (s.setGang g).l1 = s.l1 := rfl
@[simp] theorem State.setGang_ccache (g : Gang) : (s.setGang g).ccache = s.ccache := rfl
@[simp] theorem State.setGang_home (g : Gang) : (s.setGang g).home = s.home := rfl
@[simp] theorem State.setGang_coh (g : Gang) : (s.setGang g).coh = s.coh := rfl
@[simp] theorem State.setGang_sysctx (g : Gang) : (s.setGang g).sysctx = s.sysctx := rfl
@[simp] theorem State.setGang_ovf (g : Gang) : (s.setGang g).ovf = s.ovf := rfl
@[simp] theorem State.setGang_ovfEvents (g : Gang) : (s.setGang g).ovfEvents = s.ovfEvents := rfl
@[simp] theorem State.setGang_region (g : Gang) : (s.setGang g).region = s.region := rfl
@[simp] theorem State.setGang_reg (g : Gang) : (s.setGang g).reg = s.reg := rfl
@[simp] theorem State.setGang_merges (g : Gang) : (s.setGang g).merges = s.merges := rfl
@[simp] theorem State.setGang_errs (g : Gang) : (s.setGang g).errs = s.errs := rfl
@[simp] theorem State.setGang_errCounts (g : Gang) : (s.setGang g).errCounts = s.errCounts := rfl
@[simp] theorem State.setGang_parts (g : Gang) : (s.setGang g).parts = s.parts := rfl
@[simp] theorem State.setGang_vfs (g : Gang) : (s.setGang g).vfs = s.vfs := rfl
@[simp] theorem State.setGang_queues (g : Gang) : (s.setGang g).queues = s.queues := rfl
@[simp] theorem State.setGang_pkts (g : Gang) : (s.setGang g).pkts = s.pkts := rfl
@[simp] theorem State.setGang_sigs (g : Gang) : (s.setGang g).sigs = s.sigs := rfl
@[simp] theorem State.setGang_fw (g : Gang) : (s.setGang g).fw = s.fw := rfl
@[simp] theorem State.setGang_throttled (g : Gang) : (s.setGang g).throttled = s.throttled := rfl
@[simp] theorem State.setGang_thermal (g : Gang) : (s.setGang g).thermal = s.thermal := rfl
@[simp] theorem State.setGang_retired (g : Gang) : (s.setGang g).retired = s.retired := rfl
@[simp] theorem State.setGang_links (g : Gang) : (s.setGang g).links = s.links := rfl
@[simp] theorem State.setGang_linkSeqs (g : Gang) : (s.setGang g).linkSeqs = s.linkSeqs := rfl
@[simp] theorem State.setGang_linkHeld (g : Gang) : (s.setGang g).linkHeld = s.linkHeld := rfl
@[simp] theorem State.setGang_snapshots (g : Gang) : (s.setGang g).snapshots = s.snapshots := rfl
@[simp] theorem State.setGang_scrubSeq (g : Gang) : (s.setGang g).scrubSeq = s.scrubSeq := rfl
@[simp] theorem State.setGang_exports (g : Gang) : (s.setGang g).exports = s.exports := rfl
@[simp] theorem State.setGang_preempt (g : Gang) : (s.setGang g).preempt = s.preempt := rfl
@[simp] theorem State.setGang_preReqs (g : Gang) : (s.setGang g).preReqs = s.preReqs := rfl
@[simp] theorem State.setGang_time (g : Gang) : (s.setGang g).time = s.time := rfl
@[simp] theorem State.setGang_out (g : Gang) : (s.setGang g).out = s.out := rfl

@[simp] theorem State.updThread_cc (c : CtxId) (f : Thread → Thread) : (s.updThread c f).cc = s.cc := rfl
@[simp] theorem State.updThread_agenda (c : CtxId) (f : Thread → Thread) : (s.updThread c f).agenda = s.agenda := rfl
@[simp] theorem State.updThread_cur (c : CtxId) (f : Thread → Thread) : (s.updThread c f).cur = s.cur := rfl
@[simp] theorem State.updThread_fresh (c : CtxId) (f : Thread → Thread) : (s.updThread c f).fresh = s.fresh := rfl
@[simp] theorem State.updThread_nextId (c : CtxId) (f : Thread → Thread) : (s.updThread c f).nextId = s.nextId := rfl
@[simp] theorem State.updThread_turns (c : CtxId) (f : Thread → Thread) : (s.updThread c f).turns = s.turns := rfl
@[simp] theorem State.updThread_mem (c : CtxId) (f : Thread → Thread) : (s.updThread c f).mem = s.mem := rfl
@[simp] theorem State.updThread_scratch (c : CtxId) (f : Thread → Thread) : (s.updThread c f).scratch = s.scratch := rfl
@[simp] theorem State.updThread_pinned (c : CtxId) (f : Thread → Thread) : (s.updThread c f).pinned = s.pinned := rfl
@[simp] theorem State.updThread_threads (c : CtxId) (f : Thread → Thread) : (s.updThread c f).threads = s.threads.map fun u => if u.id == c then f u else u := rfl
@[simp] theorem State.updThread_gangs (c : CtxId) (f : Thread → Thread) : (s.updThread c f).gangs = s.gangs := rfl
@[simp] theorem State.updThread_teams (c : CtxId) (f : Thread → Thread) : (s.updThread c f).teams = s.teams := rfl
@[simp] theorem State.updThread_launches (c : CtxId) (f : Thread → Thread) : (s.updThread c f).launches = s.launches := rfl
@[simp] theorem State.updThread_saved (c : CtxId) (f : Thread → Thread) : (s.updThread c f).saved = s.saved := rfl
@[simp] theorem State.updThread_ops (c : CtxId) (f : Thread → Thread) : (s.updThread c f).ops = s.ops := rfl
@[simp] theorem State.updThread_msgs (c : CtxId) (f : Thread → Thread) : (s.updThread c f).msgs = s.msgs := rfl
@[simp] theorem State.updThread_keys (c : CtxId) (f : Thread → Thread) : (s.updThread c f).keys = s.keys := rfl
@[simp] theorem State.updThread_keyQueue (c : CtxId) (f : Thread → Thread) : (s.updThread c f).keyQueue = s.keyQueue := rfl
@[simp] theorem State.updThread_launchRecs (c : CtxId) (f : Thread → Thread) : (s.updThread c f).launchRecs = s.launchRecs := rfl
@[simp] theorem State.updThread_copyReqs (c : CtxId) (f : Thread → Thread) : (s.updThread c f).copyReqs = s.copyReqs := rfl
@[simp] theorem State.updThread_races (c : CtxId) (f : Thread → Thread) : (s.updThread c f).races = s.races := rfl
@[simp] theorem State.updThread_engine (c : CtxId) (f : Thread → Thread) : (s.updThread c f).engine = s.engine := rfl
@[simp] theorem State.updThread_wide (c : CtxId) (f : Thread → Thread) : (s.updThread c f).wide = s.wide := rfl
@[simp] theorem State.updThread_tileOut (c : CtxId) (f : Thread → Thread) : (s.updThread c f).tileOut = s.tileOut := rfl
@[simp] theorem State.updThread_clusterIn (c : CtxId) (f : Thread → Thread) : (s.updThread c f).clusterIn = s.clusterIn := rfl
@[simp] theorem State.updThread_clusterOut (c : CtxId) (f : Thread → Thread) : (s.updThread c f).clusterOut = s.clusterOut := rfl
@[simp] theorem State.updThread_devIn (c : CtxId) (f : Thread → Thread) : (s.updThread c f).devIn = s.devIn := rfl
@[simp] theorem State.updThread_devOut (c : CtxId) (f : Thread → Thread) : (s.updThread c f).devOut = s.devOut := rfl
@[simp] theorem State.updThread_aggIn (c : CtxId) (f : Thread → Thread) : (s.updThread c f).aggIn = s.aggIn := rfl
@[simp] theorem State.updThread_sentBatches (c : CtxId) (f : Thread → Thread) : (s.updThread c f).sentBatches = s.sentBatches := rfl
@[simp] theorem State.updThread_jobDevice (c : CtxId) (f : Thread → Thread) : (s.updThread c f).jobDevice = s.jobDevice := rfl
@[simp] theorem State.updThread_aggregator (c : CtxId) (f : Thread → Thread) : (s.updThread c f).aggregator = s.aggregator := rfl
@[simp] theorem State.updThread_jobFaulted (c : CtxId) (f : Thread → Thread) : (s.updThread c f).jobFaulted = s.jobFaulted := rfl
@[simp] theorem State.updThread_faultedDevices (c : CtxId) (f : Thread → Thread) : (s.updThread c f).faultedDevices = s.faultedDevices := rfl
@[simp] theorem State.updThread_wl1 (c : CtxId) (f : Thread → Thread) : (s.updThread c f).wl1 = s.wl1 := rfl
@[simp] theorem State.updThread_tlb (c : CtxId) (f : Thread → Thread) : (s.updThread c f).tlb = s.tlb := rfl
@[simp] theorem State.updThread_utlb (c : CtxId) (f : Thread → Thread) : (s.updThread c f).utlb = s.utlb := rfl
@[simp] theorem State.updThread_missq (c : CtxId) (f : Thread → Thread) : (s.updThread c f).missq = s.missq := rfl
@[simp] theorem State.updThread_icache (c : CtxId) (f : Thread → Thread) : (s.updThread c f).icache = s.icache := rfl
@[simp] theorem State.updThread_codeOld (c : CtxId) (f : Thread → Thread) : (s.updThread c f).codeOld = s.codeOld := rfl
@[simp] theorem State.updThread_l1 (c : CtxId) (f : Thread → Thread) : (s.updThread c f).l1 = s.l1 := rfl
@[simp] theorem State.updThread_ccache (c : CtxId) (f : Thread → Thread) : (s.updThread c f).ccache = s.ccache := rfl
@[simp] theorem State.updThread_home (c : CtxId) (f : Thread → Thread) : (s.updThread c f).home = s.home := rfl
@[simp] theorem State.updThread_coh (c : CtxId) (f : Thread → Thread) : (s.updThread c f).coh = s.coh := rfl
@[simp] theorem State.updThread_sysctx (c : CtxId) (f : Thread → Thread) : (s.updThread c f).sysctx = s.sysctx := rfl
@[simp] theorem State.updThread_ovf (c : CtxId) (f : Thread → Thread) : (s.updThread c f).ovf = s.ovf := rfl
@[simp] theorem State.updThread_ovfEvents (c : CtxId) (f : Thread → Thread) : (s.updThread c f).ovfEvents = s.ovfEvents := rfl
@[simp] theorem State.updThread_region (c : CtxId) (f : Thread → Thread) : (s.updThread c f).region = s.region := rfl
@[simp] theorem State.updThread_reg (c : CtxId) (f : Thread → Thread) : (s.updThread c f).reg = s.reg := rfl
@[simp] theorem State.updThread_merges (c : CtxId) (f : Thread → Thread) : (s.updThread c f).merges = s.merges := rfl
@[simp] theorem State.updThread_errs (c : CtxId) (f : Thread → Thread) : (s.updThread c f).errs = s.errs := rfl
@[simp] theorem State.updThread_errCounts (c : CtxId) (f : Thread → Thread) : (s.updThread c f).errCounts = s.errCounts := rfl
@[simp] theorem State.updThread_parts (c : CtxId) (f : Thread → Thread) : (s.updThread c f).parts = s.parts := rfl
@[simp] theorem State.updThread_vfs (c : CtxId) (f : Thread → Thread) : (s.updThread c f).vfs = s.vfs := rfl
@[simp] theorem State.updThread_queues (c : CtxId) (f : Thread → Thread) : (s.updThread c f).queues = s.queues := rfl
@[simp] theorem State.updThread_pkts (c : CtxId) (f : Thread → Thread) : (s.updThread c f).pkts = s.pkts := rfl
@[simp] theorem State.updThread_sigs (c : CtxId) (f : Thread → Thread) : (s.updThread c f).sigs = s.sigs := rfl
@[simp] theorem State.updThread_fw (c : CtxId) (f : Thread → Thread) : (s.updThread c f).fw = s.fw := rfl
@[simp] theorem State.updThread_throttled (c : CtxId) (f : Thread → Thread) : (s.updThread c f).throttled = s.throttled := rfl
@[simp] theorem State.updThread_thermal (c : CtxId) (f : Thread → Thread) : (s.updThread c f).thermal = s.thermal := rfl
@[simp] theorem State.updThread_retired (c : CtxId) (f : Thread → Thread) : (s.updThread c f).retired = s.retired := rfl
@[simp] theorem State.updThread_links (c : CtxId) (f : Thread → Thread) : (s.updThread c f).links = s.links := rfl
@[simp] theorem State.updThread_linkSeqs (c : CtxId) (f : Thread → Thread) : (s.updThread c f).linkSeqs = s.linkSeqs := rfl
@[simp] theorem State.updThread_linkHeld (c : CtxId) (f : Thread → Thread) : (s.updThread c f).linkHeld = s.linkHeld := rfl
@[simp] theorem State.updThread_snapshots (c : CtxId) (f : Thread → Thread) : (s.updThread c f).snapshots = s.snapshots := rfl
@[simp] theorem State.updThread_scrubSeq (c : CtxId) (f : Thread → Thread) : (s.updThread c f).scrubSeq = s.scrubSeq := rfl
@[simp] theorem State.updThread_exports (c : CtxId) (f : Thread → Thread) : (s.updThread c f).exports = s.exports := rfl
@[simp] theorem State.updThread_preempt (c : CtxId) (f : Thread → Thread) : (s.updThread c f).preempt = s.preempt := rfl
@[simp] theorem State.updThread_preReqs (c : CtxId) (f : Thread → Thread) : (s.updThread c f).preReqs = s.preReqs := rfl
@[simp] theorem State.updThread_time (c : CtxId) (f : Thread → Thread) : (s.updThread c f).time = s.time := rfl
@[simp] theorem State.updThread_out (c : CtxId) (f : Thread → Thread) : (s.updThread c f).out = s.out := rfl

@[simp] theorem State.updGang_cc (c : CtxId) (f : Gang → Gang) : (s.updGang c f).cc = s.cc := rfl
@[simp] theorem State.updGang_agenda (c : CtxId) (f : Gang → Gang) : (s.updGang c f).agenda = s.agenda := rfl
@[simp] theorem State.updGang_cur (c : CtxId) (f : Gang → Gang) : (s.updGang c f).cur = s.cur := rfl
@[simp] theorem State.updGang_fresh (c : CtxId) (f : Gang → Gang) : (s.updGang c f).fresh = s.fresh := rfl
@[simp] theorem State.updGang_nextId (c : CtxId) (f : Gang → Gang) : (s.updGang c f).nextId = s.nextId := rfl
@[simp] theorem State.updGang_turns (c : CtxId) (f : Gang → Gang) : (s.updGang c f).turns = s.turns := rfl
@[simp] theorem State.updGang_mem (c : CtxId) (f : Gang → Gang) : (s.updGang c f).mem = s.mem := rfl
@[simp] theorem State.updGang_scratch (c : CtxId) (f : Gang → Gang) : (s.updGang c f).scratch = s.scratch := rfl
@[simp] theorem State.updGang_pinned (c : CtxId) (f : Gang → Gang) : (s.updGang c f).pinned = s.pinned := rfl
@[simp] theorem State.updGang_threads (c : CtxId) (f : Gang → Gang) : (s.updGang c f).threads = s.threads := rfl
@[simp] theorem State.updGang_gangs (c : CtxId) (f : Gang → Gang) : (s.updGang c f).gangs = s.gangs.map fun u => if u.id == c then f u else u := rfl
@[simp] theorem State.updGang_teams (c : CtxId) (f : Gang → Gang) : (s.updGang c f).teams = s.teams := rfl
@[simp] theorem State.updGang_launches (c : CtxId) (f : Gang → Gang) : (s.updGang c f).launches = s.launches := rfl
@[simp] theorem State.updGang_saved (c : CtxId) (f : Gang → Gang) : (s.updGang c f).saved = s.saved := rfl
@[simp] theorem State.updGang_ops (c : CtxId) (f : Gang → Gang) : (s.updGang c f).ops = s.ops := rfl
@[simp] theorem State.updGang_msgs (c : CtxId) (f : Gang → Gang) : (s.updGang c f).msgs = s.msgs := rfl
@[simp] theorem State.updGang_keys (c : CtxId) (f : Gang → Gang) : (s.updGang c f).keys = s.keys := rfl
@[simp] theorem State.updGang_keyQueue (c : CtxId) (f : Gang → Gang) : (s.updGang c f).keyQueue = s.keyQueue := rfl
@[simp] theorem State.updGang_launchRecs (c : CtxId) (f : Gang → Gang) : (s.updGang c f).launchRecs = s.launchRecs := rfl
@[simp] theorem State.updGang_copyReqs (c : CtxId) (f : Gang → Gang) : (s.updGang c f).copyReqs = s.copyReqs := rfl
@[simp] theorem State.updGang_races (c : CtxId) (f : Gang → Gang) : (s.updGang c f).races = s.races := rfl
@[simp] theorem State.updGang_engine (c : CtxId) (f : Gang → Gang) : (s.updGang c f).engine = s.engine := rfl
@[simp] theorem State.updGang_wide (c : CtxId) (f : Gang → Gang) : (s.updGang c f).wide = s.wide := rfl
@[simp] theorem State.updGang_tileOut (c : CtxId) (f : Gang → Gang) : (s.updGang c f).tileOut = s.tileOut := rfl
@[simp] theorem State.updGang_clusterIn (c : CtxId) (f : Gang → Gang) : (s.updGang c f).clusterIn = s.clusterIn := rfl
@[simp] theorem State.updGang_clusterOut (c : CtxId) (f : Gang → Gang) : (s.updGang c f).clusterOut = s.clusterOut := rfl
@[simp] theorem State.updGang_devIn (c : CtxId) (f : Gang → Gang) : (s.updGang c f).devIn = s.devIn := rfl
@[simp] theorem State.updGang_devOut (c : CtxId) (f : Gang → Gang) : (s.updGang c f).devOut = s.devOut := rfl
@[simp] theorem State.updGang_aggIn (c : CtxId) (f : Gang → Gang) : (s.updGang c f).aggIn = s.aggIn := rfl
@[simp] theorem State.updGang_sentBatches (c : CtxId) (f : Gang → Gang) : (s.updGang c f).sentBatches = s.sentBatches := rfl
@[simp] theorem State.updGang_jobDevice (c : CtxId) (f : Gang → Gang) : (s.updGang c f).jobDevice = s.jobDevice := rfl
@[simp] theorem State.updGang_aggregator (c : CtxId) (f : Gang → Gang) : (s.updGang c f).aggregator = s.aggregator := rfl
@[simp] theorem State.updGang_jobFaulted (c : CtxId) (f : Gang → Gang) : (s.updGang c f).jobFaulted = s.jobFaulted := rfl
@[simp] theorem State.updGang_faultedDevices (c : CtxId) (f : Gang → Gang) : (s.updGang c f).faultedDevices = s.faultedDevices := rfl
@[simp] theorem State.updGang_wl1 (c : CtxId) (f : Gang → Gang) : (s.updGang c f).wl1 = s.wl1 := rfl
@[simp] theorem State.updGang_tlb (c : CtxId) (f : Gang → Gang) : (s.updGang c f).tlb = s.tlb := rfl
@[simp] theorem State.updGang_utlb (c : CtxId) (f : Gang → Gang) : (s.updGang c f).utlb = s.utlb := rfl
@[simp] theorem State.updGang_missq (c : CtxId) (f : Gang → Gang) : (s.updGang c f).missq = s.missq := rfl
@[simp] theorem State.updGang_icache (c : CtxId) (f : Gang → Gang) : (s.updGang c f).icache = s.icache := rfl
@[simp] theorem State.updGang_codeOld (c : CtxId) (f : Gang → Gang) : (s.updGang c f).codeOld = s.codeOld := rfl
@[simp] theorem State.updGang_l1 (c : CtxId) (f : Gang → Gang) : (s.updGang c f).l1 = s.l1 := rfl
@[simp] theorem State.updGang_ccache (c : CtxId) (f : Gang → Gang) : (s.updGang c f).ccache = s.ccache := rfl
@[simp] theorem State.updGang_home (c : CtxId) (f : Gang → Gang) : (s.updGang c f).home = s.home := rfl
@[simp] theorem State.updGang_coh (c : CtxId) (f : Gang → Gang) : (s.updGang c f).coh = s.coh := rfl
@[simp] theorem State.updGang_sysctx (c : CtxId) (f : Gang → Gang) : (s.updGang c f).sysctx = s.sysctx := rfl
@[simp] theorem State.updGang_ovf (c : CtxId) (f : Gang → Gang) : (s.updGang c f).ovf = s.ovf := rfl
@[simp] theorem State.updGang_ovfEvents (c : CtxId) (f : Gang → Gang) : (s.updGang c f).ovfEvents = s.ovfEvents := rfl
@[simp] theorem State.updGang_region (c : CtxId) (f : Gang → Gang) : (s.updGang c f).region = s.region := rfl
@[simp] theorem State.updGang_reg (c : CtxId) (f : Gang → Gang) : (s.updGang c f).reg = s.reg := rfl
@[simp] theorem State.updGang_merges (c : CtxId) (f : Gang → Gang) : (s.updGang c f).merges = s.merges := rfl
@[simp] theorem State.updGang_errs (c : CtxId) (f : Gang → Gang) : (s.updGang c f).errs = s.errs := rfl
@[simp] theorem State.updGang_errCounts (c : CtxId) (f : Gang → Gang) : (s.updGang c f).errCounts = s.errCounts := rfl
@[simp] theorem State.updGang_parts (c : CtxId) (f : Gang → Gang) : (s.updGang c f).parts = s.parts := rfl
@[simp] theorem State.updGang_vfs (c : CtxId) (f : Gang → Gang) : (s.updGang c f).vfs = s.vfs := rfl
@[simp] theorem State.updGang_queues (c : CtxId) (f : Gang → Gang) : (s.updGang c f).queues = s.queues := rfl
@[simp] theorem State.updGang_pkts (c : CtxId) (f : Gang → Gang) : (s.updGang c f).pkts = s.pkts := rfl
@[simp] theorem State.updGang_sigs (c : CtxId) (f : Gang → Gang) : (s.updGang c f).sigs = s.sigs := rfl
@[simp] theorem State.updGang_fw (c : CtxId) (f : Gang → Gang) : (s.updGang c f).fw = s.fw := rfl
@[simp] theorem State.updGang_throttled (c : CtxId) (f : Gang → Gang) : (s.updGang c f).throttled = s.throttled := rfl
@[simp] theorem State.updGang_thermal (c : CtxId) (f : Gang → Gang) : (s.updGang c f).thermal = s.thermal := rfl
@[simp] theorem State.updGang_retired (c : CtxId) (f : Gang → Gang) : (s.updGang c f).retired = s.retired := rfl
@[simp] theorem State.updGang_links (c : CtxId) (f : Gang → Gang) : (s.updGang c f).links = s.links := rfl
@[simp] theorem State.updGang_linkSeqs (c : CtxId) (f : Gang → Gang) : (s.updGang c f).linkSeqs = s.linkSeqs := rfl
@[simp] theorem State.updGang_linkHeld (c : CtxId) (f : Gang → Gang) : (s.updGang c f).linkHeld = s.linkHeld := rfl
@[simp] theorem State.updGang_snapshots (c : CtxId) (f : Gang → Gang) : (s.updGang c f).snapshots = s.snapshots := rfl
@[simp] theorem State.updGang_scrubSeq (c : CtxId) (f : Gang → Gang) : (s.updGang c f).scrubSeq = s.scrubSeq := rfl
@[simp] theorem State.updGang_exports (c : CtxId) (f : Gang → Gang) : (s.updGang c f).exports = s.exports := rfl
@[simp] theorem State.updGang_preempt (c : CtxId) (f : Gang → Gang) : (s.updGang c f).preempt = s.preempt := rfl
@[simp] theorem State.updGang_preReqs (c : CtxId) (f : Gang → Gang) : (s.updGang c f).preReqs = s.preReqs := rfl
@[simp] theorem State.updGang_time (c : CtxId) (f : Gang → Gang) : (s.updGang c f).time = s.time := rfl
@[simp] theorem State.updGang_out (c : CtxId) (f : Gang → Gang) : (s.updGang c f).out = s.out := rfl

@[simp] theorem State.updPart_cc (n : Nat) (f : Partition → Partition) : (s.updPart n f).cc = s.cc := rfl
@[simp] theorem State.updPart_agenda (n : Nat) (f : Partition → Partition) : (s.updPart n f).agenda = s.agenda := rfl
@[simp] theorem State.updPart_cur (n : Nat) (f : Partition → Partition) : (s.updPart n f).cur = s.cur := rfl
@[simp] theorem State.updPart_fresh (n : Nat) (f : Partition → Partition) : (s.updPart n f).fresh = s.fresh := rfl
@[simp] theorem State.updPart_nextId (n : Nat) (f : Partition → Partition) : (s.updPart n f).nextId = s.nextId := rfl
@[simp] theorem State.updPart_turns (n : Nat) (f : Partition → Partition) : (s.updPart n f).turns = s.turns := rfl
@[simp] theorem State.updPart_mem (n : Nat) (f : Partition → Partition) : (s.updPart n f).mem = s.mem := rfl
@[simp] theorem State.updPart_scratch (n : Nat) (f : Partition → Partition) : (s.updPart n f).scratch = s.scratch := rfl
@[simp] theorem State.updPart_pinned (n : Nat) (f : Partition → Partition) : (s.updPart n f).pinned = s.pinned := rfl
@[simp] theorem State.updPart_threads (n : Nat) (f : Partition → Partition) : (s.updPart n f).threads = s.threads := rfl
@[simp] theorem State.updPart_gangs (n : Nat) (f : Partition → Partition) : (s.updPart n f).gangs = s.gangs := rfl
@[simp] theorem State.updPart_teams (n : Nat) (f : Partition → Partition) : (s.updPart n f).teams = s.teams := rfl
@[simp] theorem State.updPart_launches (n : Nat) (f : Partition → Partition) : (s.updPart n f).launches = s.launches := rfl
@[simp] theorem State.updPart_saved (n : Nat) (f : Partition → Partition) : (s.updPart n f).saved = s.saved := rfl
@[simp] theorem State.updPart_ops (n : Nat) (f : Partition → Partition) : (s.updPart n f).ops = s.ops := rfl
@[simp] theorem State.updPart_msgs (n : Nat) (f : Partition → Partition) : (s.updPart n f).msgs = s.msgs := rfl
@[simp] theorem State.updPart_keys (n : Nat) (f : Partition → Partition) : (s.updPart n f).keys = s.keys := rfl
@[simp] theorem State.updPart_keyQueue (n : Nat) (f : Partition → Partition) : (s.updPart n f).keyQueue = s.keyQueue := rfl
@[simp] theorem State.updPart_launchRecs (n : Nat) (f : Partition → Partition) : (s.updPart n f).launchRecs = s.launchRecs := rfl
@[simp] theorem State.updPart_copyReqs (n : Nat) (f : Partition → Partition) : (s.updPart n f).copyReqs = s.copyReqs := rfl
@[simp] theorem State.updPart_races (n : Nat) (f : Partition → Partition) : (s.updPart n f).races = s.races := rfl
@[simp] theorem State.updPart_engine (n : Nat) (f : Partition → Partition) : (s.updPart n f).engine = s.engine := rfl
@[simp] theorem State.updPart_wide (n : Nat) (f : Partition → Partition) : (s.updPart n f).wide = s.wide := rfl
@[simp] theorem State.updPart_tileOut (n : Nat) (f : Partition → Partition) : (s.updPart n f).tileOut = s.tileOut := rfl
@[simp] theorem State.updPart_clusterIn (n : Nat) (f : Partition → Partition) : (s.updPart n f).clusterIn = s.clusterIn := rfl
@[simp] theorem State.updPart_clusterOut (n : Nat) (f : Partition → Partition) : (s.updPart n f).clusterOut = s.clusterOut := rfl
@[simp] theorem State.updPart_devIn (n : Nat) (f : Partition → Partition) : (s.updPart n f).devIn = s.devIn := rfl
@[simp] theorem State.updPart_devOut (n : Nat) (f : Partition → Partition) : (s.updPart n f).devOut = s.devOut := rfl
@[simp] theorem State.updPart_aggIn (n : Nat) (f : Partition → Partition) : (s.updPart n f).aggIn = s.aggIn := rfl
@[simp] theorem State.updPart_sentBatches (n : Nat) (f : Partition → Partition) : (s.updPart n f).sentBatches = s.sentBatches := rfl
@[simp] theorem State.updPart_jobDevice (n : Nat) (f : Partition → Partition) : (s.updPart n f).jobDevice = s.jobDevice := rfl
@[simp] theorem State.updPart_aggregator (n : Nat) (f : Partition → Partition) : (s.updPart n f).aggregator = s.aggregator := rfl
@[simp] theorem State.updPart_jobFaulted (n : Nat) (f : Partition → Partition) : (s.updPart n f).jobFaulted = s.jobFaulted := rfl
@[simp] theorem State.updPart_faultedDevices (n : Nat) (f : Partition → Partition) : (s.updPart n f).faultedDevices = s.faultedDevices := rfl
@[simp] theorem State.updPart_wl1 (n : Nat) (f : Partition → Partition) : (s.updPart n f).wl1 = s.wl1 := rfl
@[simp] theorem State.updPart_tlb (n : Nat) (f : Partition → Partition) : (s.updPart n f).tlb = s.tlb := rfl
@[simp] theorem State.updPart_utlb (n : Nat) (f : Partition → Partition) : (s.updPart n f).utlb = s.utlb := rfl
@[simp] theorem State.updPart_missq (n : Nat) (f : Partition → Partition) : (s.updPart n f).missq = s.missq := rfl
@[simp] theorem State.updPart_icache (n : Nat) (f : Partition → Partition) : (s.updPart n f).icache = s.icache := rfl
@[simp] theorem State.updPart_codeOld (n : Nat) (f : Partition → Partition) : (s.updPart n f).codeOld = s.codeOld := rfl
@[simp] theorem State.updPart_l1 (n : Nat) (f : Partition → Partition) : (s.updPart n f).l1 = s.l1 := rfl
@[simp] theorem State.updPart_ccache (n : Nat) (f : Partition → Partition) : (s.updPart n f).ccache = s.ccache := rfl
@[simp] theorem State.updPart_home (n : Nat) (f : Partition → Partition) : (s.updPart n f).home = s.home := rfl
@[simp] theorem State.updPart_coh (n : Nat) (f : Partition → Partition) : (s.updPart n f).coh = s.coh := rfl
@[simp] theorem State.updPart_sysctx (n : Nat) (f : Partition → Partition) : (s.updPart n f).sysctx = s.sysctx := rfl
@[simp] theorem State.updPart_ovf (n : Nat) (f : Partition → Partition) : (s.updPart n f).ovf = s.ovf := rfl
@[simp] theorem State.updPart_ovfEvents (n : Nat) (f : Partition → Partition) : (s.updPart n f).ovfEvents = s.ovfEvents := rfl
@[simp] theorem State.updPart_region (n : Nat) (f : Partition → Partition) : (s.updPart n f).region = s.region := rfl
@[simp] theorem State.updPart_reg (n : Nat) (f : Partition → Partition) : (s.updPart n f).reg = s.reg := rfl
@[simp] theorem State.updPart_merges (n : Nat) (f : Partition → Partition) : (s.updPart n f).merges = s.merges := rfl
@[simp] theorem State.updPart_errs (n : Nat) (f : Partition → Partition) : (s.updPart n f).errs = s.errs := rfl
@[simp] theorem State.updPart_errCounts (n : Nat) (f : Partition → Partition) : (s.updPart n f).errCounts = s.errCounts := rfl
@[simp] theorem State.updPart_parts (n : Nat) (f : Partition → Partition) : (s.updPart n f).parts = s.parts.map fun p => if p.cfg.num == n then f p else p := rfl
@[simp] theorem State.updPart_vfs (n : Nat) (f : Partition → Partition) : (s.updPart n f).vfs = s.vfs := rfl
@[simp] theorem State.updPart_queues (n : Nat) (f : Partition → Partition) : (s.updPart n f).queues = s.queues := rfl
@[simp] theorem State.updPart_pkts (n : Nat) (f : Partition → Partition) : (s.updPart n f).pkts = s.pkts := rfl
@[simp] theorem State.updPart_sigs (n : Nat) (f : Partition → Partition) : (s.updPart n f).sigs = s.sigs := rfl
@[simp] theorem State.updPart_fw (n : Nat) (f : Partition → Partition) : (s.updPart n f).fw = s.fw := rfl
@[simp] theorem State.updPart_throttled (n : Nat) (f : Partition → Partition) : (s.updPart n f).throttled = s.throttled := rfl
@[simp] theorem State.updPart_thermal (n : Nat) (f : Partition → Partition) : (s.updPart n f).thermal = s.thermal := rfl
@[simp] theorem State.updPart_retired (n : Nat) (f : Partition → Partition) : (s.updPart n f).retired = s.retired := rfl
@[simp] theorem State.updPart_links (n : Nat) (f : Partition → Partition) : (s.updPart n f).links = s.links := rfl
@[simp] theorem State.updPart_linkSeqs (n : Nat) (f : Partition → Partition) : (s.updPart n f).linkSeqs = s.linkSeqs := rfl
@[simp] theorem State.updPart_linkHeld (n : Nat) (f : Partition → Partition) : (s.updPart n f).linkHeld = s.linkHeld := rfl
@[simp] theorem State.updPart_snapshots (n : Nat) (f : Partition → Partition) : (s.updPart n f).snapshots = s.snapshots := rfl
@[simp] theorem State.updPart_scrubSeq (n : Nat) (f : Partition → Partition) : (s.updPart n f).scrubSeq = s.scrubSeq := rfl
@[simp] theorem State.updPart_exports (n : Nat) (f : Partition → Partition) : (s.updPart n f).exports = s.exports := rfl
@[simp] theorem State.updPart_preempt (n : Nat) (f : Partition → Partition) : (s.updPart n f).preempt = s.preempt := rfl
@[simp] theorem State.updPart_preReqs (n : Nat) (f : Partition → Partition) : (s.updPart n f).preReqs = s.preReqs := rfl
@[simp] theorem State.updPart_time (n : Nat) (f : Partition → Partition) : (s.updPart n f).time = s.time := rfl
@[simp] theorem State.updPart_out (n : Nat) (f : Partition → Partition) : (s.updPart n f).out = s.out := rfl

@[simp] theorem State.updTeam_cc (i : TeamId) (f : Team → Team) : (s.updTeam i f).cc = s.cc := rfl
@[simp] theorem State.updTeam_agenda (i : TeamId) (f : Team → Team) : (s.updTeam i f).agenda = s.agenda := rfl
@[simp] theorem State.updTeam_cur (i : TeamId) (f : Team → Team) : (s.updTeam i f).cur = s.cur := rfl
@[simp] theorem State.updTeam_fresh (i : TeamId) (f : Team → Team) : (s.updTeam i f).fresh = s.fresh := rfl
@[simp] theorem State.updTeam_nextId (i : TeamId) (f : Team → Team) : (s.updTeam i f).nextId = s.nextId := rfl
@[simp] theorem State.updTeam_turns (i : TeamId) (f : Team → Team) : (s.updTeam i f).turns = s.turns := rfl
@[simp] theorem State.updTeam_mem (i : TeamId) (f : Team → Team) : (s.updTeam i f).mem = s.mem := rfl
@[simp] theorem State.updTeam_scratch (i : TeamId) (f : Team → Team) : (s.updTeam i f).scratch = s.scratch := rfl
@[simp] theorem State.updTeam_pinned (i : TeamId) (f : Team → Team) : (s.updTeam i f).pinned = s.pinned := rfl
@[simp] theorem State.updTeam_threads (i : TeamId) (f : Team → Team) : (s.updTeam i f).threads = s.threads := rfl
@[simp] theorem State.updTeam_gangs (i : TeamId) (f : Team → Team) : (s.updTeam i f).gangs = s.gangs := rfl
@[simp] theorem State.updTeam_teams (i : TeamId) (f : Team → Team) : (s.updTeam i f).teams = s.teams.map fun t => if t.id == i then f t else t := rfl
@[simp] theorem State.updTeam_launches (i : TeamId) (f : Team → Team) : (s.updTeam i f).launches = s.launches := rfl
@[simp] theorem State.updTeam_saved (i : TeamId) (f : Team → Team) : (s.updTeam i f).saved = s.saved := rfl
@[simp] theorem State.updTeam_ops (i : TeamId) (f : Team → Team) : (s.updTeam i f).ops = s.ops := rfl
@[simp] theorem State.updTeam_msgs (i : TeamId) (f : Team → Team) : (s.updTeam i f).msgs = s.msgs := rfl
@[simp] theorem State.updTeam_keys (i : TeamId) (f : Team → Team) : (s.updTeam i f).keys = s.keys := rfl
@[simp] theorem State.updTeam_keyQueue (i : TeamId) (f : Team → Team) : (s.updTeam i f).keyQueue = s.keyQueue := rfl
@[simp] theorem State.updTeam_launchRecs (i : TeamId) (f : Team → Team) : (s.updTeam i f).launchRecs = s.launchRecs := rfl
@[simp] theorem State.updTeam_copyReqs (i : TeamId) (f : Team → Team) : (s.updTeam i f).copyReqs = s.copyReqs := rfl
@[simp] theorem State.updTeam_races (i : TeamId) (f : Team → Team) : (s.updTeam i f).races = s.races := rfl
@[simp] theorem State.updTeam_engine (i : TeamId) (f : Team → Team) : (s.updTeam i f).engine = s.engine := rfl
@[simp] theorem State.updTeam_wide (i : TeamId) (f : Team → Team) : (s.updTeam i f).wide = s.wide := rfl
@[simp] theorem State.updTeam_tileOut (i : TeamId) (f : Team → Team) : (s.updTeam i f).tileOut = s.tileOut := rfl
@[simp] theorem State.updTeam_clusterIn (i : TeamId) (f : Team → Team) : (s.updTeam i f).clusterIn = s.clusterIn := rfl
@[simp] theorem State.updTeam_clusterOut (i : TeamId) (f : Team → Team) : (s.updTeam i f).clusterOut = s.clusterOut := rfl
@[simp] theorem State.updTeam_devIn (i : TeamId) (f : Team → Team) : (s.updTeam i f).devIn = s.devIn := rfl
@[simp] theorem State.updTeam_devOut (i : TeamId) (f : Team → Team) : (s.updTeam i f).devOut = s.devOut := rfl
@[simp] theorem State.updTeam_aggIn (i : TeamId) (f : Team → Team) : (s.updTeam i f).aggIn = s.aggIn := rfl
@[simp] theorem State.updTeam_sentBatches (i : TeamId) (f : Team → Team) : (s.updTeam i f).sentBatches = s.sentBatches := rfl
@[simp] theorem State.updTeam_jobDevice (i : TeamId) (f : Team → Team) : (s.updTeam i f).jobDevice = s.jobDevice := rfl
@[simp] theorem State.updTeam_aggregator (i : TeamId) (f : Team → Team) : (s.updTeam i f).aggregator = s.aggregator := rfl
@[simp] theorem State.updTeam_jobFaulted (i : TeamId) (f : Team → Team) : (s.updTeam i f).jobFaulted = s.jobFaulted := rfl
@[simp] theorem State.updTeam_faultedDevices (i : TeamId) (f : Team → Team) : (s.updTeam i f).faultedDevices = s.faultedDevices := rfl
@[simp] theorem State.updTeam_wl1 (i : TeamId) (f : Team → Team) : (s.updTeam i f).wl1 = s.wl1 := rfl
@[simp] theorem State.updTeam_tlb (i : TeamId) (f : Team → Team) : (s.updTeam i f).tlb = s.tlb := rfl
@[simp] theorem State.updTeam_utlb (i : TeamId) (f : Team → Team) : (s.updTeam i f).utlb = s.utlb := rfl
@[simp] theorem State.updTeam_missq (i : TeamId) (f : Team → Team) : (s.updTeam i f).missq = s.missq := rfl
@[simp] theorem State.updTeam_icache (i : TeamId) (f : Team → Team) : (s.updTeam i f).icache = s.icache := rfl
@[simp] theorem State.updTeam_codeOld (i : TeamId) (f : Team → Team) : (s.updTeam i f).codeOld = s.codeOld := rfl
@[simp] theorem State.updTeam_l1 (i : TeamId) (f : Team → Team) : (s.updTeam i f).l1 = s.l1 := rfl
@[simp] theorem State.updTeam_ccache (i : TeamId) (f : Team → Team) : (s.updTeam i f).ccache = s.ccache := rfl
@[simp] theorem State.updTeam_home (i : TeamId) (f : Team → Team) : (s.updTeam i f).home = s.home := rfl
@[simp] theorem State.updTeam_coh (i : TeamId) (f : Team → Team) : (s.updTeam i f).coh = s.coh := rfl
@[simp] theorem State.updTeam_sysctx (i : TeamId) (f : Team → Team) : (s.updTeam i f).sysctx = s.sysctx := rfl
@[simp] theorem State.updTeam_ovf (i : TeamId) (f : Team → Team) : (s.updTeam i f).ovf = s.ovf := rfl
@[simp] theorem State.updTeam_ovfEvents (i : TeamId) (f : Team → Team) : (s.updTeam i f).ovfEvents = s.ovfEvents := rfl
@[simp] theorem State.updTeam_region (i : TeamId) (f : Team → Team) : (s.updTeam i f).region = s.region := rfl
@[simp] theorem State.updTeam_reg (i : TeamId) (f : Team → Team) : (s.updTeam i f).reg = s.reg := rfl
@[simp] theorem State.updTeam_merges (i : TeamId) (f : Team → Team) : (s.updTeam i f).merges = s.merges := rfl
@[simp] theorem State.updTeam_errs (i : TeamId) (f : Team → Team) : (s.updTeam i f).errs = s.errs := rfl
@[simp] theorem State.updTeam_errCounts (i : TeamId) (f : Team → Team) : (s.updTeam i f).errCounts = s.errCounts := rfl
@[simp] theorem State.updTeam_parts (i : TeamId) (f : Team → Team) : (s.updTeam i f).parts = s.parts := rfl
@[simp] theorem State.updTeam_vfs (i : TeamId) (f : Team → Team) : (s.updTeam i f).vfs = s.vfs := rfl
@[simp] theorem State.updTeam_queues (i : TeamId) (f : Team → Team) : (s.updTeam i f).queues = s.queues := rfl
@[simp] theorem State.updTeam_pkts (i : TeamId) (f : Team → Team) : (s.updTeam i f).pkts = s.pkts := rfl
@[simp] theorem State.updTeam_sigs (i : TeamId) (f : Team → Team) : (s.updTeam i f).sigs = s.sigs := rfl
@[simp] theorem State.updTeam_fw (i : TeamId) (f : Team → Team) : (s.updTeam i f).fw = s.fw := rfl
@[simp] theorem State.updTeam_throttled (i : TeamId) (f : Team → Team) : (s.updTeam i f).throttled = s.throttled := rfl
@[simp] theorem State.updTeam_thermal (i : TeamId) (f : Team → Team) : (s.updTeam i f).thermal = s.thermal := rfl
@[simp] theorem State.updTeam_retired (i : TeamId) (f : Team → Team) : (s.updTeam i f).retired = s.retired := rfl
@[simp] theorem State.updTeam_links (i : TeamId) (f : Team → Team) : (s.updTeam i f).links = s.links := rfl
@[simp] theorem State.updTeam_linkSeqs (i : TeamId) (f : Team → Team) : (s.updTeam i f).linkSeqs = s.linkSeqs := rfl
@[simp] theorem State.updTeam_linkHeld (i : TeamId) (f : Team → Team) : (s.updTeam i f).linkHeld = s.linkHeld := rfl
@[simp] theorem State.updTeam_snapshots (i : TeamId) (f : Team → Team) : (s.updTeam i f).snapshots = s.snapshots := rfl
@[simp] theorem State.updTeam_scrubSeq (i : TeamId) (f : Team → Team) : (s.updTeam i f).scrubSeq = s.scrubSeq := rfl
@[simp] theorem State.updTeam_exports (i : TeamId) (f : Team → Team) : (s.updTeam i f).exports = s.exports := rfl
@[simp] theorem State.updTeam_preempt (i : TeamId) (f : Team → Team) : (s.updTeam i f).preempt = s.preempt := rfl
@[simp] theorem State.updTeam_preReqs (i : TeamId) (f : Team → Team) : (s.updTeam i f).preReqs = s.preReqs := rfl
@[simp] theorem State.updTeam_time (i : TeamId) (f : Team → Team) : (s.updTeam i f).time = s.time := rfl
@[simp] theorem State.updTeam_out (i : TeamId) (f : Team → Team) : (s.updTeam i f).out = s.out := rfl

@[simp] theorem State.updLaunch_cc (n : Nat) (f : Launch → Launch) : (s.updLaunch n f).cc = s.cc := rfl
@[simp] theorem State.updLaunch_agenda (n : Nat) (f : Launch → Launch) : (s.updLaunch n f).agenda = s.agenda := rfl
@[simp] theorem State.updLaunch_cur (n : Nat) (f : Launch → Launch) : (s.updLaunch n f).cur = s.cur := rfl
@[simp] theorem State.updLaunch_fresh (n : Nat) (f : Launch → Launch) : (s.updLaunch n f).fresh = s.fresh := rfl
@[simp] theorem State.updLaunch_nextId (n : Nat) (f : Launch → Launch) : (s.updLaunch n f).nextId = s.nextId := rfl
@[simp] theorem State.updLaunch_turns (n : Nat) (f : Launch → Launch) : (s.updLaunch n f).turns = s.turns := rfl
@[simp] theorem State.updLaunch_mem (n : Nat) (f : Launch → Launch) : (s.updLaunch n f).mem = s.mem := rfl
@[simp] theorem State.updLaunch_scratch (n : Nat) (f : Launch → Launch) : (s.updLaunch n f).scratch = s.scratch := rfl
@[simp] theorem State.updLaunch_pinned (n : Nat) (f : Launch → Launch) : (s.updLaunch n f).pinned = s.pinned := rfl
@[simp] theorem State.updLaunch_threads (n : Nat) (f : Launch → Launch) : (s.updLaunch n f).threads = s.threads := rfl
@[simp] theorem State.updLaunch_gangs (n : Nat) (f : Launch → Launch) : (s.updLaunch n f).gangs = s.gangs := rfl
@[simp] theorem State.updLaunch_teams (n : Nat) (f : Launch → Launch) : (s.updLaunch n f).teams = s.teams := rfl
@[simp] theorem State.updLaunch_launches (n : Nat) (f : Launch → Launch) : (s.updLaunch n f).launches = s.launches.map fun l => if l.uid == n then f l else l := rfl
@[simp] theorem State.updLaunch_saved (n : Nat) (f : Launch → Launch) : (s.updLaunch n f).saved = s.saved := rfl
@[simp] theorem State.updLaunch_ops (n : Nat) (f : Launch → Launch) : (s.updLaunch n f).ops = s.ops := rfl
@[simp] theorem State.updLaunch_msgs (n : Nat) (f : Launch → Launch) : (s.updLaunch n f).msgs = s.msgs := rfl
@[simp] theorem State.updLaunch_keys (n : Nat) (f : Launch → Launch) : (s.updLaunch n f).keys = s.keys := rfl
@[simp] theorem State.updLaunch_keyQueue (n : Nat) (f : Launch → Launch) : (s.updLaunch n f).keyQueue = s.keyQueue := rfl
@[simp] theorem State.updLaunch_launchRecs (n : Nat) (f : Launch → Launch) : (s.updLaunch n f).launchRecs = s.launchRecs := rfl
@[simp] theorem State.updLaunch_copyReqs (n : Nat) (f : Launch → Launch) : (s.updLaunch n f).copyReqs = s.copyReqs := rfl
@[simp] theorem State.updLaunch_races (n : Nat) (f : Launch → Launch) : (s.updLaunch n f).races = s.races := rfl
@[simp] theorem State.updLaunch_engine (n : Nat) (f : Launch → Launch) : (s.updLaunch n f).engine = s.engine := rfl
@[simp] theorem State.updLaunch_wide (n : Nat) (f : Launch → Launch) : (s.updLaunch n f).wide = s.wide := rfl
@[simp] theorem State.updLaunch_tileOut (n : Nat) (f : Launch → Launch) : (s.updLaunch n f).tileOut = s.tileOut := rfl
@[simp] theorem State.updLaunch_clusterIn (n : Nat) (f : Launch → Launch) : (s.updLaunch n f).clusterIn = s.clusterIn := rfl
@[simp] theorem State.updLaunch_clusterOut (n : Nat) (f : Launch → Launch) : (s.updLaunch n f).clusterOut = s.clusterOut := rfl
@[simp] theorem State.updLaunch_devIn (n : Nat) (f : Launch → Launch) : (s.updLaunch n f).devIn = s.devIn := rfl
@[simp] theorem State.updLaunch_devOut (n : Nat) (f : Launch → Launch) : (s.updLaunch n f).devOut = s.devOut := rfl
@[simp] theorem State.updLaunch_aggIn (n : Nat) (f : Launch → Launch) : (s.updLaunch n f).aggIn = s.aggIn := rfl
@[simp] theorem State.updLaunch_sentBatches (n : Nat) (f : Launch → Launch) : (s.updLaunch n f).sentBatches = s.sentBatches := rfl
@[simp] theorem State.updLaunch_jobDevice (n : Nat) (f : Launch → Launch) : (s.updLaunch n f).jobDevice = s.jobDevice := rfl
@[simp] theorem State.updLaunch_aggregator (n : Nat) (f : Launch → Launch) : (s.updLaunch n f).aggregator = s.aggregator := rfl
@[simp] theorem State.updLaunch_jobFaulted (n : Nat) (f : Launch → Launch) : (s.updLaunch n f).jobFaulted = s.jobFaulted := rfl
@[simp] theorem State.updLaunch_faultedDevices (n : Nat) (f : Launch → Launch) : (s.updLaunch n f).faultedDevices = s.faultedDevices := rfl
@[simp] theorem State.updLaunch_wl1 (n : Nat) (f : Launch → Launch) : (s.updLaunch n f).wl1 = s.wl1 := rfl
@[simp] theorem State.updLaunch_tlb (n : Nat) (f : Launch → Launch) : (s.updLaunch n f).tlb = s.tlb := rfl
@[simp] theorem State.updLaunch_utlb (n : Nat) (f : Launch → Launch) : (s.updLaunch n f).utlb = s.utlb := rfl
@[simp] theorem State.updLaunch_missq (n : Nat) (f : Launch → Launch) : (s.updLaunch n f).missq = s.missq := rfl
@[simp] theorem State.updLaunch_icache (n : Nat) (f : Launch → Launch) : (s.updLaunch n f).icache = s.icache := rfl
@[simp] theorem State.updLaunch_codeOld (n : Nat) (f : Launch → Launch) : (s.updLaunch n f).codeOld = s.codeOld := rfl
@[simp] theorem State.updLaunch_l1 (n : Nat) (f : Launch → Launch) : (s.updLaunch n f).l1 = s.l1 := rfl
@[simp] theorem State.updLaunch_ccache (n : Nat) (f : Launch → Launch) : (s.updLaunch n f).ccache = s.ccache := rfl
@[simp] theorem State.updLaunch_home (n : Nat) (f : Launch → Launch) : (s.updLaunch n f).home = s.home := rfl
@[simp] theorem State.updLaunch_coh (n : Nat) (f : Launch → Launch) : (s.updLaunch n f).coh = s.coh := rfl
@[simp] theorem State.updLaunch_sysctx (n : Nat) (f : Launch → Launch) : (s.updLaunch n f).sysctx = s.sysctx := rfl
@[simp] theorem State.updLaunch_ovf (n : Nat) (f : Launch → Launch) : (s.updLaunch n f).ovf = s.ovf := rfl
@[simp] theorem State.updLaunch_ovfEvents (n : Nat) (f : Launch → Launch) : (s.updLaunch n f).ovfEvents = s.ovfEvents := rfl
@[simp] theorem State.updLaunch_region (n : Nat) (f : Launch → Launch) : (s.updLaunch n f).region = s.region := rfl
@[simp] theorem State.updLaunch_reg (n : Nat) (f : Launch → Launch) : (s.updLaunch n f).reg = s.reg := rfl
@[simp] theorem State.updLaunch_merges (n : Nat) (f : Launch → Launch) : (s.updLaunch n f).merges = s.merges := rfl
@[simp] theorem State.updLaunch_errs (n : Nat) (f : Launch → Launch) : (s.updLaunch n f).errs = s.errs := rfl
@[simp] theorem State.updLaunch_errCounts (n : Nat) (f : Launch → Launch) : (s.updLaunch n f).errCounts = s.errCounts := rfl
@[simp] theorem State.updLaunch_parts (n : Nat) (f : Launch → Launch) : (s.updLaunch n f).parts = s.parts := rfl
@[simp] theorem State.updLaunch_vfs (n : Nat) (f : Launch → Launch) : (s.updLaunch n f).vfs = s.vfs := rfl
@[simp] theorem State.updLaunch_queues (n : Nat) (f : Launch → Launch) : (s.updLaunch n f).queues = s.queues := rfl
@[simp] theorem State.updLaunch_pkts (n : Nat) (f : Launch → Launch) : (s.updLaunch n f).pkts = s.pkts := rfl
@[simp] theorem State.updLaunch_sigs (n : Nat) (f : Launch → Launch) : (s.updLaunch n f).sigs = s.sigs := rfl
@[simp] theorem State.updLaunch_fw (n : Nat) (f : Launch → Launch) : (s.updLaunch n f).fw = s.fw := rfl
@[simp] theorem State.updLaunch_throttled (n : Nat) (f : Launch → Launch) : (s.updLaunch n f).throttled = s.throttled := rfl
@[simp] theorem State.updLaunch_thermal (n : Nat) (f : Launch → Launch) : (s.updLaunch n f).thermal = s.thermal := rfl
@[simp] theorem State.updLaunch_retired (n : Nat) (f : Launch → Launch) : (s.updLaunch n f).retired = s.retired := rfl
@[simp] theorem State.updLaunch_links (n : Nat) (f : Launch → Launch) : (s.updLaunch n f).links = s.links := rfl
@[simp] theorem State.updLaunch_linkSeqs (n : Nat) (f : Launch → Launch) : (s.updLaunch n f).linkSeqs = s.linkSeqs := rfl
@[simp] theorem State.updLaunch_linkHeld (n : Nat) (f : Launch → Launch) : (s.updLaunch n f).linkHeld = s.linkHeld := rfl
@[simp] theorem State.updLaunch_snapshots (n : Nat) (f : Launch → Launch) : (s.updLaunch n f).snapshots = s.snapshots := rfl
@[simp] theorem State.updLaunch_scrubSeq (n : Nat) (f : Launch → Launch) : (s.updLaunch n f).scrubSeq = s.scrubSeq := rfl
@[simp] theorem State.updLaunch_exports (n : Nat) (f : Launch → Launch) : (s.updLaunch n f).exports = s.exports := rfl
@[simp] theorem State.updLaunch_preempt (n : Nat) (f : Launch → Launch) : (s.updLaunch n f).preempt = s.preempt := rfl
@[simp] theorem State.updLaunch_preReqs (n : Nat) (f : Launch → Launch) : (s.updLaunch n f).preReqs = s.preReqs := rfl
@[simp] theorem State.updLaunch_time (n : Nat) (f : Launch → Launch) : (s.updLaunch n f).time = s.time := rfl
@[simp] theorem State.updLaunch_out (n : Nat) (f : Launch → Launch) : (s.updLaunch n f).out = s.out := rfl

@[simp] theorem State.addOp_cc (c : CtxId) (fl : Option Nat) (k : OpKind) (rel acq : Bool) : (s.addOp c fl k rel acq).cc = s.cc := rfl
@[simp] theorem State.addOp_agenda (c : CtxId) (fl : Option Nat) (k : OpKind) (rel acq : Bool) : (s.addOp c fl k rel acq).agenda = s.agenda := rfl
@[simp] theorem State.addOp_cur (c : CtxId) (fl : Option Nat) (k : OpKind) (rel acq : Bool) : (s.addOp c fl k rel acq).cur = s.cur := rfl
@[simp] theorem State.addOp_fresh (c : CtxId) (fl : Option Nat) (k : OpKind) (rel acq : Bool) : (s.addOp c fl k rel acq).fresh = s.fresh := rfl
@[simp] theorem State.addOp_nextId (c : CtxId) (fl : Option Nat) (k : OpKind) (rel acq : Bool) : (s.addOp c fl k rel acq).nextId = s.nextId + 1 := rfl
@[simp] theorem State.addOp_turns (c : CtxId) (fl : Option Nat) (k : OpKind) (rel acq : Bool) : (s.addOp c fl k rel acq).turns = s.turns := rfl
@[simp] theorem State.addOp_mem (c : CtxId) (fl : Option Nat) (k : OpKind) (rel acq : Bool) : (s.addOp c fl k rel acq).mem = s.mem := rfl
@[simp] theorem State.addOp_scratch (c : CtxId) (fl : Option Nat) (k : OpKind) (rel acq : Bool) : (s.addOp c fl k rel acq).scratch = s.scratch := rfl
@[simp] theorem State.addOp_pinned (c : CtxId) (fl : Option Nat) (k : OpKind) (rel acq : Bool) : (s.addOp c fl k rel acq).pinned = s.pinned := rfl
@[simp] theorem State.addOp_threads (c : CtxId) (fl : Option Nat) (k : OpKind) (rel acq : Bool) : (s.addOp c fl k rel acq).threads = s.threads := rfl
@[simp] theorem State.addOp_gangs (c : CtxId) (fl : Option Nat) (k : OpKind) (rel acq : Bool) : (s.addOp c fl k rel acq).gangs = s.gangs := rfl
@[simp] theorem State.addOp_teams (c : CtxId) (fl : Option Nat) (k : OpKind) (rel acq : Bool) : (s.addOp c fl k rel acq).teams = s.teams := rfl
@[simp] theorem State.addOp_launches (c : CtxId) (fl : Option Nat) (k : OpKind) (rel acq : Bool) : (s.addOp c fl k rel acq).launches = s.launches := rfl
@[simp] theorem State.addOp_saved (c : CtxId) (fl : Option Nat) (k : OpKind) (rel acq : Bool) : (s.addOp c fl k rel acq).saved = s.saved := rfl
@[simp] theorem State.addOp_ops (c : CtxId) (fl : Option Nat) (k : OpKind) (rel acq : Bool) : (s.addOp c fl k rel acq).ops = s.ops ++ [⟨s.nextId, c, (s.partOf c).1, (s.partOf c).2, fl, rel, acq, k⟩] := rfl
@[simp] theorem State.addOp_msgs (c : CtxId) (fl : Option Nat) (k : OpKind) (rel acq : Bool) : (s.addOp c fl k rel acq).msgs = s.msgs := rfl
@[simp] theorem State.addOp_keys (c : CtxId) (fl : Option Nat) (k : OpKind) (rel acq : Bool) : (s.addOp c fl k rel acq).keys = s.keys := rfl
@[simp] theorem State.addOp_keyQueue (c : CtxId) (fl : Option Nat) (k : OpKind) (rel acq : Bool) : (s.addOp c fl k rel acq).keyQueue = s.keyQueue := rfl
@[simp] theorem State.addOp_launchRecs (c : CtxId) (fl : Option Nat) (k : OpKind) (rel acq : Bool) : (s.addOp c fl k rel acq).launchRecs = s.launchRecs := rfl
@[simp] theorem State.addOp_copyReqs (c : CtxId) (fl : Option Nat) (k : OpKind) (rel acq : Bool) : (s.addOp c fl k rel acq).copyReqs = s.copyReqs := rfl
@[simp] theorem State.addOp_races (c : CtxId) (fl : Option Nat) (k : OpKind) (rel acq : Bool) : (s.addOp c fl k rel acq).races = s.races := rfl
@[simp] theorem State.addOp_engine (c : CtxId) (fl : Option Nat) (k : OpKind) (rel acq : Bool) : (s.addOp c fl k rel acq).engine = s.engine := rfl
@[simp] theorem State.addOp_wide (c : CtxId) (fl : Option Nat) (k : OpKind) (rel acq : Bool) : (s.addOp c fl k rel acq).wide = s.wide := rfl
@[simp] theorem State.addOp_tileOut (c : CtxId) (fl : Option Nat) (k : OpKind) (rel acq : Bool) : (s.addOp c fl k rel acq).tileOut = s.tileOut := rfl
@[simp] theorem State.addOp_clusterIn (c : CtxId) (fl : Option Nat) (k : OpKind) (rel acq : Bool) : (s.addOp c fl k rel acq).clusterIn = s.clusterIn := rfl
@[simp] theorem State.addOp_clusterOut (c : CtxId) (fl : Option Nat) (k : OpKind) (rel acq : Bool) : (s.addOp c fl k rel acq).clusterOut = s.clusterOut := rfl
@[simp] theorem State.addOp_devIn (c : CtxId) (fl : Option Nat) (k : OpKind) (rel acq : Bool) : (s.addOp c fl k rel acq).devIn = s.devIn := rfl
@[simp] theorem State.addOp_devOut (c : CtxId) (fl : Option Nat) (k : OpKind) (rel acq : Bool) : (s.addOp c fl k rel acq).devOut = s.devOut := rfl
@[simp] theorem State.addOp_aggIn (c : CtxId) (fl : Option Nat) (k : OpKind) (rel acq : Bool) : (s.addOp c fl k rel acq).aggIn = s.aggIn := rfl
@[simp] theorem State.addOp_sentBatches (c : CtxId) (fl : Option Nat) (k : OpKind) (rel acq : Bool) : (s.addOp c fl k rel acq).sentBatches = s.sentBatches := rfl
@[simp] theorem State.addOp_jobDevice (c : CtxId) (fl : Option Nat) (k : OpKind) (rel acq : Bool) : (s.addOp c fl k rel acq).jobDevice = s.jobDevice := rfl
@[simp] theorem State.addOp_aggregator (c : CtxId) (fl : Option Nat) (k : OpKind) (rel acq : Bool) : (s.addOp c fl k rel acq).aggregator = s.aggregator := rfl
@[simp] theorem State.addOp_jobFaulted (c : CtxId) (fl : Option Nat) (k : OpKind) (rel acq : Bool) : (s.addOp c fl k rel acq).jobFaulted = s.jobFaulted := rfl
@[simp] theorem State.addOp_faultedDevices (c : CtxId) (fl : Option Nat) (k : OpKind) (rel acq : Bool) : (s.addOp c fl k rel acq).faultedDevices = s.faultedDevices := rfl
@[simp] theorem State.addOp_wl1 (c : CtxId) (fl : Option Nat) (k : OpKind) (rel acq : Bool) : (s.addOp c fl k rel acq).wl1 = s.wl1 := rfl
@[simp] theorem State.addOp_tlb (c : CtxId) (fl : Option Nat) (k : OpKind) (rel acq : Bool) : (s.addOp c fl k rel acq).tlb = s.tlb := rfl
@[simp] theorem State.addOp_utlb (c : CtxId) (fl : Option Nat) (k : OpKind) (rel acq : Bool) : (s.addOp c fl k rel acq).utlb = s.utlb := rfl
@[simp] theorem State.addOp_missq (c : CtxId) (fl : Option Nat) (k : OpKind) (rel acq : Bool) : (s.addOp c fl k rel acq).missq = s.missq := rfl
@[simp] theorem State.addOp_icache (c : CtxId) (fl : Option Nat) (k : OpKind) (rel acq : Bool) : (s.addOp c fl k rel acq).icache = s.icache := rfl
@[simp] theorem State.addOp_codeOld (c : CtxId) (fl : Option Nat) (k : OpKind) (rel acq : Bool) : (s.addOp c fl k rel acq).codeOld = s.codeOld := rfl
@[simp] theorem State.addOp_l1 (c : CtxId) (fl : Option Nat) (k : OpKind) (rel acq : Bool) : (s.addOp c fl k rel acq).l1 = s.l1 := rfl
@[simp] theorem State.addOp_ccache (c : CtxId) (fl : Option Nat) (k : OpKind) (rel acq : Bool) : (s.addOp c fl k rel acq).ccache = s.ccache := rfl
@[simp] theorem State.addOp_home (c : CtxId) (fl : Option Nat) (k : OpKind) (rel acq : Bool) : (s.addOp c fl k rel acq).home = s.home := rfl
@[simp] theorem State.addOp_coh (c : CtxId) (fl : Option Nat) (k : OpKind) (rel acq : Bool) : (s.addOp c fl k rel acq).coh = s.coh := rfl
@[simp] theorem State.addOp_sysctx (c : CtxId) (fl : Option Nat) (k : OpKind) (rel acq : Bool) : (s.addOp c fl k rel acq).sysctx = s.sysctx := rfl
@[simp] theorem State.addOp_ovf (c : CtxId) (fl : Option Nat) (k : OpKind) (rel acq : Bool) : (s.addOp c fl k rel acq).ovf = s.ovf := rfl
@[simp] theorem State.addOp_ovfEvents (c : CtxId) (fl : Option Nat) (k : OpKind) (rel acq : Bool) : (s.addOp c fl k rel acq).ovfEvents = s.ovfEvents := rfl
@[simp] theorem State.addOp_region (c : CtxId) (fl : Option Nat) (k : OpKind) (rel acq : Bool) : (s.addOp c fl k rel acq).region = s.region := rfl
@[simp] theorem State.addOp_reg (c : CtxId) (fl : Option Nat) (k : OpKind) (rel acq : Bool) : (s.addOp c fl k rel acq).reg = s.reg := rfl
@[simp] theorem State.addOp_merges (c : CtxId) (fl : Option Nat) (k : OpKind) (rel acq : Bool) : (s.addOp c fl k rel acq).merges = s.merges := rfl
@[simp] theorem State.addOp_errs (c : CtxId) (fl : Option Nat) (k : OpKind) (rel acq : Bool) : (s.addOp c fl k rel acq).errs = s.errs := rfl
@[simp] theorem State.addOp_errCounts (c : CtxId) (fl : Option Nat) (k : OpKind) (rel acq : Bool) : (s.addOp c fl k rel acq).errCounts = s.errCounts := rfl
@[simp] theorem State.addOp_parts (c : CtxId) (fl : Option Nat) (k : OpKind) (rel acq : Bool) : (s.addOp c fl k rel acq).parts = s.parts := rfl
@[simp] theorem State.addOp_vfs (c : CtxId) (fl : Option Nat) (k : OpKind) (rel acq : Bool) : (s.addOp c fl k rel acq).vfs = s.vfs := rfl
@[simp] theorem State.addOp_queues (c : CtxId) (fl : Option Nat) (k : OpKind) (rel acq : Bool) : (s.addOp c fl k rel acq).queues = s.queues := rfl
@[simp] theorem State.addOp_pkts (c : CtxId) (fl : Option Nat) (k : OpKind) (rel acq : Bool) : (s.addOp c fl k rel acq).pkts = s.pkts := rfl
@[simp] theorem State.addOp_sigs (c : CtxId) (fl : Option Nat) (k : OpKind) (rel acq : Bool) : (s.addOp c fl k rel acq).sigs = s.sigs := rfl
@[simp] theorem State.addOp_fw (c : CtxId) (fl : Option Nat) (k : OpKind) (rel acq : Bool) : (s.addOp c fl k rel acq).fw = s.fw := rfl
@[simp] theorem State.addOp_throttled (c : CtxId) (fl : Option Nat) (k : OpKind) (rel acq : Bool) : (s.addOp c fl k rel acq).throttled = s.throttled := rfl
@[simp] theorem State.addOp_thermal (c : CtxId) (fl : Option Nat) (k : OpKind) (rel acq : Bool) : (s.addOp c fl k rel acq).thermal = s.thermal := rfl
@[simp] theorem State.addOp_retired (c : CtxId) (fl : Option Nat) (k : OpKind) (rel acq : Bool) : (s.addOp c fl k rel acq).retired = s.retired := rfl
@[simp] theorem State.addOp_links (c : CtxId) (fl : Option Nat) (k : OpKind) (rel acq : Bool) : (s.addOp c fl k rel acq).links = s.links := rfl
@[simp] theorem State.addOp_linkSeqs (c : CtxId) (fl : Option Nat) (k : OpKind) (rel acq : Bool) : (s.addOp c fl k rel acq).linkSeqs = s.linkSeqs := rfl
@[simp] theorem State.addOp_linkHeld (c : CtxId) (fl : Option Nat) (k : OpKind) (rel acq : Bool) : (s.addOp c fl k rel acq).linkHeld = s.linkHeld := rfl
@[simp] theorem State.addOp_snapshots (c : CtxId) (fl : Option Nat) (k : OpKind) (rel acq : Bool) : (s.addOp c fl k rel acq).snapshots = s.snapshots := rfl
@[simp] theorem State.addOp_scrubSeq (c : CtxId) (fl : Option Nat) (k : OpKind) (rel acq : Bool) : (s.addOp c fl k rel acq).scrubSeq = s.scrubSeq := rfl
@[simp] theorem State.addOp_exports (c : CtxId) (fl : Option Nat) (k : OpKind) (rel acq : Bool) : (s.addOp c fl k rel acq).exports = s.exports := rfl
@[simp] theorem State.addOp_preempt (c : CtxId) (fl : Option Nat) (k : OpKind) (rel acq : Bool) : (s.addOp c fl k rel acq).preempt = s.preempt := rfl
@[simp] theorem State.addOp_preReqs (c : CtxId) (fl : Option Nat) (k : OpKind) (rel acq : Bool) : (s.addOp c fl k rel acq).preReqs = s.preReqs := rfl
@[simp] theorem State.addOp_time (c : CtxId) (fl : Option Nat) (k : OpKind) (rel acq : Bool) : (s.addOp c fl k rel acq).time = s.time := rfl
@[simp] theorem State.addOp_out (c : CtxId) (fl : Option Nat) (k : OpKind) (rel acq : Bool) : (s.addOp c fl k rel acq).out = s.out := rfl

@[simp] theorem State.updOp_cc (n : Nat) (f : Op → Op) : (s.updOp n f).cc = s.cc := rfl
@[simp] theorem State.updOp_agenda (n : Nat) (f : Op → Op) : (s.updOp n f).agenda = s.agenda := rfl
@[simp] theorem State.updOp_cur (n : Nat) (f : Op → Op) : (s.updOp n f).cur = s.cur := rfl
@[simp] theorem State.updOp_fresh (n : Nat) (f : Op → Op) : (s.updOp n f).fresh = s.fresh := rfl
@[simp] theorem State.updOp_nextId (n : Nat) (f : Op → Op) : (s.updOp n f).nextId = s.nextId := rfl
@[simp] theorem State.updOp_turns (n : Nat) (f : Op → Op) : (s.updOp n f).turns = s.turns := rfl
@[simp] theorem State.updOp_mem (n : Nat) (f : Op → Op) : (s.updOp n f).mem = s.mem := rfl
@[simp] theorem State.updOp_scratch (n : Nat) (f : Op → Op) : (s.updOp n f).scratch = s.scratch := rfl
@[simp] theorem State.updOp_pinned (n : Nat) (f : Op → Op) : (s.updOp n f).pinned = s.pinned := rfl
@[simp] theorem State.updOp_threads (n : Nat) (f : Op → Op) : (s.updOp n f).threads = s.threads := rfl
@[simp] theorem State.updOp_gangs (n : Nat) (f : Op → Op) : (s.updOp n f).gangs = s.gangs := rfl
@[simp] theorem State.updOp_teams (n : Nat) (f : Op → Op) : (s.updOp n f).teams = s.teams := rfl
@[simp] theorem State.updOp_launches (n : Nat) (f : Op → Op) : (s.updOp n f).launches = s.launches := rfl
@[simp] theorem State.updOp_saved (n : Nat) (f : Op → Op) : (s.updOp n f).saved = s.saved := rfl
@[simp] theorem State.updOp_ops (n : Nat) (f : Op → Op) : (s.updOp n f).ops = s.ops.map fun o => if o.id == n then f o else o := rfl
@[simp] theorem State.updOp_msgs (n : Nat) (f : Op → Op) : (s.updOp n f).msgs = s.msgs := rfl
@[simp] theorem State.updOp_keys (n : Nat) (f : Op → Op) : (s.updOp n f).keys = s.keys := rfl
@[simp] theorem State.updOp_keyQueue (n : Nat) (f : Op → Op) : (s.updOp n f).keyQueue = s.keyQueue := rfl
@[simp] theorem State.updOp_launchRecs (n : Nat) (f : Op → Op) : (s.updOp n f).launchRecs = s.launchRecs := rfl
@[simp] theorem State.updOp_copyReqs (n : Nat) (f : Op → Op) : (s.updOp n f).copyReqs = s.copyReqs := rfl
@[simp] theorem State.updOp_races (n : Nat) (f : Op → Op) : (s.updOp n f).races = s.races := rfl
@[simp] theorem State.updOp_engine (n : Nat) (f : Op → Op) : (s.updOp n f).engine = s.engine := rfl
@[simp] theorem State.updOp_wide (n : Nat) (f : Op → Op) : (s.updOp n f).wide = s.wide := rfl
@[simp] theorem State.updOp_tileOut (n : Nat) (f : Op → Op) : (s.updOp n f).tileOut = s.tileOut := rfl
@[simp] theorem State.updOp_clusterIn (n : Nat) (f : Op → Op) : (s.updOp n f).clusterIn = s.clusterIn := rfl
@[simp] theorem State.updOp_clusterOut (n : Nat) (f : Op → Op) : (s.updOp n f).clusterOut = s.clusterOut := rfl
@[simp] theorem State.updOp_devIn (n : Nat) (f : Op → Op) : (s.updOp n f).devIn = s.devIn := rfl
@[simp] theorem State.updOp_devOut (n : Nat) (f : Op → Op) : (s.updOp n f).devOut = s.devOut := rfl
@[simp] theorem State.updOp_aggIn (n : Nat) (f : Op → Op) : (s.updOp n f).aggIn = s.aggIn := rfl
@[simp] theorem State.updOp_sentBatches (n : Nat) (f : Op → Op) : (s.updOp n f).sentBatches = s.sentBatches := rfl
@[simp] theorem State.updOp_jobDevice (n : Nat) (f : Op → Op) : (s.updOp n f).jobDevice = s.jobDevice := rfl
@[simp] theorem State.updOp_aggregator (n : Nat) (f : Op → Op) : (s.updOp n f).aggregator = s.aggregator := rfl
@[simp] theorem State.updOp_jobFaulted (n : Nat) (f : Op → Op) : (s.updOp n f).jobFaulted = s.jobFaulted := rfl
@[simp] theorem State.updOp_faultedDevices (n : Nat) (f : Op → Op) : (s.updOp n f).faultedDevices = s.faultedDevices := rfl
@[simp] theorem State.updOp_wl1 (n : Nat) (f : Op → Op) : (s.updOp n f).wl1 = s.wl1 := rfl
@[simp] theorem State.updOp_tlb (n : Nat) (f : Op → Op) : (s.updOp n f).tlb = s.tlb := rfl
@[simp] theorem State.updOp_utlb (n : Nat) (f : Op → Op) : (s.updOp n f).utlb = s.utlb := rfl
@[simp] theorem State.updOp_missq (n : Nat) (f : Op → Op) : (s.updOp n f).missq = s.missq := rfl
@[simp] theorem State.updOp_icache (n : Nat) (f : Op → Op) : (s.updOp n f).icache = s.icache := rfl
@[simp] theorem State.updOp_codeOld (n : Nat) (f : Op → Op) : (s.updOp n f).codeOld = s.codeOld := rfl
@[simp] theorem State.updOp_l1 (n : Nat) (f : Op → Op) : (s.updOp n f).l1 = s.l1 := rfl
@[simp] theorem State.updOp_ccache (n : Nat) (f : Op → Op) : (s.updOp n f).ccache = s.ccache := rfl
@[simp] theorem State.updOp_home (n : Nat) (f : Op → Op) : (s.updOp n f).home = s.home := rfl
@[simp] theorem State.updOp_coh (n : Nat) (f : Op → Op) : (s.updOp n f).coh = s.coh := rfl
@[simp] theorem State.updOp_sysctx (n : Nat) (f : Op → Op) : (s.updOp n f).sysctx = s.sysctx := rfl
@[simp] theorem State.updOp_ovf (n : Nat) (f : Op → Op) : (s.updOp n f).ovf = s.ovf := rfl
@[simp] theorem State.updOp_ovfEvents (n : Nat) (f : Op → Op) : (s.updOp n f).ovfEvents = s.ovfEvents := rfl
@[simp] theorem State.updOp_region (n : Nat) (f : Op → Op) : (s.updOp n f).region = s.region := rfl
@[simp] theorem State.updOp_reg (n : Nat) (f : Op → Op) : (s.updOp n f).reg = s.reg := rfl
@[simp] theorem State.updOp_merges (n : Nat) (f : Op → Op) : (s.updOp n f).merges = s.merges := rfl
@[simp] theorem State.updOp_errs (n : Nat) (f : Op → Op) : (s.updOp n f).errs = s.errs := rfl
@[simp] theorem State.updOp_errCounts (n : Nat) (f : Op → Op) : (s.updOp n f).errCounts = s.errCounts := rfl
@[simp] theorem State.updOp_parts (n : Nat) (f : Op → Op) : (s.updOp n f).parts = s.parts := rfl
@[simp] theorem State.updOp_vfs (n : Nat) (f : Op → Op) : (s.updOp n f).vfs = s.vfs := rfl
@[simp] theorem State.updOp_queues (n : Nat) (f : Op → Op) : (s.updOp n f).queues = s.queues := rfl
@[simp] theorem State.updOp_pkts (n : Nat) (f : Op → Op) : (s.updOp n f).pkts = s.pkts := rfl
@[simp] theorem State.updOp_sigs (n : Nat) (f : Op → Op) : (s.updOp n f).sigs = s.sigs := rfl
@[simp] theorem State.updOp_fw (n : Nat) (f : Op → Op) : (s.updOp n f).fw = s.fw := rfl
@[simp] theorem State.updOp_throttled (n : Nat) (f : Op → Op) : (s.updOp n f).throttled = s.throttled := rfl
@[simp] theorem State.updOp_thermal (n : Nat) (f : Op → Op) : (s.updOp n f).thermal = s.thermal := rfl
@[simp] theorem State.updOp_retired (n : Nat) (f : Op → Op) : (s.updOp n f).retired = s.retired := rfl
@[simp] theorem State.updOp_links (n : Nat) (f : Op → Op) : (s.updOp n f).links = s.links := rfl
@[simp] theorem State.updOp_linkSeqs (n : Nat) (f : Op → Op) : (s.updOp n f).linkSeqs = s.linkSeqs := rfl
@[simp] theorem State.updOp_linkHeld (n : Nat) (f : Op → Op) : (s.updOp n f).linkHeld = s.linkHeld := rfl
@[simp] theorem State.updOp_snapshots (n : Nat) (f : Op → Op) : (s.updOp n f).snapshots = s.snapshots := rfl
@[simp] theorem State.updOp_scrubSeq (n : Nat) (f : Op → Op) : (s.updOp n f).scrubSeq = s.scrubSeq := rfl
@[simp] theorem State.updOp_exports (n : Nat) (f : Op → Op) : (s.updOp n f).exports = s.exports := rfl
@[simp] theorem State.updOp_preempt (n : Nat) (f : Op → Op) : (s.updOp n f).preempt = s.preempt := rfl
@[simp] theorem State.updOp_preReqs (n : Nat) (f : Op → Op) : (s.updOp n f).preReqs = s.preReqs := rfl
@[simp] theorem State.updOp_time (n : Nat) (f : Op → Op) : (s.updOp n f).time = s.time := rfl
@[simp] theorem State.updOp_out (n : Nat) (f : Op → Op) : (s.updOp n f).out = s.out := rfl

@[simp] theorem State.dropOp_cc (n : Nat) : (s.dropOp n).cc = s.cc := rfl
@[simp] theorem State.dropOp_agenda (n : Nat) : (s.dropOp n).agenda = s.agenda := rfl
@[simp] theorem State.dropOp_cur (n : Nat) : (s.dropOp n).cur = s.cur := rfl
@[simp] theorem State.dropOp_fresh (n : Nat) : (s.dropOp n).fresh = s.fresh := rfl
@[simp] theorem State.dropOp_nextId (n : Nat) : (s.dropOp n).nextId = s.nextId := rfl
@[simp] theorem State.dropOp_turns (n : Nat) : (s.dropOp n).turns = s.turns := rfl
@[simp] theorem State.dropOp_mem (n : Nat) : (s.dropOp n).mem = s.mem := rfl
@[simp] theorem State.dropOp_scratch (n : Nat) : (s.dropOp n).scratch = s.scratch := rfl
@[simp] theorem State.dropOp_pinned (n : Nat) : (s.dropOp n).pinned = s.pinned := rfl
@[simp] theorem State.dropOp_threads (n : Nat) : (s.dropOp n).threads = s.threads := rfl
@[simp] theorem State.dropOp_gangs (n : Nat) : (s.dropOp n).gangs = s.gangs := rfl
@[simp] theorem State.dropOp_teams (n : Nat) : (s.dropOp n).teams = s.teams := rfl
@[simp] theorem State.dropOp_launches (n : Nat) : (s.dropOp n).launches = s.launches := rfl
@[simp] theorem State.dropOp_saved (n : Nat) : (s.dropOp n).saved = s.saved := rfl
@[simp] theorem State.dropOp_ops (n : Nat) : (s.dropOp n).ops = s.ops.filter fun o => o.id != n := rfl
@[simp] theorem State.dropOp_msgs (n : Nat) : (s.dropOp n).msgs = s.msgs := rfl
@[simp] theorem State.dropOp_keys (n : Nat) : (s.dropOp n).keys = s.keys := rfl
@[simp] theorem State.dropOp_keyQueue (n : Nat) : (s.dropOp n).keyQueue = s.keyQueue := rfl
@[simp] theorem State.dropOp_launchRecs (n : Nat) : (s.dropOp n).launchRecs = s.launchRecs := rfl
@[simp] theorem State.dropOp_copyReqs (n : Nat) : (s.dropOp n).copyReqs = s.copyReqs := rfl
@[simp] theorem State.dropOp_races (n : Nat) : (s.dropOp n).races = s.races := rfl
@[simp] theorem State.dropOp_engine (n : Nat) : (s.dropOp n).engine = s.engine := rfl
@[simp] theorem State.dropOp_wide (n : Nat) : (s.dropOp n).wide = s.wide := rfl
@[simp] theorem State.dropOp_tileOut (n : Nat) : (s.dropOp n).tileOut = s.tileOut := rfl
@[simp] theorem State.dropOp_clusterIn (n : Nat) : (s.dropOp n).clusterIn = s.clusterIn := rfl
@[simp] theorem State.dropOp_clusterOut (n : Nat) : (s.dropOp n).clusterOut = s.clusterOut := rfl
@[simp] theorem State.dropOp_devIn (n : Nat) : (s.dropOp n).devIn = s.devIn := rfl
@[simp] theorem State.dropOp_devOut (n : Nat) : (s.dropOp n).devOut = s.devOut := rfl
@[simp] theorem State.dropOp_aggIn (n : Nat) : (s.dropOp n).aggIn = s.aggIn := rfl
@[simp] theorem State.dropOp_sentBatches (n : Nat) : (s.dropOp n).sentBatches = s.sentBatches := rfl
@[simp] theorem State.dropOp_jobDevice (n : Nat) : (s.dropOp n).jobDevice = s.jobDevice := rfl
@[simp] theorem State.dropOp_aggregator (n : Nat) : (s.dropOp n).aggregator = s.aggregator := rfl
@[simp] theorem State.dropOp_jobFaulted (n : Nat) : (s.dropOp n).jobFaulted = s.jobFaulted := rfl
@[simp] theorem State.dropOp_faultedDevices (n : Nat) : (s.dropOp n).faultedDevices = s.faultedDevices := rfl
@[simp] theorem State.dropOp_wl1 (n : Nat) : (s.dropOp n).wl1 = s.wl1 := rfl
@[simp] theorem State.dropOp_tlb (n : Nat) : (s.dropOp n).tlb = s.tlb := rfl
@[simp] theorem State.dropOp_utlb (n : Nat) : (s.dropOp n).utlb = s.utlb := rfl
@[simp] theorem State.dropOp_missq (n : Nat) : (s.dropOp n).missq = s.missq := rfl
@[simp] theorem State.dropOp_icache (n : Nat) : (s.dropOp n).icache = s.icache := rfl
@[simp] theorem State.dropOp_codeOld (n : Nat) : (s.dropOp n).codeOld = s.codeOld := rfl
@[simp] theorem State.dropOp_l1 (n : Nat) : (s.dropOp n).l1 = s.l1 := rfl
@[simp] theorem State.dropOp_ccache (n : Nat) : (s.dropOp n).ccache = s.ccache := rfl
@[simp] theorem State.dropOp_home (n : Nat) : (s.dropOp n).home = s.home := rfl
@[simp] theorem State.dropOp_coh (n : Nat) : (s.dropOp n).coh = s.coh := rfl
@[simp] theorem State.dropOp_sysctx (n : Nat) : (s.dropOp n).sysctx = s.sysctx := rfl
@[simp] theorem State.dropOp_ovf (n : Nat) : (s.dropOp n).ovf = s.ovf := rfl
@[simp] theorem State.dropOp_ovfEvents (n : Nat) : (s.dropOp n).ovfEvents = s.ovfEvents := rfl
@[simp] theorem State.dropOp_region (n : Nat) : (s.dropOp n).region = s.region := rfl
@[simp] theorem State.dropOp_reg (n : Nat) : (s.dropOp n).reg = s.reg := rfl
@[simp] theorem State.dropOp_merges (n : Nat) : (s.dropOp n).merges = s.merges := rfl
@[simp] theorem State.dropOp_errs (n : Nat) : (s.dropOp n).errs = s.errs := rfl
@[simp] theorem State.dropOp_errCounts (n : Nat) : (s.dropOp n).errCounts = s.errCounts := rfl
@[simp] theorem State.dropOp_parts (n : Nat) : (s.dropOp n).parts = s.parts := rfl
@[simp] theorem State.dropOp_vfs (n : Nat) : (s.dropOp n).vfs = s.vfs := rfl
@[simp] theorem State.dropOp_queues (n : Nat) : (s.dropOp n).queues = s.queues := rfl
@[simp] theorem State.dropOp_pkts (n : Nat) : (s.dropOp n).pkts = s.pkts := rfl
@[simp] theorem State.dropOp_sigs (n : Nat) : (s.dropOp n).sigs = s.sigs := rfl
@[simp] theorem State.dropOp_fw (n : Nat) : (s.dropOp n).fw = s.fw := rfl
@[simp] theorem State.dropOp_throttled (n : Nat) : (s.dropOp n).throttled = s.throttled := rfl
@[simp] theorem State.dropOp_thermal (n : Nat) : (s.dropOp n).thermal = s.thermal := rfl
@[simp] theorem State.dropOp_retired (n : Nat) : (s.dropOp n).retired = s.retired := rfl
@[simp] theorem State.dropOp_links (n : Nat) : (s.dropOp n).links = s.links := rfl
@[simp] theorem State.dropOp_linkSeqs (n : Nat) : (s.dropOp n).linkSeqs = s.linkSeqs := rfl
@[simp] theorem State.dropOp_linkHeld (n : Nat) : (s.dropOp n).linkHeld = s.linkHeld := rfl
@[simp] theorem State.dropOp_snapshots (n : Nat) : (s.dropOp n).snapshots = s.snapshots := rfl
@[simp] theorem State.dropOp_scrubSeq (n : Nat) : (s.dropOp n).scrubSeq = s.scrubSeq := rfl
@[simp] theorem State.dropOp_exports (n : Nat) : (s.dropOp n).exports = s.exports := rfl
@[simp] theorem State.dropOp_preempt (n : Nat) : (s.dropOp n).preempt = s.preempt := rfl
@[simp] theorem State.dropOp_preReqs (n : Nat) : (s.dropOp n).preReqs = s.preReqs := rfl
@[simp] theorem State.dropOp_time (n : Nat) : (s.dropOp n).time = s.time := rfl
@[simp] theorem State.dropOp_out (n : Nat) : (s.dropOp n).out = s.out := rfl

@[simp] theorem State.bump_cc (n : Nat) : (s.bump n).cc = s.cc := rfl
@[simp] theorem State.bump_agenda (n : Nat) : (s.bump n).agenda = s.agenda := rfl
@[simp] theorem State.bump_cur (n : Nat) : (s.bump n).cur = s.cur := rfl
@[simp] theorem State.bump_fresh (n : Nat) : (s.bump n).fresh = s.fresh + n := rfl
@[simp] theorem State.bump_nextId (n : Nat) : (s.bump n).nextId = s.nextId := rfl
@[simp] theorem State.bump_turns (n : Nat) : (s.bump n).turns = s.turns := rfl
@[simp] theorem State.bump_mem (n : Nat) : (s.bump n).mem = s.mem := rfl
@[simp] theorem State.bump_scratch (n : Nat) : (s.bump n).scratch = s.scratch := rfl
@[simp] theorem State.bump_pinned (n : Nat) : (s.bump n).pinned = s.pinned := rfl
@[simp] theorem State.bump_threads (n : Nat) : (s.bump n).threads = s.threads := rfl
@[simp] theorem State.bump_gangs (n : Nat) : (s.bump n).gangs = s.gangs := rfl
@[simp] theorem State.bump_teams (n : Nat) : (s.bump n).teams = s.teams := rfl
@[simp] theorem State.bump_launches (n : Nat) : (s.bump n).launches = s.launches := rfl
@[simp] theorem State.bump_saved (n : Nat) : (s.bump n).saved = s.saved := rfl
@[simp] theorem State.bump_ops (n : Nat) : (s.bump n).ops = s.ops := rfl
@[simp] theorem State.bump_msgs (n : Nat) : (s.bump n).msgs = s.msgs := rfl
@[simp] theorem State.bump_keys (n : Nat) : (s.bump n).keys = s.keys := rfl
@[simp] theorem State.bump_keyQueue (n : Nat) : (s.bump n).keyQueue = s.keyQueue := rfl
@[simp] theorem State.bump_launchRecs (n : Nat) : (s.bump n).launchRecs = s.launchRecs := rfl
@[simp] theorem State.bump_copyReqs (n : Nat) : (s.bump n).copyReqs = s.copyReqs := rfl
@[simp] theorem State.bump_races (n : Nat) : (s.bump n).races = s.races := rfl
@[simp] theorem State.bump_engine (n : Nat) : (s.bump n).engine = s.engine := rfl
@[simp] theorem State.bump_wide (n : Nat) : (s.bump n).wide = s.wide := rfl
@[simp] theorem State.bump_tileOut (n : Nat) : (s.bump n).tileOut = s.tileOut := rfl
@[simp] theorem State.bump_clusterIn (n : Nat) : (s.bump n).clusterIn = s.clusterIn := rfl
@[simp] theorem State.bump_clusterOut (n : Nat) : (s.bump n).clusterOut = s.clusterOut := rfl
@[simp] theorem State.bump_devIn (n : Nat) : (s.bump n).devIn = s.devIn := rfl
@[simp] theorem State.bump_devOut (n : Nat) : (s.bump n).devOut = s.devOut := rfl
@[simp] theorem State.bump_aggIn (n : Nat) : (s.bump n).aggIn = s.aggIn := rfl
@[simp] theorem State.bump_sentBatches (n : Nat) : (s.bump n).sentBatches = s.sentBatches := rfl
@[simp] theorem State.bump_jobDevice (n : Nat) : (s.bump n).jobDevice = s.jobDevice := rfl
@[simp] theorem State.bump_aggregator (n : Nat) : (s.bump n).aggregator = s.aggregator := rfl
@[simp] theorem State.bump_jobFaulted (n : Nat) : (s.bump n).jobFaulted = s.jobFaulted := rfl
@[simp] theorem State.bump_faultedDevices (n : Nat) : (s.bump n).faultedDevices = s.faultedDevices := rfl
@[simp] theorem State.bump_wl1 (n : Nat) : (s.bump n).wl1 = s.wl1 := rfl
@[simp] theorem State.bump_tlb (n : Nat) : (s.bump n).tlb = s.tlb := rfl
@[simp] theorem State.bump_utlb (n : Nat) : (s.bump n).utlb = s.utlb := rfl
@[simp] theorem State.bump_missq (n : Nat) : (s.bump n).missq = s.missq := rfl
@[simp] theorem State.bump_icache (n : Nat) : (s.bump n).icache = s.icache := rfl
@[simp] theorem State.bump_codeOld (n : Nat) : (s.bump n).codeOld = s.codeOld := rfl
@[simp] theorem State.bump_l1 (n : Nat) : (s.bump n).l1 = s.l1 := rfl
@[simp] theorem State.bump_ccache (n : Nat) : (s.bump n).ccache = s.ccache := rfl
@[simp] theorem State.bump_home (n : Nat) : (s.bump n).home = s.home := rfl
@[simp] theorem State.bump_coh (n : Nat) : (s.bump n).coh = s.coh := rfl
@[simp] theorem State.bump_sysctx (n : Nat) : (s.bump n).sysctx = s.sysctx := rfl
@[simp] theorem State.bump_ovf (n : Nat) : (s.bump n).ovf = s.ovf := rfl
@[simp] theorem State.bump_ovfEvents (n : Nat) : (s.bump n).ovfEvents = s.ovfEvents := rfl
@[simp] theorem State.bump_region (n : Nat) : (s.bump n).region = s.region := rfl
@[simp] theorem State.bump_reg (n : Nat) : (s.bump n).reg = s.reg := rfl
@[simp] theorem State.bump_merges (n : Nat) : (s.bump n).merges = s.merges := rfl
@[simp] theorem State.bump_errs (n : Nat) : (s.bump n).errs = s.errs := rfl
@[simp] theorem State.bump_errCounts (n : Nat) : (s.bump n).errCounts = s.errCounts := rfl
@[simp] theorem State.bump_parts (n : Nat) : (s.bump n).parts = s.parts := rfl
@[simp] theorem State.bump_vfs (n : Nat) : (s.bump n).vfs = s.vfs := rfl
@[simp] theorem State.bump_queues (n : Nat) : (s.bump n).queues = s.queues := rfl
@[simp] theorem State.bump_pkts (n : Nat) : (s.bump n).pkts = s.pkts := rfl
@[simp] theorem State.bump_sigs (n : Nat) : (s.bump n).sigs = s.sigs := rfl
@[simp] theorem State.bump_fw (n : Nat) : (s.bump n).fw = s.fw := rfl
@[simp] theorem State.bump_throttled (n : Nat) : (s.bump n).throttled = s.throttled := rfl
@[simp] theorem State.bump_thermal (n : Nat) : (s.bump n).thermal = s.thermal := rfl
@[simp] theorem State.bump_retired (n : Nat) : (s.bump n).retired = s.retired := rfl
@[simp] theorem State.bump_links (n : Nat) : (s.bump n).links = s.links := rfl
@[simp] theorem State.bump_linkSeqs (n : Nat) : (s.bump n).linkSeqs = s.linkSeqs := rfl
@[simp] theorem State.bump_linkHeld (n : Nat) : (s.bump n).linkHeld = s.linkHeld := rfl
@[simp] theorem State.bump_snapshots (n : Nat) : (s.bump n).snapshots = s.snapshots := rfl
@[simp] theorem State.bump_scrubSeq (n : Nat) : (s.bump n).scrubSeq = s.scrubSeq := rfl
@[simp] theorem State.bump_exports (n : Nat) : (s.bump n).exports = s.exports := rfl
@[simp] theorem State.bump_preempt (n : Nat) : (s.bump n).preempt = s.preempt := rfl
@[simp] theorem State.bump_preReqs (n : Nat) : (s.bump n).preReqs = s.preReqs := rfl
@[simp] theorem State.bump_time (n : Nat) : (s.bump n).time = s.time := rfl
@[simp] theorem State.bump_out (n : Nat) : (s.bump n).out = s.out := rfl

end Sys2Proof.Machine
end

