-- ==== Sys2Proof/Laws/Find.lean ====
section
/-! SUPPORT. Finding a thread or a gang after one of them has been changed, and what the updates of one thread or gang leave as
it was. -/

namespace Sys2Proof.Machine

/-- A search by id over a list in which the records with one id were changed. -/
theorem find_map_same {α : Type} {p : α → Bool} {f : α → α} (hf : ∀ a, p a = true → p (f a) = true) (l : List α) :
    (l.map fun a => if p a = true then f a else a).find? p = (l.find? p).map f := by
  induction l with
  | nil => rfl
  | cons a l ih => cases h : p a <;> simp_all

/-- A search for another id is not disturbed. -/
theorem find_map_ne {α : Type} {p q : α → Bool} {f : α → α} (hf : ∀ a, p a = true → q (f a) = false)
    (hd : ∀ a, p a = true → q a = false) (l : List α) :
    (l.map fun a => if p a = true then f a else a).find? q = l.find? q := by
  induction l with
  | nil => rfl
  | cons a l ih => cases h : p a <;> simp [List.find?_cons, h, hf, ih, hd a]

theorem thread?_updThread {s : State} {c : CtxId} {f : Thread → Thread} (hf : ∀ t, (f t).id = t.id) :
    (s.updThread c f).thread? c = (s.thread? c).map f :=
  find_map_same (p := fun t : Thread => t.id == c) (by simp [hf]) s.threads

theorem thread?_updThread_ne {s : State} {c d : CtxId} {f : Thread → Thread} (hf : ∀ t, (f t).id = t.id) (h : d ≠ c) :
    (s.updThread c f).thread? d = s.thread? d := by
  refine find_map_ne (p := fun t : Thread => t.id == c) (q := fun t : Thread => t.id == d) ?_ ?_ s.threads <;>
    intro a ha <;> simp only [beq_iff_eq] at ha <;> simpa [ha, hf] using fun h' => h h'.symm

theorem thread?_setThread {s : State} {t u : Thread} (h : s.thread? t.id = some u) :
    (s.setThread t).thread? t.id = some t :=
  (find_map_same (p := fun u : Thread => u.id == t.id) (f := fun _ => t) (by simp) s.threads).trans
    (by rw [show s.threads.find? _ = some u from h]; rfl)

theorem thread?_setThread_ne {s : State} {t : Thread} {d : CtxId} (h : d ≠ t.id) :
    (s.setThread t).thread? d = s.thread? d := by
  refine find_map_ne (p := fun u : Thread => u.id == t.id) (q := fun u : Thread => u.id == d) (f := fun _ => t) ?_ ?_
    s.threads
  · intro a _; simpa using fun h' => h h'.symm
  · intro a ha; simp only [beq_iff_eq] at ha; simpa [ha] using fun h' => h h'.symm

theorem gang?_updGang {s : State} {c : CtxId} {f : Gang → Gang} (hf : ∀ g, (f g).id = g.id) :
    (s.updGang c f).gang? c = (s.gang? c).map f :=
  find_map_same (p := fun g : Gang => g.id == c) (by simp [hf]) s.gangs

theorem gang?_updGang_ne {s : State} {c d : CtxId} {f : Gang → Gang} (hf : ∀ g, (f g).id = g.id) (h : d ≠ c) :
    (s.updGang c f).gang? d = s.gang? d := by
  refine find_map_ne (p := fun t : Gang => t.id == c) (q := fun t : Gang => t.id == d) ?_ ?_ s.gangs <;>
    intro a ha <;> simp only [beq_iff_eq] at ha <;> simpa [ha, hf] using fun h' => h h'.symm

theorem gang?_setGang {s : State} {g u : Gang} (h : s.gang? g.id = some u) : (s.setGang g).gang? g.id = some g :=
  (find_map_same (p := fun u : Gang => u.id == g.id) (f := fun _ => g) (by simp) s.gangs).trans
    (by rw [show s.gangs.find? _ = some u from h]; rfl)

end Sys2Proof.Machine
end

