-- ==== Sys2Proof/Laws/Memory.lean ====
section
/-! SUPPORT. Tables in canonical form: what each operation leaves in them, that each keeps the form, and that the device's stores
keep it under every operation that writes them. -/

namespace Sys2Proof.Machine

variable {α : Type} {d : α}

/-- The canonical form said by a lower bound of the keys: each key is greater than the one before, and no entry is d. -/
def above (d : α) : Nat → Tab α → Prop
  | _, [] => True
  | b, (k, v) :: t => b ≤ k ∧ v ≠ d ∧ above d (k + 1) t

theorem above_mono {b b' : Nat} {t : Tab α} (h : above d b t) (hb : b' ≤ b) : above d b' t := by
  cases t with
  | nil => trivial
  | cons p t => exact ⟨Nat.le_trans hb h.1, h.2⟩

theorem twf_cons_iff [DecidableEq α] (k : Nat) (v : α) (t : Tab α) : twf d ((k, v) :: t) = true ↔ above d k ((k, v) :: t) := by
  induction t generalizing k v with
  | nil => simp [twf, above]
  | cons p t ih =>
    rcases p with ⟨k', v'⟩
    simp only [twf, Bool.and_eq_true, decide_eq_true_eq, ih k' v']
    simp only [above]
    constructor
    · rintro ⟨⟨h1, h2⟩, -, h3, h4⟩; exact ⟨Nat.le_refl _, h1, h2, h3, h4⟩
    · rintro ⟨-, h1, h2, h3, h4⟩; exact ⟨⟨h1, h2⟩, Nat.le_refl _, h3, h4⟩

/-- The two forms agree. -/
theorem twf_iff [DecidableEq α] (t : Tab α) : twf d t = true ↔ above d 0 t := by
  cases t with
  | nil => simp [twf, above]
  | cons p t =>
    rcases p with ⟨k, v⟩
    rw [twf_cons_iff]
    constructor
    · intro h; exact above_mono h (Nat.zero_le _)
    · intro h; exact ⟨Nat.le_refl _, h.2⟩

theorem above_tput [DecidableEq α] {b k : Nat} {t : Tab α} (v : α) (h : above d b t) (hb : b ≤ k) : above d b (tput d t k v) := by
  induction t generalizing b with
  | nil =>
    simp only [tput]
    split
    · trivial
    · exact ⟨hb, ‹_›, trivial⟩
  | cons p t ih =>
    rcases p with ⟨k', v'⟩
    obtain ⟨h1, h2, h3⟩ := h
    simp only [tput]
    split
    · split
      · exact ⟨h1, h2, h3⟩
      · exact ⟨hb, ‹_›, by omega, h2, h3⟩
    · split
      · split
        · exact above_mono h3 (by omega)
        · exact ⟨hb, ‹_›, by subst_vars; exact h3⟩
      · exact ⟨h1, h2, ih h3 (by omega)⟩

/-- A table with a key changed keeps the canonical form. -/
theorem twf_tput [DecidableEq α] {t : Tab α} (k : Nat) (v : α) (h : twf d t = true) : twf d (tput d t k v) = true :=
  (twf_iff _).2 (above_tput v ((twf_iff _).1 h) (Nat.zero_le k))

theorem above_filter {b : Nat} {t : Tab α} (f : Nat × α → Bool) (h : above d b t) : above d b (t.filter f) := by
  induction t generalizing b with
  | nil => trivial
  | cons p t ih =>
    rcases p with ⟨k, v⟩
    obtain ⟨h1, h2, h3⟩ := h
    rw [List.filter_cons]
    split
    · exact ⟨h1, h2, ih h3⟩
    · exact above_mono (ih h3) (by omega)

/-- A table cleared between two keys keeps the canonical form. -/
theorem twf_tclear [DecidableEq α] {t : Tab α} (lo hi : Nat) (h : twf d t = true) : twf d (tclear lo hi t) = true :=
  (twf_iff _).2 (above_filter _ ((twf_iff _).1 h))

/-- Memory with bytes stored keeps the canonical form. -/
theorem wf_wrBytes {m : Tab Byte} (a : Nat) (bs : List Byte) (h : Memory.wf m = true) : Memory.wf (wrBytes m a bs) = true := by
  induction bs generalizing m a with
  | nil => exact h
  | cons b bs ih => exact ih (a + 1) (twf_tput a b h)

theorem tget_above {b k : Nat} {t : Tab α} (h : above d b t) (hk : k < b) : tget d t k = d := by
  induction t generalizing b with
  | nil => rfl
  | cons p t ih =>
    rcases p with ⟨k', v'⟩
    simp only [tget]
    have := h.1
    rw [if_neg (by omega), ih h.2.2 (by omega)]

theorem tget_tput_above [DecidableEq α] {b : Nat} {t : Tab α} (h : above d b t) (k : Nat) (v : α) (j : Nat) :
    tget d (tput d t k v) j = if j = k then v else tget d t j := by
  induction t generalizing b with
  | nil =>
    simp only [tput]
    split <;> simp only [tget] <;> by_cases hj : j = k
    · simp_all
    · rw [if_neg hj]
    · rw [if_pos hj, if_pos hj.symm]
    · rw [if_neg hj, if_neg fun h => hj h.symm]
  | cons p t ih =>
    rcases p with ⟨k', v'⟩
    obtain ⟨h1, h2, h3⟩ := h
    simp only [tput]
    split
    · split
      · split
        · subst_vars; simp only [tget]; rw [if_neg (by omega), tget_above h3 (by omega)]
        · rfl
      · simp only [tget]
        by_cases hj : j = k
        · simp [hj]
        · rw [if_neg (fun h => hj h.symm), if_neg hj]
    · split
      · subst_vars
        split
        · simp only [tget]
          by_cases hj : j = k'
          · subst_vars; rw [if_pos rfl, tget_above h3 (by omega)]
          · rw [if_neg hj, if_neg (fun h => hj h.symm)]
        · simp only [tget]
          by_cases hj : j = k'
          · simp [hj]
          · rw [if_neg (fun h => hj h.symm), if_neg hj, if_neg (fun h => hj h.symm)]
      · simp only [tget, ih h3]
        by_cases hj : j = k
        · subst_vars; rw [if_neg (by omega), if_pos rfl, if_pos rfl]
        · simp [hj]

/-- What a key reads as after a write: the value written there, and every other key as before. -/
theorem tget_tput [DecidableEq α] {t : Tab α} (h : twf d t = true) (k : Nat) (v : α) (j : Nat) :
    tget d (tput d t k v) j = if j = k then v else tget d t j :=
  tget_tput_above ((twf_iff _).1 h) k v j

/-- What a byte reads as after a store. -/
theorem tget_wrBytes {m : Tab Byte} (h : Memory.wf m = true) (a : Nat) (bs : List Byte) (j : Nat) :
    tget 0 (wrBytes m a bs) j = if a ≤ j ∧ j < a + bs.length then bs.getD (j - a) 0 else tget 0 m j := by
  induction bs generalizing m a with
  | nil => simp only [wrBytes, List.length_nil]; rw [if_neg (by omega)]
  | cons b bs ih =>
    simp only [wrBytes, List.length_cons, ih (twf_tput a b h), tget_tput h]
    by_cases h1 : j = a
    · subst_vars; rw [if_neg (by omega), if_pos rfl, if_pos (by omega)]; simp
    · by_cases h2 : a + 1 ≤ j ∧ j < a + 1 + bs.length
      · rw [if_pos h2, if_pos (by omega)]
        obtain ⟨n, hn⟩ : ∃ n, j - a = n + 1 := ⟨j - a - 1, by omega⟩
        have : j - (a + 1) = n := by omega
        rw [hn, this]; simp
      · rw [if_neg h2, if_neg h1, if_neg (by omega)]

/-- Bytes outside a store read as before. -/
theorem tget_wrBytes_outside {m : Tab Byte} (h : Memory.wf m = true) {a j : Nat} {bs : List Byte}
    (hj : j < a ∨ a + bs.length ≤ j) : tget 0 (wrBytes m a bs) j = tget 0 m j := by
  rw [tget_wrBytes h, if_neg (by omega)]

theorem rdBytes_length (m : Tab Byte) (a n : Nat) : (rdBytes m a n).length = n := by
  induction n generalizing a with
  | zero => rfl
  | succ n ih => simp [rdBytes, ih]

theorem rdBytes_eq (m : Tab Byte) (a n : Nat) : rdBytes m a n = (List.range n).map fun i => tget 0 m (a + i) := by
  induction n generalizing a with
  | zero => rfl
  | succ n ih =>
    simp only [rdBytes, ih, List.range_succ_eq_map, List.map_cons, List.map_map]
    congr 1
    apply List.map_congr_left
    intro i _
    simp only [Function.comp]
    congr 1
    omega

/-- Reading the bytes just stored gives them back. -/
theorem rdBytes_wrBytes {m : Tab Byte} (h : Memory.wf m = true) (a : Nat) (bs : List Byte) :
    rdBytes (wrBytes m a bs) a bs.length = bs := by
  rw [rdBytes_eq]
  apply List.ext_getElem
  · simp
  · intro i h1 h2
    simp only [List.getElem_map, List.getElem_range, tget_wrBytes h]
    rw [if_pos (by omega)]
    simp [h2]

theorem toBytes_length (n v : Nat) : (toBytes n v).length = n := by
  induction n generalizing v with
  | zero => rfl
  | succ n ih => simp [toBytes, ih]

/-- A number survives its n bytes if it fits them (R7). -/
theorem leNat_toBytes (n v : Nat) : leNat (toBytes n v) = v % 256 ^ n := by
  induction n generalizing v with
  | zero => simp [toBytes, leNat, Nat.mod_one]
  | succ n ih =>
    have h : (2 : Nat) ^ 8 = 256 := rfl
    rw [toBytes, leNat, ih, BitVec.toNat_ofNat, h, Nat.pow_succ, Nat.mul_comm (256 ^ n) 256, Nat.mod_mul]

end Sys2Proof.Machine
end

