-- ==== Sys2Proof/Laws/Register.lean ====
section
/-! SUPPORT. What the shared operation behind the register instructions does in each of its forms (R231, R232), said once. -/

namespace Sys2Proof.Machine

/-- A list filtered for what is not in the empty list stays as it is. -/
theorem filter_not_any_nil {α β : Type} (xs : List α) (p : α → β → Bool) :
    (xs.filter fun x => !([] : List β).any (p x)) = xs := by simp

theorem clearErr_of_none {s : State} (h : s.errs = []) (c : CtxId) (d : Dst) : s.clearErr c d = s := by
  cases s; simp_all [State.clearErr]

theorem clearErrs_of_none {s : State} (h : s.errs = []) (c : CtxId) (ds : List Dst) : clearErrs s c ds = s := by
  induction ds with
  | nil => rfl
  | cons d ds ih => simpa only [clearErrs, List.foldl_cons, clearErr_of_none h] using ih

/-- Where no source carries an error, no lane faults. -/
theorem noFaults {g : Gang} {h : Hd} {s : State} {srcs : List Nat}
    (e : ∀ l ∈ g.active h, s.regErr g.id (srcs.map fun r => xDst r l) = none) :
    ((g.active h).filterMap fun l =>
      (s.regErr g.id (srcs.map fun r => xDst r l)).map fun e => (l, machineTrap e.st e.va)) = [] := by
  rw [List.filterMap_eq_nil_iff]
  intro l hl
  simp [e l hl]

/-- A register instruction that is not late has the effect of its function in all three forms. -/
theorem regEffect_of_regInstr {i : Instr} {h : Hd} {fl gbit : Bool} {srcs dsts : List Reg} {f : RegFn} (hf : fl = false)
    (he : ∀ s, exec i s = regInstr false fl h gbit srcs dsts f s) : RegEffect i h gbit srcs dsts f := by
  subst hf
  refine ⟨?_, ?_, ?_⟩
  · rintro s t t1 vs ⟨hc, ht, hg⟩ ⟨hr, hre⟩ ⟨hb, hp⟩
    rw [he]
    simp only [regInstr, withCur, hc, ht, regT, hg, hr, hre, hb, hp, headFlag, flagFull]
    rfl
  · rintro hgb s g rows ⟨hc, hn, hg⟩ ⟨hx, ha, hr, hre⟩ hb
    have h0 : (g.active h).isEmpty = false := by cases h' : g.active h <;> simp_all
    rw [he]
    simp only [regInstr, withCur, hc, hn, hg, hgb, regG, hx, h0, hr, noFaults hre, filter_not_any_nil]
    simp only [FreeG, nums] at hb
    simp only [hb, headFlag, flagFull, gangFaults, Bool.not_true, Bool.false_eq_true, ↓reduceIte, Bool.or_self]
    have hs : ∀ (u : State) ds, (if u.errs.isEmpty = true then u else ds.foldl (fun s d => s.clearErr g.id d) u) =
        clearErrs u g.id ds := by
      intro u ds
      split
      · rename_i hn'; exact (clearErrs_of_none (List.isEmpty_iff.1 hn') g.id ds).symm
      · rfl
    rw [hs]
  · rintro hgb s g ⟨hc, hn, hg⟩ ⟨hx, hre⟩
    rw [he]
    simp only [regInstr, withCur, hc, hn, hg, hgb, regS, hx, hre, endG, onceWritten, nums, clearErrs, doneG, headFlag, flagFull]
    simp [List.foldl_map]

/-- A late register instruction has the effect of its function in all three forms. -/
theorem lateEffect_of_regInstr {i : Instr} {h : Hd} {fl gbit : Bool} {srcs dsts : List Reg} {f : RegFn}
    (he : ∀ s, exec i s = regInstr true fl h gbit srcs dsts f s) : LateEffect i h fl gbit srcs dsts f := by
  refine ⟨?_, ?_, ?_⟩
  · rintro s t t1 vs ⟨hc, ht, hg⟩ ⟨hr, hre⟩ ⟨hb, hp⟩ hf
    rw [he]
    simp only [regInstr, withCur, hc, ht, regT, hg, hr, hre, hb, hp, hf]
    rfl
  · rintro hgb s g rows ⟨hc, hn, hg⟩ ⟨hx, ha, hr, hre⟩ hb hf
    have h0 : (g.active h).isEmpty = false := by cases h' : g.active h <;> simp_all
    rw [he]
    simp only [FreeG, nums] at hb
    simp only [regInstr, withCur, hc, hn, hg, hgb, regG, hx, h0, hr, noFaults hre, filter_not_any_nil, hb, hf, gangFaults,
      Bool.not_true, Bool.false_eq_true, ↓reduceIte, Bool.or_self]
  · rintro hgb s g ⟨hc, hn, hg⟩ ⟨hx, hre⟩ hf
    rw [he]
    simp only [regInstr, withCur, hc, hn, hg, hgb, regS, hx, hre, hf, endG, onceWritten, nums, clearErrs, doneG]
    simp [List.foldl_map]

end Sys2Proof.Machine
end

