-- ==== Sys2Proof/Laws/MemoryInstr.lean ====
section
/-! SUPPORT. What the shared operations behind loads, stores, cache controls and atomics do, said once: an instruction that calls one of
them has the effect that claims name. -/

namespace Sys2Proof.Machine

theorem loadEffect_of_loadInstr {i : Instr} {h : Hd} {gb : Bool} {srcs : List Reg} {addr : List Word → Word}
    {ps : List (LdSize × Nat)} {al : Nat} {acq : Option Scope} (hps : ps ≠ [])
    (he : ∀ s, exec i s = loadInstr h gb srcs addr ps al acq s) : LoadEffect i h gb srcs addr ps al acq := by
  refine ⟨?_, ?_, ?_⟩
  · rintro s s1 t t1 vs as ⟨hc, ht, hg⟩ ⟨hr, hre⟩ ⟨hb, hp⟩ hf hck hra
    have hra' : (if acq.isSome then (s1.updThread t.id fun u => { u with recvq := t1.recvq }).relAwait t.id else none) = none := by
      split
      · rename_i h; exact hra h
      · rfl
    rw [he]
    simp only [nums] at *
    simp only [loadInstr, withCur, hc, ht, loadT, hg, hr, hre, hb, hp, hf, hck, hra', endT]
    rfl
  · rintro hgb s s1 s2 g rows good ⟨hc, hn, hg⟩ ⟨hx, ha, hr, hre⟩ hb hf hck hld
    rw [he]
    simp only [nums] at *
    have hr2 := mapM_map _ (fun x : Nat × List Word => (x.1, addr x.2)) _ _ hr
    simp only [Option.map_map, Function.comp_def] at hr2
    have hl : laneErrs s g.id (fun l => List.map (fun r => xDst r l) (List.map (fun x => BitVec.toNat x) srcs)) (g.active h) = [] :=
      noFaults hre
    have hgood := checkLanes_good _ _ _ _ hck
    have hne : good ≠ [] := by
      rintro rfl
      have h1 := hgood.1
      rw [List.map_map] at h1
      have h2 : rows.map (·.1) = g.active h := mapM_lanes _ _ hr
      have : ((fun x : Nat × Word => x.1) ∘ fun x : Nat × List Word => (x.1, addr x.2)) = (·.1) := rfl
      rw [this, h2] at h1
      exact ha h1.symm
    have hes : (good.flatMap fun x => (ps.zip (x.2.zip (ps.map fun p => if p.2 = 0 then Dst.none else Dst.pair p.2 x.1))).map
        fun y => (⟨y.2.1, y.1.1, y.2.2, none⟩ : LoadElt)) =
        good.flatMap fun x => loadElts (fun r => if r = 0 then Dst.none else Dst.pair r x.1) ps x.2 := by
      congr 1; funext x
      generalize x.2 = as
      clear hps hck hgood hne hr hr2 hb hx he hld
      induction ps generalizing as with
      | nil => simp
      | cons p ps ih =>
        cases as with
        | nil => simp
        | cons a as => simp only [List.map_cons, List.zip_cons_cons, loadElts] at ih ⊢; rw [ih as]
    have hes2 : (good.flatMap fun x => loadElts (fun r => if r = 0 then Dst.none else Dst.pair r x.1) ps x.2).isEmpty = false := by
      rw [Bool.eq_false_iff]; intro h5
      rw [List.isEmpty_iff, List.flatMap_eq_nil_iff] at h5
      obtain ⟨x, hx⟩ := List.exists_mem_of_ne_nil _ hne
      have h6 := h5 x hx
      have h7 := hgood.2 x hx
      simp at h7
      simp [loadElts] at h6
      rcases h6 with h6 | h6
      · exact hps h6
      · rw [h6] at h7; simp at h7; exact hps (List.length_eq_zero_iff.1 h7.symm)
    simp only [loadInstr, withCur, hc, hn, hg, hgb, loadG, hx, active_isEmpty ha, hr2, hb, hf, hl, hck, filter_not_any_nil,
      mergeFaults_nil, gangFaults]
    simp only [hes, hes2, hld]
    simp
  · rintro hgb s s1 s2 g as ⟨hc, hn, hg⟩ ⟨hx, hre⟩ hf hck hld
    rw [he]
    simp only [nums] at *
    simp only [loadInstr, withCur, hc, hn, hg, hgb, loadS, hx, hre, hf, hck, hld, endG]
    rfl

theorem elemErr_nil {s : State} (h : s.errs = []) (g : Gang) (es : List (Acc × List Byte)) (a : Acc) (n : Nat) :
    s.elemErr g es a n = none := by
  unfold State.elemErr
  split
  · simp [State.wideErr, h]
  · exact storeErr_nil h a n

theorem storeEffect_of_storeInstr {i : Instr} {h : Hd} {gb : Bool} {srcs data : List Reg} {addr : List Word → Word}
    {ps : List StSize} {al : Nat} {rel : Option Scope}
    (he : ∀ s, exec i s = storeInstr h gb srcs data addr ps al rel s) : StoreEffect i h gb srcs data addr ps al rel := by
  refine ⟨?_, ?_, ?_⟩
  · rintro s s1 s2 s3 t t1 vs as ⟨hc, ht, hg⟩ ⟨hr, hre⟩ hf hck hse hrel hst
    have h1 : (List.findSome? (fun e : Acc × List Byte => s1.storeErr e.1 e.2.length) (as.zip (storeData ps (List.drop srcs.length vs)))) = none := by
      rw [List.findSome?_eq_none_iff]; exact hse
    rw [he]
    simp only [nums] at *
    refine ⟨fun hn => ?_, fun hn => ?_⟩
    · subst hn
      simp [relT] at hrel; subst hrel
      simp only [storeInstr, withCur, hc, ht, storeT, hg, hr, hre, hf, List.length_map, hck, endT, h1, hst]
      simp
    · obtain ⟨sc, rfl⟩ := Option.ne_none_iff_exists'.1 hn
      simp only [relT] at hrel
      simp only [storeInstr, withCur, hc, ht, storeT, hg, hr, hre, hf, List.length_map, hck, endT, h1, hst, hrel]
      simp only [keepQueue, Option.isSome_some, Bool.true_and, doneT]
      rfl
  · rintro hgb s s1 s2 s3 s4 g rows good late es ⟨hc, hn, hg⟩ ⟨hx, ha, hr, hre⟩ hf hck hrel her hes hro hgs
    subst hes
    rw [he]
    simp only [nums, List.append_nil] at *
    have hl : laneErrs s g.id (fun l => List.map (fun r => xDst r l) (List.map (fun x => BitVec.toNat x) srcs ++ List.map (fun x => BitVec.toNat x) data)) (g.active h) = [] := noFaults hre
    have hnil : ∀ es : List (Nat × Acc × List Byte), (es.filterMap fun e =>
        (s2.elemErr g (es.map (·.2)) e.2.1 e.2.2.length).map fun t => (e.1, t)) = [] := by
      intro es; rw [List.filterMap_eq_nil_iff]; intro e _; simp [elemErr_nil her]
    simp only [storeInstr, withCur, hc, hn, hg, hgb, storeG, hx, active_isEmpty ha, hr, hf, hl, hck, List.length_map,
      filter_not_any_nil, mergeFaults_nil, gangFaults]
    rcases rel with _ | sc <;> simp only [relG] at hrel <;> (try cases hrel) <;>
      (try simp only [hrel]) <;> simp only [storeLanes, hnil, filter_not_any_nil, mergeFaults_nil, hro, hgs, gangFaults] <;>
      simp [pushed, lateStores] <;> cases hh : sc.clOrWider <;> simp <;> rfl
  · rintro hgb s s1 s2 s3 s4 g as late ⟨hc, hn, hg⟩ ⟨hx, hre⟩ hf hck hrel her hro hgs
    have hnil : ∀ es : List (Acc × List Byte), (es.findSome? fun e => s2.elemErr g es e.1 e.2.length) = none := by
      intro es; rw [List.findSome?_eq_none_iff]; intro e _; simp [elemErr_nil her]
    rw [he]
    simp only [nums, List.append_nil] at *
    simp only [storeInstr, withCur, hc, hn, hg, hgb, storeS, hx, hre, hf, hck, endG]
    rcases rel with _ | sc <;> simp only [relG] at hrel <;> (try cases hrel) <;>
      (try simp only [hrel]) <;> simp only [hnil, hro, hgs] <;> simp [pushed, lateStores]

theorem lineEffect_of_lineInstr {i : Instr} {h : Hd} {m : MemOp} {body : Agent → Word → State → LineRes}
    (he : ∀ s, exec i s = lineInstr h m body s) : LineEffect i h m body := by
  refine ⟨?_, ?_, ?_⟩
  · rintro s s1 t t1 v ⟨hc, ht, hg⟩ ⟨hr, hre⟩ hb
    rw [he]; have hr := readX_of_readXs hr
    simp at hre
    simp [lineInstr, withCur, hc, ht, hg, hr, hre, hb, endT, baseImm]
  · rintro hgb s s1 g l v ⟨hc, hn, hg⟩ hx ha hr hre hb
    rw [he]
    simp [lineInstr, lineLanes, withCur, hc, hn, hg, hgb, hx, ha, hr, hre, hb, laneErrs, baseImm, mergeFaults_nil, gangFaults]
  · rintro hgb s s1 g ⟨hc, hn, hg⟩ ⟨hx, hre⟩ hb
    rw [he]
    simp at hx hre
    simp [lineInstr, withCur, hc, hn, hg, hgb, hx, hre, hb, baseImm, endG]

theorem atomicEffect_of_amoInstr {i : Instr} {h : Hd} {gb : Bool} {q : AmoReq} (he : ∀ s, exec i s = amoInstr h gb q s) :
    AtomicEffect i h gb q := by
  refine ⟨?_, ?_, ?_, ?_⟩
  · rintro s s1 s2 s3 t t1 vs a lv hh ⟨hc, ht, hg⟩ ⟨hr, hre⟩ hfr hpe hf hck hse hrel hdr e
    have e1 : ((!q.red && (s.busy t.id [t.dst q.xd] || s.pushBlocked t [q.xd])) || (q.red && 32 ≤ t.pend) ||
        flagFull t.flags (flagOf t.line h)) = false := by
      cases hqr : q.red with
      | false => obtain ⟨h1, h2⟩ := hfr hqr; simp at h1; simp [h1, h2, hf]
      | true => have := hpe hqr; simp [hf]; omega
    have e2 : (if q.red = true then s1.storeErr a q.bytes else none) = none := by split <;> simp_all
    have e3 : (if q.rel = true then releaseThread t.id q.sc (settleLoads t.id s1) else Rel.ok s1) = Rel.ok s2 := by
      cases hr' : q.rel <;> simp_all [relT]
    refine ⟨fun hq => ?_, fun s4 hq hra => ?_⟩ <;> rw [he] <;>
      simp only [amoInstr, withCur, hc, ht, hh, amoT, hg, hr, hre, e1, hck, e2, e3, hdr, hq, endT, show
        q.elt a (if q.red = true then Dst.none else t.dst q.xd) vs = e from rfl]
    · rfl
    · simp only [hra, Option.isSome_none]; rfl
  · rintro hgb s s1 s2 s3 g rows good hh ⟨hc, hn, hg⟩ ⟨hx, ha, hr, hre⟩ hp hb hf hck her hrel hdr
    have hx' : g.xOk (q.xd :: q.srcs) = true := by
      simp only [Gang.xOk, List.all_append, List.all_cons, List.all_nil] at hx ⊢; revert hx; cases q.srcs.all _ <;> simp
    have hl : laneErrs s g.id (fun l => List.map (fun r => xDst r l) q.srcs) (g.active h) = [] := noFaults hre
    have hp' : (q.red && decide (64 ≤ g.pend)) = false := by cases h : q.red <;> simp_all
    have e3 : (if q.rel = true then releaseGang g.id q.sc (settleLoads g.id s1) else Rel.ok s1) = Rel.ok s2 := by
      cases hr' : q.rel <;> simp_all [relG]
    have e5 : (good.filterMap fun x => Option.map (fun t => (x.1, t))
        (if q.red = true then x.2.head?.bind fun a => s1.storeErr a q.bytes else none) : List (Nat × TrapInfo)) = [] := by
      rw [List.filterMap_eq_nil_iff]; intro x hx; split <;> simp [storeErr_nil her]
    have hgood := checkLanes_good _ _ _ _ hck
    have hne : good ≠ [] := by
      rintro rfl
      have h1 := hgood.1
      rw [List.map_map] at h1
      have h2 : rows.map (·.1) = g.active h := mapM_lanes _ _ hr
      have : ((fun x : Nat × Word => x.1) ∘ fun x : Nat × List Word => (x.1, x.2.getD 0 0 + q.off.signExtend 64)) = (·.1) := rfl
      rw [this, h2] at h1
      exact ha h1.symm
    have hes : (good.flatMap fun x => x.2.map fun a => q.elt a (if q.red || decide (q.xd = 0) then Dst.none else Dst.pair q.xd x.1)
          ((rows.find? fun y => y.1 == x.1).elim [] (·.2))).isEmpty = false := by
      rw [Bool.eq_false_iff]; intro h5
      rw [List.isEmpty_iff, List.flatMap_eq_nil_iff] at h5
      obtain ⟨x, hx⟩ := List.exists_mem_of_ne_nil _ hne
      have h6 := h5 x hx
      have h7 := hgood.2 x hx
      simp at h6
      simp [h6] at h7
    refine ⟨fun hq => ?_, fun s4 hq hra => ?_⟩ <;> rw [he] <;>
    simp only [amoInstr, withCur, hc, hn, hg, hgb, hh, amoG, hx', active_isEmpty ha, hr, hb, hf, hl, hck, hp', filter_not_any_nil,
      mergeFaults_nil, gangFaults, e3, e5, hdr, hes, show (List.flatMap (fun x => x.2.map fun a =>
        q.elt a (if q.red || decide (q.xd = 0) then Dst.none else Dst.pair q.xd x.1)
          ((rows.find? fun y => y.1 == x.1).elim [] (·.2))) good) = laneAmos q rows good from rfl, hq]
    · simp
    · simp [hra, parkG]
  · rintro hgb s s1 s2 s3 g a lv hh ⟨hc, hn, hg⟩ ⟨hx, hre⟩ hp hf hck hse hrel hdr
    have hx' : g.sOk (q.xd :: q.srcs) = true := by
      simp only [Gang.sOk, List.all_append, List.all_cons, List.all_nil] at hx ⊢; revert hx; cases q.srcs.all _ <;> simp
    have e2 : (if q.red = true then s1.storeErr a q.bytes else none) = none := by split <;> simp_all
    have e3 : (if q.rel = true then releaseGang g.id q.sc (settleLoads g.id s1) else Rel.ok s1) = Rel.ok s2 := by
      cases hr' : q.rel <;> simp_all [relG]
    have hp' : (q.red && decide (64 ≤ g.pend)) = false := by
      cases h : q.red
      · rfl
      · have := hp h; simp; omega
    refine ⟨fun hq => ?_, fun hq h0 hw => ?_, fun s4 hq h0 hw hra => ?_⟩ <;> rw [he] <;>
    simp only [amoInstr, withCur, hc, hn, hg, hgb, hh, amoS, hx', hf, hre, hp', hck, e2, e3, hdr, endG] <;>
    simp [hq]
    · simp [if_neg h0, hw]
    · simp [if_neg h0, hw, hra]
  · intro s fs
    refine ⟨fun t ⟨hc, ht, hg⟩ hw hh => ⟨fun hr => ?_, fun hr => ?_⟩, fun g ⟨hc, hn, hg⟩ hw hh => ⟨fun hr => ?_, fun hb hr => ?_, fun hb hr => ?_⟩⟩ <;>
      rw [he] <;> simp [amoInstr, withCur, resumeAmo, endT, endG, *]

end Sys2Proof.Machine
end

