-- ==== Sys2Proof/Laws/PerInstr.lean ====
section
/-! SUPPORT. What holds of every instruction as syntax, one lemma per constructor: FIS-3 encodes exactly the instructions that are not
steps of the device, and under an opcode that the map of R221 assigns. -/

namespace Sys2Proof.Laws.F

/-- The instruction has an encoding exactly when it is one of FIS-3, and its opcode is assigned (R221). -/
def Statement (i : Instr) : Prop :=
  (encBody i).isSome = i.coded ∧ ∀ x, encBody i = some x → (opInfo x.2.1).isSome = true

theorem of_encoded {i : Instr} {hd : Hd} {opc tail : Nat} (h : encBody i = some (hd, opc, tail)) (hc : i.coded = true)
    (ho : (opInfo opc).isSome = true) : Statement i :=
  ⟨by rw [h, hc]; rfl, fun y hy => by rw [h] at hy; cases hy; exact ho⟩

theorem of_event {i : Instr} (h : encBody i = none) (hc : i.coded = false) : Statement i :=
  ⟨by rw [h, hc]; rfl, fun y hy => by rw [h] at hy; cases hy⟩

theorem br : ∀ a0 a1, Statement (.br a0 a1) := fun _ _ => of_encoded rfl rfl rfl
theorem jal : ∀ a0 a1 a2, Statement (.jal a0 a1 a2) := fun _ _ _ => of_encoded rfl rfl rfl
theorem jalr : ∀ a0 a1 a2 a3, Statement (.jalr a0 a1 a2 a3) := fun _ _ _ _ => of_encoded rfl rfl rfl
theorem call : ∀ a0 a1, Statement (.call a0 a1) := fun _ _ => of_encoded rfl rfl rfl
theorem callr : ∀ a0 a1, Statement (.callr a0 a1) := fun _ _ => of_encoded rfl rfl rfl
theorem ret : ∀ a0, Statement (.ret a0) := fun _ => of_encoded rfl rfl rfl
theorem loop : ∀ a0 a1 a2, Statement (.loop a0 a1 a2) := fun _ _ _ => of_encoded rfl rfl rfl
theorem trap : ∀ a0 a1, Statement (.trap a0 a1) := fun _ _ => of_encoded rfl rfl rfl
theorem sysc : ∀ a0 a1, Statement (.sysc a0 a1) := fun _ _ => of_encoded rfl rfl rfl
theorem brk : ∀ a0 a1, Statement (.brk a0 a1) := fun _ _ => of_encoded rfl rfl rfl
theorem eret : ∀ a0, Statement (.eret a0) := fun _ => of_encoded rfl rfl rfl
theorem nop : ∀ a0, Statement (.nop a0) := fun _ => of_encoded rfl rfl rfl
theorem yield : ∀ a0, Statement (.yield a0) := fun _ => of_encoded rfl rfl rfl
theorem sleep : ∀ a0 a1, Statement (.sleep a0 a1) := fun _ _ => of_encoded rfl rfl rfl
theorem exit : ∀ a0 a1, Statement (.exit a0 a1) := fun _ _ => of_encoded rfl rfl rfl
theorem add : ∀ a0 a1, Statement (.add a0 a1) := fun _ _ => of_encoded rfl rfl rfl
theorem sub : ∀ a0 a1, Statement (.sub a0 a1) := fun _ _ => of_encoded rfl rfl rfl
theorem mul : ∀ a0 a1, Statement (.mul a0 a1) := fun _ _ => of_encoded rfl rfl rfl
theorem and : ∀ a0 a1, Statement (.and a0 a1) := fun _ _ => of_encoded rfl rfl rfl
theorem or : ∀ a0 a1, Statement (.or a0 a1) := fun _ _ => of_encoded rfl rfl rfl
theorem xor : ∀ a0 a1, Statement (.xor a0 a1) := fun _ _ => of_encoded rfl rfl rfl
theorem andn : ∀ a0 a1, Statement (.andn a0 a1) := fun _ _ => of_encoded rfl rfl rfl
theorem orn : ∀ a0 a1, Statement (.orn a0 a1) := fun _ _ => of_encoded rfl rfl rfl
theorem xnor : ∀ a0 a1, Statement (.xnor a0 a1) := fun _ _ => of_encoded rfl rfl rfl
theorem clz : ∀ a0 a1, Statement (.clz a0 a1) := fun _ _ => of_encoded rfl rfl rfl
theorem ctz : ∀ a0 a1, Statement (.ctz a0 a1) := fun _ _ => of_encoded rfl rfl rfl
theorem popc : ∀ a0 a1, Statement (.popc a0 a1) := fun _ _ => of_encoded rfl rfl rfl
theorem brev : ∀ a0 a1, Statement (.brev a0 a1) := fun _ _ => of_encoded rfl rfl rfl
theorem bswap : ∀ a0 a1, Statement (.bswap a0 a1) := fun _ _ => of_encoded rfl rfl rfl
theorem mov : ∀ a0 a1, Statement (.mov a0 a1) := fun _ _ => of_encoded rfl rfl rfl
theorem addi : ∀ a0 a1, Statement (.addi a0 a1) := fun _ _ => of_encoded rfl rfl rfl
theorem andi : ∀ a0 a1, Statement (.andi a0 a1) := fun _ _ => of_encoded rfl rfl rfl
theorem ori : ∀ a0 a1, Statement (.ori a0 a1) := fun _ _ => of_encoded rfl rfl rfl
theorem xori : ∀ a0 a1, Statement (.xori a0 a1) := fun _ _ => of_encoded rfl rfl rfl
theorem li : ∀ a0 a1 a2 a3, Statement (.li a0 a1 a2 a3) := fun _ _ _ _ => of_encoded rfl rfl rfl
theorem liZ : ∀ a0 a1 a2 a3, Statement (.liZ a0 a1 a2 a3) := fun _ _ _ _ => of_encoded rfl rfl rfl
theorem liHi : ∀ a0 a1 a2 a3 a4, Statement (.liHi a0 a1 a2 a3 a4) := fun _ _ _ _ _ => of_encoded rfl rfl rfl
theorem addpc : ∀ a0 a1 a2 a3, Statement (.addpc a0 a1 a2 a3) := fun _ _ _ _ => of_encoded rfl rfl rfl
theorem mulh : ∀ a0 a1 a2, Statement (.mulh a0 a1 a2) := fun _ _ _ => of_encoded rfl rfl rfl
theorem div : ∀ a0 a1 a2, Statement (.div a0 a1 a2) := fun _ _ _ => of_encoded rfl rfl rfl
theorem rem : ∀ a0 a1 a2, Statement (.rem a0 a1 a2) := fun _ _ _ => of_encoded rfl rfl rfl
theorem shl : ∀ a0 a1 a2, Statement (.shl a0 a1 a2) := fun _ _ _ => of_encoded rfl rfl rfl
theorem shr : ∀ a0 a1 a2, Statement (.shr a0 a1 a2) := fun _ _ _ => of_encoded rfl rfl rfl
theorem sar : ∀ a0 a1 a2, Statement (.sar a0 a1 a2) := fun _ _ _ => of_encoded rfl rfl rfl
theorem rotr : ∀ a0 a1 a2, Statement (.rotr a0 a1 a2) := fun _ _ _ => of_encoded rfl rfl rfl
theorem shfi : ∀ a0 a1 a2, Statement (.shfi a0 a1 a2) := fun _ _ _ => of_encoded rfl rfl rfl
theorem bfe : ∀ a0 a1 a2 a3 a4, Statement (.bfe a0 a1 a2 a3 a4) := fun _ _ _ _ _ => of_encoded rfl rfl rfl
theorem bfi : ∀ a0 a1 a2 a3, Statement (.bfi a0 a1 a2 a3) := fun _ _ _ _ => of_encoded rfl rfl rfl
theorem min : ∀ a0 a1 a2, Statement (.min a0 a1 a2) := fun _ _ _ => of_encoded rfl rfl rfl
theorem max : ∀ a0 a1 a2, Statement (.max a0 a1 a2) := fun _ _ _ => of_encoded rfl rfl rfl
theorem sel : ∀ a0 a1 a2 a3 a4, Statement (.sel a0 a1 a2 a3 a4) := fun _ _ _ _ _ => of_encoded rfl rfl rfl
theorem sext : ∀ a0 a1 a2, Statement (.sext a0 a1 a2) := fun _ _ _ => of_encoded rfl rfl rfl
theorem zext : ∀ a0 a1 a2, Statement (.zext a0 a1 a2) := fun _ _ _ => of_encoded rfl rfl rfl
theorem cmp : ∀ a0 a1 a2 a3 a4 a5 a6, Statement (.cmp a0 a1 a2 a3 a4 a5 a6) := fun _ _ _ _ _ _ _ => of_encoded rfl rfl rfl
theorem cmpi : ∀ a0 a1 a2 a3 a4 a5 a6, Statement (.cmpi a0 a1 a2 a3 a4 a5 a6) := fun _ _ _ _ _ _ _ => of_encoded rfl rfl rfl
theorem pand : ∀ a0 a1 a2 a3 a4 a5, Statement (.pand a0 a1 a2 a3 a4 a5) := fun _ _ _ _ _ _ => of_encoded rfl rfl rfl
theorem por : ∀ a0 a1 a2 a3 a4 a5, Statement (.por a0 a1 a2 a3 a4 a5) := fun _ _ _ _ _ _ => of_encoded rfl rfl rfl
theorem pxor : ∀ a0 a1 a2 a3 a4 a5, Statement (.pxor a0 a1 a2 a3 a4 a5) := fun _ _ _ _ _ _ => of_encoded rfl rfl rfl
theorem pset : ∀ a0 a1 a2, Statement (.pset a0 a1 a2) := fun _ _ _ => of_encoded rfl rfl rfl
theorem psetNz : ∀ a0 a1 a2, Statement (.psetNz a0 a1 a2) := fun _ _ _ => of_encoded rfl rfl rfl
theorem psetAll : ∀ a0 a1, Statement (.psetAll a0 a1) := fun _ _ => of_encoded rfl rfl rfl
theorem pget : ∀ a0 a1, Statement (.pget a0 a1) := fun _ _ => of_encoded rfl rfl rfl
theorem feClr : ∀ a0 a1, Statement (.feClr a0 a1) := fun _ _ => of_encoded rfl rfl rfl
theorem feTst : ∀ a0 a1 a2, Statement (.feTst a0 a1 a2) := fun _ _ _ => of_encoded rfl rfl rfl
theorem fadd : ∀ a0 a1 a2 a3, Statement (.fadd a0 a1 a2 a3) := fun _ _ _ _ => of_encoded rfl rfl rfl
theorem fsub : ∀ a0 a1 a2 a3, Statement (.fsub a0 a1 a2 a3) := fun _ _ _ _ => of_encoded rfl rfl rfl
theorem fmul : ∀ a0 a1 a2 a3, Statement (.fmul a0 a1 a2 a3) := fun _ _ _ _ => of_encoded rfl rfl rfl
theorem ffma : ∀ a0 a1 a2 a3 a4 a5, Statement (.ffma a0 a1 a2 a3 a4 a5) := fun _ _ _ _ _ _ => of_encoded rfl rfl rfl
theorem fmin : ∀ a0 a1 a2, Statement (.fmin a0 a1 a2) := fun _ _ _ => of_encoded rfl rfl rfl
theorem fmax : ∀ a0 a1 a2, Statement (.fmax a0 a1 a2) := fun _ _ _ => of_encoded rfl rfl rfl
theorem fcmp : ∀ a0 a1 a2 a3 a4 a5 a6, Statement (.fcmp a0 a1 a2 a3 a4 a5 a6) := fun _ _ _ _ _ _ _ => of_encoded rfl rfl rfl
theorem fcvt : ∀ a0 a1 a2 a3 a4 a5, Statement (.fcvt a0 a1 a2 a3 a4 a5) := fun _ _ _ _ _ _ => of_encoded rfl rfl rfl
theorem frcp : ∀ a0 a1 a2 a3, Statement (.frcp a0 a1 a2 a3) := fun _ _ _ _ => of_encoded rfl rfl rfl
theorem frsq : ∀ a0 a1 a2 a3, Statement (.frsq a0 a1 a2 a3) := fun _ _ _ _ => of_encoded rfl rfl rfl
theorem fsgn : ∀ a0 a1 a2 a3, Statement (.fsgn a0 a1 a2 a3) := fun _ _ _ _ => of_encoded rfl rfl rfl
theorem fclass : ∀ a0 a1 a2, Statement (.fclass a0 a1 a2) := fun _ _ _ => of_encoded rfl rfl rfl
theorem csrr : ∀ a0 a1 a2, Statement (.csrr a0 a1 a2) := fun _ _ _ => of_encoded rfl rfl rfl
theorem csrw : ∀ a0 a1 a2, Statement (.csrw a0 a1 a2) := fun _ _ _ => of_encoded rfl rfl rfl
theorem csrxSwap : ∀ a0 a1 a2 a3, Statement (.csrxSwap a0 a1 a2 a3) := fun _ _ _ _ => of_encoded rfl rfl rfl
theorem csrxSet : ∀ a0 a1 a2 a3, Statement (.csrxSet a0 a1 a2 a3) := fun _ _ _ _ => of_encoded rfl rfl rfl
theorem csrxClr : ∀ a0 a1 a2 a3, Statement (.csrxClr a0 a1 a2 a3) := fun _ _ _ _ => of_encoded rfl rfl rfl
theorem ld : ∀ a0 a1 a2, Statement (.ld a0 a1 a2) := fun _ _ _ => of_encoded rfl rfl rfl
theorem ldx : ∀ a0 a1 a2, Statement (.ldx a0 a1 a2) := fun _ _ _ => of_encoded rfl rfl rfl
theorem st : ∀ a0 a1 a2, Statement (.st a0 a1 a2) := fun _ _ _ => of_encoded rfl rfl rfl
theorem stx : ∀ a0 a1 a2, Statement (.stx a0 a1 a2) := fun _ _ _ => of_encoded rfl rfl rfl
theorem ldAcq : ∀ a0 a1 a2 a3, Statement (.ldAcq a0 a1 a2 a3) := fun _ _ _ _ => of_encoded rfl rfl rfl
theorem stRel : ∀ a0 a1 a2 a3, Statement (.stRel a0 a1 a2 a3) := fun _ _ _ _ => of_encoded rfl rfl rfl
theorem ldp : ∀ a0 a1, Statement (.ldp a0 a1) := fun _ _ => of_encoded rfl rfl rfl
theorem stp : ∀ a0 a1, Statement (.stp a0 a1) := fun _ _ => of_encoded rfl rfl rfl
theorem prefL1 : ∀ a0 a1, Statement (.prefL1 a0 a1) := fun _ _ => of_encoded rfl rfl rfl
theorem prefCc : ∀ a0 a1, Statement (.prefCc a0 a1) := fun _ _ => of_encoded rfl rfl rfl
theorem ccWbL1 : ∀ a0 a1, Statement (.ccWbL1 a0 a1) := fun _ _ => of_encoded rfl rfl rfl
theorem ccWbCc : ∀ a0 a1, Statement (.ccWbCc a0 a1) := fun _ _ => of_encoded rfl rfl rfl
theorem ccInvL1 : ∀ a0 a1, Statement (.ccInvL1 a0 a1) := fun _ _ => of_encoded rfl rfl rfl
theorem ccInvCc : ∀ a0 a1, Statement (.ccInvCc a0 a1) := fun _ _ => of_encoded rfl rfl rfl
theorem ccPin : ∀ a0 a1 a2, Statement (.ccPin a0 a1 a2) := fun _ _ _ => of_encoded rfl rfl rfl
theorem amo : ∀ a0 a1 a2 a3 a4 a5 a6, Statement (.amo a0 a1 a2 a3 a4 a5 a6) := fun _ _ _ _ _ _ _ => of_encoded rfl rfl rfl
theorem cas : ∀ a0 a1 a2 a3 a4 a5 a6, Statement (.cas a0 a1 a2 a3 a4 a5 a6) := fun _ _ _ _ _ _ _ => of_encoded rfl rfl rfl
theorem red : ∀ a0 a1 a2 a3 a4 a5 a6 a7 a8, Statement (.red a0 a1 a2 a3 a4 a5 a6 a7 a8) := fun _ _ _ _ _ _ _ _ _ => of_encoded rfl rfl rfl
theorem fence : ∀ a0 a1 a2 a3, Statement (.fence a0 a1 a2 a3) := fun _ _ _ _ => of_encoded rfl rfl rfl
theorem watch : ∀ a0 a1, Statement (.watch a0 a1) := fun _ _ => of_encoded rfl rfl rfl
theorem unwatch : ∀ a0 a1, Statement (.unwatch a0 a1) := fun _ _ => of_encoded rfl rfl rfl
theorem cpy : ∀ a0 a1 a2 a3 a4, Statement (.cpy a0 a1 a2 a3 a4) := fun _ _ _ _ _ => of_encoded rfl rfl rfl
theorem cpyg : ∀ a0 a1 a2 a3 a4 a5, Statement (.cpyg a0 a1 a2 a3 a4 a5) := fun _ _ _ _ _ _ => of_encoded rfl rfl rfl
theorem chsetFill : ∀ a0 a1 a2 a3, Statement (.chsetFill a0 a1 a2 a3) := fun _ _ _ _ => of_encoded rfl rfl rfl
theorem chsetTable : ∀ a0 a1 a2 a3, Statement (.chsetTable a0 a1 a2 a3) := fun _ _ _ _ => of_encoded rfl rfl rfl
theorem chsetNsrc : ∀ a0 a1 a2 a3, Statement (.chsetNsrc a0 a1 a2 a3) := fun _ _ _ _ => of_encoded rfl rfl rfl
theorem chsetFolio : ∀ a0 a1 a2 a3 a4, Statement (.chsetFolio a0 a1 a2 a3 a4) := fun _ _ _ _ _ => of_encoded rfl rfl rfl
theorem chwm : ∀ a0 a1 a2 a3, Statement (.chwm a0 a1 a2 a3) := fun _ _ _ _ => of_encoded rfl rfl rfl
theorem chwmSt : ∀ a0 a1 a2 a3, Statement (.chwmSt a0 a1 a2 a3) := fun _ _ _ _ => of_encoded rfl rfl rfl
theorem send : ∀ a0 a1 a2 a3 a4, Statement (.send a0 a1 a2 a3 a4) := fun _ _ _ _ _ => of_encoded rfl rfl rfl
theorem done : ∀ a0, Statement (.done a0) := fun _ => of_encoded rfl rfl rfl
theorem bind : ∀ a0 a1 a2, Statement (.bind a0 a1 a2) := fun _ _ _ => of_encoded rfl rfl rfl
theorem fenter : ∀ a0 a1, Statement (.fenter a0 a1) := fun _ _ => of_encoded rfl rfl rfl
theorem fleave : ∀ a0 a1, Statement (.fleave a0 a1) := fun _ _ => of_encoded rfl rfl rfl
theorem fhold : ∀ a0 a1 a2 a3, Statement (.fhold a0 a1 a2 a3) := fun _ _ _ _ => of_encoded rfl rfl rfl
theorem finc : ∀ a0 a1 a2, Statement (.finc a0 a1 a2) := fun _ _ _ => of_encoded rfl rfl rfl
theorem fdrop : ∀ a0 a1, Statement (.fdrop a0 a1) := fun _ _ => of_encoded rfl rfl rfl
theorem fwait : ∀ a0 a1 a2 a3, Statement (.fwait a0 a1 a2 a3) := fun _ _ _ _ => of_encoded rfl rfl rfl
theorem fprobe : ∀ a0 a1 a2 a3, Statement (.fprobe a0 a1 a2 a3) := fun _ _ _ _ => of_encoded rfl rfl rfl
theorem fprobeInfo : ∀ a0 a1 a2 a3, Statement (.fprobeInfo a0 a1 a2 a3) := fun _ _ _ _ => of_encoded rfl rfl rfl
theorem gcallLabel : ∀ a0 a1, Statement (.gcallLabel a0 a1) := fun _ _ => of_encoded rfl rfl rfl
theorem gcallReg : ∀ a0 a1, Statement (.gcallReg a0 a1) := fun _ _ => of_encoded rfl rfl rfl
theorem gret : ∀ a0, Statement (.gret a0) := fun _ => of_encoded rfl rfl rfl
theorem tlbinvPg : ∀ a0 a1 a2 a3, Statement (.tlbinvPg a0 a1 a2 a3) := fun _ _ _ _ => of_encoded rfl rfl rfl
theorem tlbinvAs : ∀ a0 a1 a2, Statement (.tlbinvAs a0 a1 a2) := fun _ _ _ => of_encoded rfl rfl rfl
theorem tlbinvAll : ∀ a0 a1, Statement (.tlbinvAll a0 a1) := fun _ _ => of_encoded rfl rfl rfl
theorem scrub : ∀ a0 a1 a2 a3, Statement (.scrub a0 a1 a2 a3) := fun _ _ _ _ => of_encoded rfl rfl rfl
theorem ctxsave : ∀ a0 a1 a2 a3, Statement (.ctxsave a0 a1 a2 a3) := fun _ _ _ _ => of_encoded rfl rfl rfl
theorem ctxrest : ∀ a0 a1 a2, Statement (.ctxrest a0 a1 a2) := fun _ _ _ => of_encoded rfl rfl rfl
theorem ipi : ∀ a0 a1 a2, Statement (.ipi a0 a1 a2) := fun _ _ _ => of_encoded rfl rfl rfl
theorem fgraphIns : ∀ a0 a1 a2, Statement (.fgraphIns a0 a1 a2) := fun _ _ _ => of_encoded rfl rfl rfl
theorem fgraphExt : ∀ a0 a1 a2, Statement (.fgraphExt a0 a1 a2) := fun _ _ _ => of_encoded rfl rfl rfl
theorem fgraphDel : ∀ a0 a1 a2, Statement (.fgraphDel a0 a1 a2) := fun _ _ _ => of_encoded rfl rfl rfl
theorem vadd : ∀ a0 a1, Statement (.vadd a0 a1) := fun _ _ => of_encoded rfl rfl rfl
theorem vsub : ∀ a0 a1, Statement (.vsub a0 a1) := fun _ _ => of_encoded rfl rfl rfl
theorem vmul : ∀ a0 a1, Statement (.vmul a0 a1) := fun _ _ => of_encoded rfl rfl rfl
theorem vfma : ∀ a0 a1 a2 a3, Statement (.vfma a0 a1 a2 a3) := fun _ _ _ _ => of_encoded rfl rfl rfl
theorem vmin : ∀ a0 a1 a2, Statement (.vmin a0 a1 a2) := fun _ _ _ => of_encoded rfl rfl rfl
theorem vmax : ∀ a0 a1 a2, Statement (.vmax a0 a1 a2) := fun _ _ _ => of_encoded rfl rfl rfl
theorem vmulh : ∀ a0 a1 a2, Statement (.vmulh a0 a1 a2) := fun _ _ _ => of_encoded rfl rfl rfl
theorem vdiv : ∀ a0 a1 a2 a3 a4, Statement (.vdiv a0 a1 a2 a3 a4) := fun _ _ _ _ _ => of_encoded rfl rfl rfl
theorem vsqrt : ∀ a0 a1 a2 a3 a4, Statement (.vsqrt a0 a1 a2 a3 a4) := fun _ _ _ _ _ => of_encoded rfl rfl rfl
theorem vrcp : ∀ a0 a1 a2 a3 a4, Statement (.vrcp a0 a1 a2 a3 a4) := fun _ _ _ _ _ => of_encoded rfl rfl rfl
theorem vrsq : ∀ a0 a1 a2 a3 a4, Statement (.vrsq a0 a1 a2 a3 a4) := fun _ _ _ _ _ => of_encoded rfl rfl rfl
theorem vexp2 : ∀ a0 a1 a2 a3 a4, Statement (.vexp2 a0 a1 a2 a3 a4) := fun _ _ _ _ _ => of_encoded rfl rfl rfl
theorem vlog2 : ∀ a0 a1 a2 a3 a4, Statement (.vlog2 a0 a1 a2 a3 a4) := fun _ _ _ _ _ => of_encoded rfl rfl rfl
theorem vsgnCp : ∀ a0 a1 a2, Statement (.vsgnCp a0 a1 a2) := fun _ _ _ => of_encoded rfl rfl rfl
theorem vsgnNcp : ∀ a0 a1 a2, Statement (.vsgnNcp a0 a1 a2) := fun _ _ _ => of_encoded rfl rfl rfl
theorem vsgnXor : ∀ a0 a1 a2, Statement (.vsgnXor a0 a1 a2) := fun _ _ _ => of_encoded rfl rfl rfl
theorem vsgnAbs : ∀ a0 a1 a2 a3, Statement (.vsgnAbs a0 a1 a2 a3) := fun _ _ _ _ => of_encoded rfl rfl rfl
theorem vsgnNeg : ∀ a0 a1 a2 a3, Statement (.vsgnNeg a0 a1 a2 a3) := fun _ _ _ _ => of_encoded rfl rfl rfl
theorem vand : ∀ a0 a1, Statement (.vand a0 a1) := fun _ _ => of_encoded rfl rfl rfl
theorem vor : ∀ a0 a1, Statement (.vor a0 a1) := fun _ _ => of_encoded rfl rfl rfl
theorem vxor : ∀ a0 a1, Statement (.vxor a0 a1) := fun _ _ => of_encoded rfl rfl rfl
theorem vandn : ∀ a0 a1, Statement (.vandn a0 a1) := fun _ _ => of_encoded rfl rfl rfl
theorem vpopc : ∀ a0 a1 a2, Statement (.vpopc a0 a1 a2) := fun _ _ _ => of_encoded rfl rfl rfl
theorem vmov : ∀ a0 a1 a2 a3, Statement (.vmov a0 a1 a2 a3) := fun _ _ _ _ => of_encoded rfl rfl rfl
theorem vshl : ∀ a0 a1 a2 a3 a4, Statement (.vshl a0 a1 a2 a3 a4) := fun _ _ _ _ _ => of_encoded rfl rfl rfl
theorem vshr : ∀ a0 a1 a2 a3 a4, Statement (.vshr a0 a1 a2 a3 a4) := fun _ _ _ _ _ => of_encoded rfl rfl rfl
theorem vsar : ∀ a0 a1 a2 a3 a4, Statement (.vsar a0 a1 a2 a3 a4) := fun _ _ _ _ _ => of_encoded rfl rfl rfl
theorem vclz : ∀ a0 a1 a2 a3, Statement (.vclz a0 a1 a2 a3) := fun _ _ _ _ => of_encoded rfl rfl rfl
theorem vcmp : ∀ a0 a1 a2 a3 a4 a5 a6, Statement (.vcmp a0 a1 a2 a3 a4 a5 a6) := fun _ _ _ _ _ _ _ => of_encoded rfl rfl rfl
theorem vsel : ∀ a0 a1 a2 a3, Statement (.vsel a0 a1 a2 a3) := fun _ _ _ _ => of_encoded rfl rfl rfl
theorem vcvt : ∀ a0 a1 a2 a3 a4 a5 a6, Statement (.vcvt a0 a1 a2 a3 a4 a5 a6) := fun _ _ _ _ _ _ _ => of_encoded rfl rfl rfl
theorem vpack : ∀ a0 a1 a2 a3 a4 a5, Statement (.vpack a0 a1 a2 a3 a4 a5) := fun _ _ _ _ _ _ => of_encoded rfl rfl rfl
theorem vunpk : ∀ a0 a1 a2 a3 a4 a5 a6, Statement (.vunpk a0 a1 a2 a3 a4 a5 a6) := fun _ _ _ _ _ _ _ => of_encoded rfl rfl rfl
theorem vlutL4 : ∀ a0 a1 a2, Statement (.vlutL4 a0 a1 a2) := fun _ _ _ => of_encoded rfl rfl rfl
theorem vlutTab : ∀ a0 a1, Statement (.vlutTab a0 a1) := fun _ _ => of_encoded rfl rfl rfl
theorem vdot : ∀ a0 a1 a2, Statement (.vdot a0 a1 a2) := fun _ _ _ => of_encoded rfl rfl rfl
theorem vshfIdx : ∀ a0 a1 a2, Statement (.vshfIdx a0 a1 a2) := fun _ _ _ => of_encoded rfl rfl rfl
theorem vshfXor : ∀ a0 a1 a2 a3 a4, Statement (.vshfXor a0 a1 a2 a3 a4) := fun _ _ _ _ _ => of_encoded rfl rfl rfl
theorem vshfUp : ∀ a0 a1 a2 a3 a4, Statement (.vshfUp a0 a1 a2 a3 a4) := fun _ _ _ _ _ => of_encoded rfl rfl rfl
theorem vshfDn : ∀ a0 a1 a2 a3 a4, Statement (.vshfDn a0 a1 a2 a3 a4) := fun _ _ _ _ _ => of_encoded rfl rfl rfl
theorem vsplat : ∀ a0 a1 a2 a3, Statement (.vsplat a0 a1 a2 a3) := fun _ _ _ _ => of_encoded rfl rfl rfl
theorem vbcast : ∀ a0 a1 a2 a3 a4, Statement (.vbcast a0 a1 a2 a3 a4) := fun _ _ _ _ _ => of_encoded rfl rfl rfl
theorem vrot : ∀ a0 a1 a2 a3 a4, Statement (.vrot a0 a1 a2 a3 a4) := fun _ _ _ _ _ => of_encoded rfl rfl rfl
theorem vballot : ∀ a0 a1 a2 a3 a4, Statement (.vballot a0 a1 a2 a3 a4) := fun _ _ _ _ _ => of_encoded rfl rfl rfl
theorem vred : ∀ a0 a1 a2 a3 a4 a5 a6, Statement (.vred a0 a1 a2 a3 a4 a5 a6) := fun _ _ _ _ _ _ _ => of_encoded rfl rfl rfl
theorem vscan : ∀ a0 a1 a2 a3 a4 a5 a6 a7, Statement (.vscan a0 a1 a2 a3 a4 a5 a6 a7) := fun _ _ _ _ _ _ _ _ => of_encoded rfl rfl rfl
theorem vseg : ∀ a0 a1 a2 a3 a4 a5, Statement (.vseg a0 a1 a2 a3 a4 a5) := fun _ _ _ _ _ _ => of_encoded rfl rfl rfl
theorem vconf : ∀ a0 a1 a2 a3 a4, Statement (.vconf a0 a1 a2 a3 a4) := fun _ _ _ _ _ => of_encoded rfl rfl rfl
theorem vtopk : ∀ a0 a1 a2 a3 a4, Statement (.vtopk a0 a1 a2 a3 a4) := fun _ _ _ _ _ => of_encoded rfl rfl rfl
theorem vmrgk : ∀ a0 a1 a2 a3 a4, Statement (.vmrgk a0 a1 a2 a3 a4) := fun _ _ _ _ _ => of_encoded rfl rfl rfl
theorem vld : ∀ a0 a1 a2 a3 a4 a5, Statement (.vld a0 a1 a2 a3 a4 a5) := fun _ _ _ _ _ _ => of_encoded rfl rfl rfl
theorem vst : ∀ a0 a1 a2 a3 a4 a5, Statement (.vst a0 a1 a2 a3 a4 a5) := fun _ _ _ _ _ _ => of_encoded rfl rfl rfl
theorem vldc : ∀ a0 a1 a2 a3 a4, Statement (.vldc a0 a1 a2 a3 a4) := fun _ _ _ _ _ => of_encoded rfl rfl rfl
theorem vstc : ∀ a0 a1 a2 a3 a4, Statement (.vstc a0 a1 a2 a3 a4) := fun _ _ _ _ _ => of_encoded rfl rfl rfl
theorem vamo : ∀ a0 a1 a2 a3 a4, Statement (.vamo a0 a1 a2 a3 a4) := fun _ _ _ _ _ => of_encoded rfl rfl rfl
theorem vrdm : ∀ a0 a1 a2 a3 a4 a5 a6 a7, Statement (.vrdm a0 a1 a2 a3 a4 a5 a6 a7) := fun _ _ _ _ _ _ _ _ => of_encoded rfl rfl rfl
theorem mma : ∀ a0 a1, Statement (.mma a0 a1) := fun _ _ => of_encoded rfl rfl rfl
theorem mrot : ∀ a0 a1, Statement (.mrot a0 a1) := fun _ _ => of_encoded rfl rfl rfl
theorem mjoin : ∀ a0, Statement (.mjoin a0) := fun _ => of_encoded rfl rfl rfl
theorem mzero : ∀ a0 a1, Statement (.mzero a0 a1) := fun _ _ => of_encoded rfl rfl rfl
theorem mrd : ∀ a0 a1 a2 a3 a4 a5, Statement (.mrd a0 a1 a2 a3 a4 a5) := fun _ _ _ _ _ _ => of_encoded rfl rfl rfl
theorem mwr : ∀ a0 a1 a2 a3 a4 a5, Statement (.mwr a0 a1 a2 a3 a4 a5) := fun _ _ _ _ _ _ => of_encoded rfl rfl rfl
theorem mready : ∀ a0, Statement (.mready a0) := fun _ => of_encoded rfl rfl rfl
theorem mwait : ∀ a0 a1, Statement (.mwait a0 a1) := fun _ _ => of_encoded rfl rfl rfl
theorem mtrn : ∀ a0 a1 a2, Statement (.mtrn a0 a1 a2) := fun _ _ _ => of_encoded rfl rfl rfl
theorem sleepExpiry : ∀ a0, Statement (.sleepExpiry a0) := fun _ => of_event rfl rfl
theorem lineEntry : ∀ a0, Statement (.lineEntry a0) := fun _ => of_event rfl rfl
theorem lineWaitRelease : ∀ a0, Statement (.lineWaitRelease a0) := fun _ => of_event rfl rfl
theorem flagCompletion : ∀ a0, Statement (.flagCompletion a0) := fun _ => of_event rfl rfl
theorem registerFill : ∀ a0, Statement (.registerFill a0) := fun _ => of_event rfl rfl
theorem windowSpill : ∀ a0, Statement (.windowSpill a0) := fun _ => of_event rfl rfl
theorem windowReload : ∀ a0, Statement (.windowReload a0) := fun _ => of_event rfl rfl
theorem asyncMachineDelivery : ∀ a0, Statement (.asyncMachineDelivery a0) := fun _ => of_event rfl rfl
theorem quirePatrolRead : ∀ a0, Statement (.quirePatrolRead a0) := fun _ => of_event rfl rfl
theorem reservedOpcode : ∀ a0 a1, Statement (.reservedOpcode a0 a1) := fun _ _ => of_event rfl rfl
theorem galleyTimeout : ∀ a0, Statement (.galleyTimeout a0) := fun _ => of_event rfl rfl
theorem gangPlacement : ∀ a0 a1, Statement (.gangPlacement a0 a1) := fun _ _ => of_event rfl rfl
theorem burstSend : ∀ a0 a1 a2, Statement (.burstSend a0 a1 a2) := fun _ _ _ => of_event rfl rfl
theorem burstTransfer : ∀ a0 a1 a2, Statement (.burstTransfer a0 a1 a2) := fun _ _ _ => of_event rfl rfl
theorem burstLanding : ∀ a0 a1 a2, Statement (.burstLanding a0 a1 a2) := fun _ _ _ => of_event rfl rfl
theorem watermarkStallRelease : ∀ a0, Statement (.watermarkStallRelease a0) := fun _ => of_event rfl rfl
theorem channelDrainExpiry : ∀ a0, Statement (.channelDrainExpiry a0) := fun _ => of_event rfl rfl
theorem tileBatchSend : ∀ a0 a1, Statement (.tileBatchSend a0 a1) := fun _ _ => of_event rfl rfl
theorem clusterBatchForward : ∀ a0, Statement (.clusterBatchForward a0) := fun _ => of_event rfl rfl
theorem deviceBatchForward : Statement .deviceBatchForward := of_event rfl rfl
theorem jobStart : ∀ a0 a1, Statement (.jobStart a0 a1) := fun _ _ => of_event rfl rfl
theorem batchApply : ∀ a0, Statement (.batchApply a0) := fun _ => of_event rfl rfl
theorem frontierAnnounce : ∀ a0 a1, Statement (.frontierAnnounce a0 a1) := fun _ _ => of_event rfl rfl
theorem closureWalkEnd : ∀ a0, Statement (.closureWalkEnd a0) := fun _ => of_event rfl rfl
theorem messageArrival : ∀ a0, Statement (.messageArrival a0) := fun _ => of_event rfl rfl
theorem senderHeldAccept : ∀ a0, Statement (.senderHeldAccept a0) := fun _ => of_event rfl rfl
theorem queuePushArrival : ∀ a0, Statement (.queuePushArrival a0) := fun _ => of_event rfl rfl
theorem storeBufferWriteback : ∀ a0, Statement (.storeBufferWriteback a0) := fun _ => of_event rfl rfl
theorem storeAcknowledgement : ∀ a0, Statement (.storeAcknowledgement a0) := fun _ => of_event rfl rfl
theorem pageWalk : ∀ a0 a1 a2, Statement (.pageWalk a0 a1 a2) := fun _ _ _ => of_event rfl rfl
theorem tlbinvAck : ∀ a0, Statement (.tlbinvAck a0) := fun _ => of_event rfl rfl
theorem gets : ∀ a0 a1, Statement (.gets a0 a1) := fun _ _ => of_event rfl rfl
theorem getm : ∀ a0 a1, Statement (.getm a0 a1) := fun _ _ => of_event rfl rfl
theorem upg : ∀ a0 a1, Statement (.upg a0 a1) := fun _ _ => of_event rfl rfl
theorem puts : ∀ a0 a1, Statement (.puts a0 a1) := fun _ _ => of_event rfl rfl
theorem pute : ∀ a0 a1, Statement (.pute a0 a1) := fun _ _ => of_event rfl rfl
theorem putm : ∀ a0 a1, Statement (.putm a0 a1) := fun _ _ => of_event rfl rfl
theorem invack : ∀ a0 a1, Statement (.invack a0 a1) := fun _ _ => of_event rfl rfl
theorem datawb : ∀ a0 a1, Statement (.datawb a0 a1) := fun _ _ => of_event rfl rfl
theorem inv : ∀ a0 a1, Statement (.inv a0 a1) := fun _ _ => of_event rfl rfl
theorem fwds : ∀ a0 a1, Statement (.fwds a0 a1) := fun _ _ => of_event rfl rfl
theorem fwdm : ∀ a0 a1, Statement (.fwdm a0 a1) := fun _ _ => of_event rfl rfl
theorem dataReply : ∀ a0 a1, Statement (.dataReply a0 a1) := fun _ _ => of_event rfl rfl
theorem ackupg : ∀ a0 a1, Statement (.ackupg a0 a1) := fun _ _ => of_event rfl rfl
theorem overflowAdd : ∀ a0 a1 a2, Statement (.overflowAdd a0 a1 a2) := fun _ _ _ => of_event rfl rfl
theorem overflowInval : ∀ a0 a1 a2, Statement (.overflowInval a0 a1 a2) := fun _ _ _ => of_event rfl rfl
theorem rds : ∀ a0 a1, Statement (.rds a0 a1) := fun _ _ => of_event rfl rfl
theorem rdm : ∀ a0 a1, Statement (.rdm a0 a1) := fun _ _ => of_event rfl rfl
theorem regionWb : ∀ a0 a1, Statement (.regionWb a0 a1) := fun _ _ => of_event rfl rfl
theorem evr : ∀ a0 a1, Statement (.evr a0 a1) := fun _ _ => of_event rfl rfl
theorem rinv : ∀ a0 a1, Statement (.rinv a0 a1) := fun _ _ => of_event rfl rfl
theorem rdown : ∀ a0 a1, Statement (.rdown a0 a1) := fun _ _ => of_event rfl rfl
theorem hostCxlMemRead : ∀ a0 a1, Statement (.hostCxlMemRead a0 a1) := fun _ _ => of_event rfl rfl
theorem hostCxlMemWrite : ∀ a0 a1, Statement (.hostCxlMemWrite a0 a1) := fun _ _ => of_event rfl rfl
theorem regionAcknowledgement : ∀ a0, Statement (.regionAcknowledgement a0) := fun _ => of_event rfl rfl
theorem regionData : ∀ a0 a1, Statement (.regionData a0 a1) := fun _ _ => of_event rfl rfl
theorem missMergeExpiry : ∀ a0 a1, Statement (.missMergeExpiry a0 a1) := fun _ _ => of_event rfl rfl
theorem atomicAtUnit : ∀ a0, Statement (.atomicAtUnit a0) := fun _ => of_event rfl rfl
theorem fairnessTimerExpiry : ∀ a0, Statement (.fairnessTimerExpiry a0) := fun _ => of_event rfl rfl
theorem teamPlacement : ∀ a0, Statement (.teamPlacement a0) := fun _ => of_event rfl rfl
theorem coresidentPlacementTimeout : ∀ a0, Statement (.coresidentPlacementTimeout a0) := fun _ => of_event rfl rfl
theorem thermalExclusion : ∀ a0 a1 a2, Statement (.thermalExclusion a0 a1 a2) := fun _ _ _ => of_event rfl rfl
theorem droopEvent : ∀ a0 a1, Statement (.droopEvent a0 a1) := fun _ _ => of_event rfl rfl
theorem thermalReinstatement : ∀ a0 a1 a2, Statement (.thermalReinstatement a0 a1 a2) := fun _ _ _ => of_event rfl rfl
theorem thermalThrottle : Statement .thermalThrottle := of_event rfl rfl
theorem thermalThrottleEnd : Statement .thermalThrottleEnd := of_event rfl rfl
theorem engineOperationEnd : ∀ a0 a1 a2, Statement (.engineOperationEnd a0 a1 a2) := fun _ _ _ => of_event rfl rfl
theorem mrotArrival : ∀ a0 a1, Statement (.mrotArrival a0 a1) := fun _ _ => of_event rfl rfl
theorem mjoinRelease : ∀ a0 a1, Statement (.mjoinRelease a0 a1) := fun _ _ => of_event rfl rfl
theorem partitionPreempt : ∀ a0 a1 a2, Statement (.partitionPreempt a0 a1 a2) := fun _ _ _ => of_event rfl rfl
theorem timeSliceExpiry : ∀ a0, Statement (.timeSliceExpiry a0) := fun _ => of_event rfl rfl
theorem contextRestore : ∀ a0, Statement (.contextRestore a0) := fun _ => of_event rfl rfl
theorem kill : ∀ a0, Statement (.kill a0) := fun _ => of_event rfl rfl
theorem tenantSwitch : ∀ a0 a1 a2, Statement (.tenantSwitch a0 a1 a2) := fun _ _ _ => of_event rfl rfl
theorem expectedSeqRelease : ∀ a0, Statement (.expectedSeqRelease a0) := fun _ => of_event rfl rfl
theorem tileRetire : ∀ a0 a1, Statement (.tileRetire a0 a1) := fun _ _ => of_event rfl rfl
theorem qwrDoorbell : ∀ a0 a1, Statement (.qwrDoorbell a0 a1) := fun _ _ => of_event rfl rfl
theorem queueRegisterWrite : ∀ a0 a1 a2, Statement (.queueRegisterWrite a0 a1 a2) := fun _ _ _ => of_event rfl rfl
theorem qctlResume : ∀ a0, Statement (.qctlResume a0) := fun _ => of_event rfl rfl
theorem qctlKill : ∀ a0, Statement (.qctlKill a0) := fun _ => of_event rfl rfl
theorem qctlBadwrClear : ∀ a0, Statement (.qctlBadwrClear a0) := fun _ => of_event rfl rfl
theorem privokSet : ∀ a0 a1, Statement (.privokSet a0 a1) := fun _ _ => of_event rfl rfl
theorem packetStart : ∀ a0, Statement (.packetStart a0) := fun _ => of_event rfl rfl
theorem signalWaitPacket : ∀ a0, Statement (.signalWaitPacket a0) := fun _ => of_event rfl rfl
theorem launchPacket : ∀ a0, Statement (.launchPacket a0) := fun _ => of_event rfl rfl
theorem folioLaunchPacket : ∀ a0, Statement (.folioLaunchPacket a0) := fun _ => of_event rfl rfl
theorem copyPacket : ∀ a0, Statement (.copyPacket a0) := fun _ => of_event rfl rfl
theorem graphInstallPacket : ∀ a0, Statement (.graphInstallPacket a0) := fun _ => of_event rfl rfl
theorem signalAbort : ∀ a0, Statement (.signalAbort a0) := fun _ => of_event rfl rfl
theorem packetCompletion : ∀ a0, Statement (.packetCompletion a0) := fun _ => of_event rfl rfl
theorem debugPortRead : ∀ a0 a1 a2 a3 a4 a5, Statement (.debugPortRead a0 a1 a2 a3 a4 a5) := fun _ _ _ _ _ _ => of_event rfl rfl
theorem debugPortWrite : ∀ a0 a1 a2 a3 a4 a5 a6, Statement (.debugPortWrite a0 a1 a2 a3 a4 a5 a6) := fun _ _ _ _ _ _ _ => of_event rfl rfl
theorem debugEnable : ∀ a0 a1, Statement (.debugEnable a0 a1) := fun _ _ => of_event rfl rfl
theorem linkFlitReceive : ∀ a0 a1 a2 a3 a4 a5, Statement (.linkFlitReceive a0 a1 a2 a3 a4 a5) := fun _ _ _ _ _ _ => of_event rfl rfl
theorem linkFailure : ∀ a0, Statement (.linkFailure a0) := fun _ => of_event rfl rfl
theorem partFault : ∀ a0, Statement (.partFault a0) := fun _ => of_event rfl rfl
theorem deviceFault : ∀ a0, Statement (.deviceFault a0) := fun _ => of_event rfl rfl
theorem jobCountRestore : ∀ a0 a1, Statement (.jobCountRestore a0 a1) := fun _ _ => of_event rfl rfl
theorem exportTracking : ∀ a0 a1 a2, Statement (.exportTracking a0 a1 a2) := fun _ _ _ => of_event rfl rfl
theorem exportTrackingDisable : ∀ a0, Statement (.exportTrackingDisable a0) := fun _ => of_event rfl rfl
theorem finalExport : ∀ a0 a1 a2, Statement (.finalExport a0 a1 a2) := fun _ _ _ => of_event rfl rfl
theorem importState : ∀ a0 a1 a2, Statement (.importState a0 a1 a2) := fun _ _ _ => of_event rfl rfl
theorem snapshotRequest : ∀ a0 a1 a2, Statement (.snapshotRequest a0 a1 a2) := fun _ _ _ => of_event rfl rfl
theorem uncorrectableError : ∀ a0 a1 a2, Statement (.uncorrectableError a0 a1 a2) := fun _ _ _ => of_event rfl rfl
theorem resetBoot : ∀ a0, Statement (.resetBoot a0) := fun _ => of_event rfl rfl
theorem getVersion : Statement .getVersion := of_event rfl rfl
theorem getCapabilities : Statement .getCapabilities := of_event rfl rfl
theorem negotiateAlgorithms : Statement .negotiateAlgorithms := of_event rfl rfl
theorem getDigests : Statement .getDigests := of_event rfl rfl
theorem getCertificate : ∀ a0, Statement (.getCertificate a0) := fun _ => of_event rfl rfl
theorem challenge : ∀ a0, Statement (.challenge a0) := fun _ => of_event rfl rfl
theorem getMeasurements : ∀ a0, Statement (.getMeasurements a0) := fun _ => of_event rfl rfl
theorem firmwareUpdate : ∀ a0 a1 a2 a3, Statement (.firmwareUpdate a0 a1 a2 a3) := fun _ _ _ _ => of_event rfl rfl
theorem recoveryImageLoad : ∀ a0 a1 a2, Statement (.recoveryImageLoad a0 a1 a2) := fun _ _ _ => of_event rfl rfl
theorem powerOn : Statement .powerOn := of_event rfl rfl
theorem partitionCreate : ∀ a0, Statement (.partitionCreate a0) := fun _ => of_event rfl rfl
theorem vfAssign : ∀ a0 a1, Statement (.vfAssign a0 a1) := fun _ _ => of_event rfl rfl

end Sys2Proof.Laws.F
end

