-- ==== Sys2Proof/Laws/Privileged.lean ====
section
/-! SUPPORT. What the shared operation behind privileged instructions does, said once (R223, R312). -/

namespace Sys2Proof.Machine

/-- A privileged instruction that may run does its own work. -/
theorem privT_ready {h : Hd} {xd : Reg} {srcs : List Reg} {chk : List Word → Option TrapInfo} {run : Thread → List Word → State → Res}
    {s : State} {t t1 : Thread} {vs : List Word} (hr : PrivReady s t h xd srcs vs t1) (hc : chk vs = none) :
    privT h xd srcs chk s run = run t vs (keepQueue t.id t1 s) := by
  obtain ⟨⟨hcur, ht, hg⟩, hp, ⟨hrd, hre⟩, hb, hpb⟩ := hr
  have hre' : s.regErr t.id (srcs.map fun r => t.dst r.toNat) = none := by simpa [nums, Function.comp_def] using hre
  simp only [nums, List.map_cons, List.map_nil] at *
  simp only [privT, withCur, hcur, ht, hg, hp, hrd, hre', hc, hb, hpb]
  rfl

/-- One that may not run traps. -/
theorem privTraps_of_privT {i : Instr} {h : Hd} {xd : Reg} {srcs : List Reg} {chk : List Word → Option TrapInfo}
    {run : Thread → List Word → State → Res} (he : ∀ s, exec i s = privT h xd srcs chk s run) : PrivTraps i h xd srcs := by
  refine ⟨?_, ?_⟩
  · rintro s t ⟨hc, ht, hg⟩ hp
    rw [he]; simp [privT, withCur, hc, ht, hg, hp, trapT, trapped]
  · rintro s g l ls ⟨hc, hn, hg⟩ hgal hx ha
    rw [he]
    simp only [nums, List.map_cons] at hx
    simp [privT, withCur, hc, hn, hg, notForGang, hx, ha, gangFaults, hgal]

end Sys2Proof.Machine
end

