-- ==== Sys2Proof/Laws/VectorInstr.lean ====
section
/-! SUPPORT. What the shared operation behind vector instructions does, said once. -/

namespace Sys2Proof.Machine

theorem filterMap_none {α β : Type} (l : List α) : (l.filterMap fun _ => (none : Option β)) = [] := by
  induction l <;> simp_all

theorem vecEffect_of_vecRun {i : Instr} {h : Hd} (v : VecSpec) {ok : Gang → Bool} {reads : Gang → Nat → List (Nat × Nat)}
    {writes : Gang → List Nat → List (Nat × Nat)} {run : Gang → List Nat → Gang} (he : ∀ s, exec i s = vecRun h v s)
    (h1 : v.ok = ok) (h2 : v.reads = reads) (h3 : v.writes = writes) (h4 : v.run = run) :
    VecEffect i h ok reads writes run := by
  subst h1 h2 h3 h4
  refine ⟨?_, ?_⟩
  · rintro s g ⟨⟨hc, hn, hg⟩, hok, ha, hf, hb, her⟩
    have h1 : ((g.active h).all fun l => (v.reads g l).all fun x => g.fullV x.1 x.2) = true := by
      simp only [List.all_eq_true]; exact fun l hl x hx => hf l hl x hx
    rw [he]
    simp only [vecRun, withCur, hc, hn, hg, hok, active_isEmpty ha, h1, hb, laneErrs, regErr_nil her, Option.map_none,
      filterMap_none, her, List.isEmpty_nil, gangFaults]
    have h2 : ((g.active h).filter fun _ => true) = g.active h := by simp
    simp [h2, active_isEmpty ha]
  · rintro s t hc ht
    rw [he]; simp [vecRun, withCur, hc, ht, trapT, trapped]

end Sys2Proof.Machine
end

