-- ==== Sys2Proof/Laws/Window.lean ====
section
/-! SUPPORT. The registers of a thread after a move between windows (R160) and after a write. -/

namespace Sys2Proof.Machine

@[simp] theorem mkX_get (f : Nat → XReg) (i : Nat) : (mkX f)[i]? = if i < 32 then some (f i) else none := by
  simp only [mkX, Vector.getElem?_mk, List.getElem?_toArray, List.getElem?_map]
  by_cases h : i < 32 <;> simp [h]

@[simp] theorem mk16_get (f : Nat → XReg) (i : Nat) : (mk16 f)[i]? = if i < 16 then some (f i) else none := by
  simp only [mk16, Vector.getElem?_mk, List.getElem?_toArray, List.getElem?_map]
  by_cases h : i < 16 <;> simp [h]

@[simp] theorem mkX_at (f : Nat → XReg) (i : Nat) (h : i < 32) : (mkX f)[i] = f i := by
  have := mkX_get f i
  simp only [h, Vector.getElem?_eq_getElem, ↓reduceIte, Option.some.injEq] at this
  exact this

@[simp] theorem mk16_at (f : Nat → XReg) (i : Nat) (h : i < 16) : (mk16 f)[i] = f i := by
  have := mk16_get f i
  simp only [h, Vector.getElem?_eq_getElem, ↓reduceIte, Option.some.injEq] at this
  exact this

/-- A register of the current window after x has been written. -/
theorem Thread.getX_setX (t : Thread) (r i : Nat) (x : XReg) (hr : r < 32) :
    (t.setX r x).getX i = if i = r ∧ r ≠ 0 then x else t.getX i := by
  by_cases h0 : r = 0
  · simp [Thread.setX, h0]
  · by_cases hi : i = r
    · subst hi; simp [Thread.setX, Thread.getX, h0, hr]
    · have : ¬ r = i := fun h => hi h.symm
      simp [Thread.setX, Thread.getX, h0, hi, this]

theorem Thread.pushWindow_low (t : Thread) (n i : Nat) (h : i < 8) : (t.pushWindow n).getX i = t.getX i := by
  have : i < 32 := by omega
  simp [Thread.pushWindow, Thread.getX, h, this]

theorem Thread.pushWindow_args (t : Thread) (n i : Nat) (h : 8 ≤ i) (h' : i < 16) :
    (t.pushWindow n).getX i = t.getX (i + 16) := by
  have : i < 32 := by omega
  have h8 : ¬ i < 8 := by omega
  simp [Thread.pushWindow, Thread.getX, h8, h', this]

theorem Thread.pushWindow_full (t : Thread) (n i : Nat) (h : 16 ≤ i) (h' : i < 32) : ((t.pushWindow n).getX i).full = true := by
  have h8 : ¬ i < 8 := by omega
  have h16 : ¬ i < 16 := by omega
  simp [Thread.pushWindow, Thread.getX, h8, h16, h']

theorem Thread.popWindow_low {t : Thread} {w : Vector XReg 16} {ws : List (Vector XReg 16)} (h : t.outer = w :: ws) (i : Nat)
    (hi : i < 8) : t.popWindow.getX i = t.getX i := by
  have : i < 32 := by omega
  simp [Thread.popWindow, h, Thread.getX, hi, this]

theorem Thread.popWindow_local {t : Thread} {w : Vector XReg 16} {ws : List (Vector XReg 16)} (h : t.outer = w :: ws) (i : Nat)
    (hi : 8 ≤ i) (hi' : i < 24) : t.popWindow.getX i = below w i := by
  have : i < 32 := by omega
  have h8 : ¬ i < 8 := by omega
  simp [Thread.popWindow, h, Thread.getX, h8, hi', this]

theorem Thread.popWindow_args {t : Thread} {w : Vector XReg 16} {ws : List (Vector XReg 16)} (h : t.outer = w :: ws) (i : Nat)
    (hi : 24 ≤ i) (hi' : i < 32) : t.popWindow.getX i = t.getX (i - 16) := by
  have h8 : ¬ i < 8 := by omega
  have h24 : ¬ i < 24 := by omega
  simp [Thread.popWindow, h, Thread.getX, h8, h24, hi']

end Sys2Proof.Machine
end

