-- ==== Sys2Proof/Tests/Slice0.lean ====
section
/-! SUPPORT. Tests: words written out from the encodings of spec/ and what they decode to, ill-formed terms that WellFormed
refuses, the worked examples of spec/, and for every statement states and operands that meet its hypotheses. -/

namespace Sys2Proof.Tests

open Sys2Proof Sys2Proof.Machine

/-- A head without a guard, one guarded by !p3, and one that selects flag B. -/
abbrev hd : Hd := ⟨0, false, false⟩
abbrev hp : Hd := ⟨3, true, false⟩
abbrev hf : Hd := ⟨0, false, true⟩

/-! ## A small device: one partition, one launch with one team on tile 0, a thread and a gang -/

abbrev ct : CtxId := ⟨0, 0, false, 0, 0⟩
abbrev cg : CtxId := ⟨0, 0, true, 0, 0⟩
abbrev tid : TeamId := ⟨0, 0⟩
abbrev qid : QueueId := ⟨0, 0, 0⟩

/-- A header of a gang kernel of width 64 with 96 v registers, 16 s registers and two tiles. -/
def hdr : KHdr := ⟨1, 3, 96, 16, 2, 65536, 0, 0, 0, 8, 0, 0, 0, 0, 0⟩

def cfg : PartConfig := ⟨0, [(0, 0)], [(0, 2 ^ 29)], [(0, 4096)], [], 0, 7, 0⟩

/-- A privileged thread with windows to depth 8. -/
def th : Thread := freshThread ct 0 tid 8 0x1000 0 true

/-- The same with a value in x10. -/
def thx (v : Word) : Thread := th.setX 10 ⟨v, true⟩

/-- A gang with lanes 0 and 1. -/
def gg : Gang := freshGang cg 0 (some tid) 0 hdr 0x1000 0 3

def team : Team := ⟨tid, 0, 0, 0, .running, 0, 65536, 65536, 4096, 0, Vector.replicate 16 Channel.idle, [], 0⟩

def launch : Launch := ⟨0, 0, qid, 0, 0, hdr, 0x1000, 0, 1, 1, 1, 0, 0, some 0, 0, true, none, .started, 1, 0, none, [], none, []⟩

/-- A translation of the first 64 KiB of the global window to the first 64 KiB of memory. -/
def tlb : TlbEntry := ⟨0, 0, 0, 0, false, 0, true, true, true, false, true, true⟩

/-- The device with a thread current. -/
def st (t : Thread) : State :=
  { State.reset with cur := some t.id, threads := [t], parts := [freshPartition cfg], teams := [team], launches := [launch],
                     tlb := [tlb], utlb := [⟨0, 0, tlb⟩] }

/-- The device with a gang current. -/
def sg (g : Gang) : State := { st th with cur := some g.id, threads := [], gangs := [g] }

/-- The same with the first line of memory in the wide core's L1. -/
def wline : WLine := ⟨0, 0, 0, 0, 0, BitVec.allOnes 256, [], [], []⟩
def sgw (g : Gang) : State := { sg g with wl1 := [wline] }

/-- What an instruction with these sources and destinations needs in a thread, in the lanes of a gang and once for a gang. -/
def RegWitness (h : Hd) (srcs dsts : List Nat) : Prop :=
  (∃ s t t1 vs, RunsT s t h ∧ ReadsT s t srcs vs t1 ∧ FreeT s t dsts ∧ t.flags[0]?.getD 0 = 0) ∧
  (∃ s g rows, RunsG s g ∧ ReadsG s g h srcs dsts rows ∧ FreeG s g h dsts ∧ g.flags[0]?.getD 0 = 0) ∧
  ∃ s g, RunsG s g ∧ ReadsS s g srcs dsts

/-! ## Words written out from the encoding tables of the spec -/

theorem test_decode_control :
    decodeTableWord 16 0x40 = some (.nop hd) ∧
    decodeTableWord 48 0xFFFFFF47808E = some (.br hp ⟨-3, 7⟩) ∧
    decodeTableWord 64 0x280000000242C0C0 = some (.jal hd 5 ⟨9, 2⟩) ∧
    decodeTableWord 48 0x31C0FFFE8100 = some (.jalr hd 6 7 (-2)) ∧
    decodeTableWord 48 0x5D8140 = some (.call hd ⟨1, 29⟩) ∧
    decodeTableWord 32 0x2404180 = some (.callr hd 9) ∧
    decodeTableWord 16 0x1CE = some (.ret hp) ∧
    decodeTableWord 64 0x4800FFFFFFC4C200 = some (.loop hd 9 ⟨-1, 4⟩) ∧
    decodeTableWord 48 0xBEEF8240 = some (.trap hd 0xBEEF) ∧
    decodeTableWord 48 0x118280 = some (.sysc hd 17) ∧
    decodeTableWord 48 0xFFFF8300 = some (.brk hd 0xFFFF) ∧
    decodeTableWord 16 0x2C0 = some (.eret hd) ∧
    decodeTableWord 16 0x34E = some (.yield hp) ∧
    decodeTableWord 48 0x6483C0 = some (.sleep hd 100) ∧
    decodeTableWord 32 0x2804380 = some (.exit hd 10) := by
  decide

theorem test_decode_integer :
    decodeTableWord 32 0x647B4400 = some (.add hd ⟨12, 17, 29, true⟩) ∧
    decodeTableWord 32 0x647B4440 = some (.sub hd ⟨12, 17, 29, true⟩) ∧
    decodeTableWord 32 0x647B4540 = some (.mul hd ⟨12, 17, 29, true⟩) ∧
    decodeTableWord 32 0x647B4640 = some (.and hd ⟨12, 17, 29, true⟩) ∧
    decodeTableWord 32 0x647B4680 = some (.or hd ⟨12, 17, 29, true⟩) ∧
    decodeTableWord 32 0x647B46C0 = some (.xor hd ⟨12, 17, 29, true⟩) ∧
    decodeTableWord 32 0x647B4700 = some (.andn hd ⟨12, 17, 29, true⟩) ∧
    decodeTableWord 32 0x647B4740 = some (.orn hd ⟨12, 17, 29, true⟩) ∧
    decodeTableWord 32 0x647B4780 = some (.xnor hd ⟨12, 17, 29, true⟩) ∧
    decodeTableWord 32 0xF3404A4E = some (.clz hp ⟨30, 13, false⟩) ∧
    decodeTableWord 32 0xF3404A8E = some (.ctz hp ⟨30, 13, false⟩) ∧
    decodeTableWord 32 0xF3404ACE = some (.popc hp ⟨30, 13, false⟩) ∧
    decodeTableWord 32 0xF3404B0E = some (.brev hp ⟨30, 13, false⟩) ∧
    decodeTableWord 32 0xF3404B4E = some (.bswap hp ⟨30, 13, false⟩) ∧
    decodeTableWord 32 0xF340528E = some (.mov hp ⟨30, 13, false⟩) ∧
    decodeTableWord 48 0x916080018480 = some (.addi hd ⟨18, 5, 0x8001, true⟩) ∧
    decodeTableWord 48 0x9160800187C0 = some (.andi hd ⟨18, 5, 0x8001, true⟩) ∧
    decodeTableWord 48 0x916080018800 = some (.ori hd ⟨18, 5, 0x8001, true⟩) ∧
    decodeTableWord 48 0x916080018840 = some (.xori hd ⟨18, 5, 0x8001, true⟩) ∧
    decodeTableWord 64 0x3800FFFFFFFEC4C0 = some (.li hd 7 0xFFFFFFFE false) ∧
    decodeTableWord 64 0x382112345678C4C0 = some (.liZ hd 7 0x12345678 true) ∧
    decodeTableWord 64 0x3A029ABCDEF0C4C0 = some (.liHi hd 7 8 0x9ABCDEF0 false) ∧
    decodeTableWord 64 0x5800FFFFFEC3C500 = some (.addpc hd 11 ⟨-5, 3⟩ false) := by
  decide

theorem test_decode_integer2 :
    decodeTableWord 48 0x88000038580 = some (.mulh hd .ss ⟨1, 2, 3, false⟩) ∧
    decodeTableWord 48 0x88100038580 = some (.mulh hd .uu ⟨1, 2, 3, false⟩) ∧
    decodeTableWord 48 0x88200038580 = some (.mulh hd .su ⟨1, 2, 3, false⟩) ∧
    decodeTableWord 48 0x2141000685C1 = some (.div hf true ⟨4, 5, 6, false⟩) ∧
    decodeTableWord 48 0x216000068600 = some (.rem hd false ⟨4, 5, 6, true⟩) ∧
    decodeTableWord 48 0x4240003F8880 = some (.shl hd ⟨8, 9, false⟩ (.imm 63)) ∧
    decodeTableWord 48 0x4261001F8880 = some (.shl hd ⟨8, 9, true⟩ (.reg 31)) ∧
    decodeTableWord 48 0x4240003F88C0 = some (.shr hd ⟨8, 9, false⟩ (.imm 63)) ∧
    decodeTableWord 48 0x4261001F88C0 = some (.shr hd ⟨8, 9, true⟩ (.reg 31)) ∧
    decodeTableWord 48 0x4240003F8900 = some (.sar hd ⟨8, 9, false⟩ (.imm 63)) ∧
    decodeTableWord 48 0x4261001F8900 = some (.sar hd ⟨8, 9, true⟩ (.reg 31)) ∧
    decodeTableWord 48 0x4240003F8940 = some (.rotr hd ⟨8, 9, false⟩ (.imm 63)) ∧
    decodeTableWord 48 0x4261001F8940 = some (.rotr hd ⟨8, 9, true⟩ (.reg 31)) ∧
    decodeTableWord 48 0x88007838980 = some (.shfi hd ⟨1, 2, 3, false⟩ 60) ∧
    decodeTableWord 48 0x8800A058B80 = some (.bfe hd false ⟨1, 2, false⟩ 5 40) ∧
    decodeTableWord 48 0x8810A058B80 = some (.bfe hd true ⟨1, 2, false⟩ 5 40) ∧
    decodeTableWord 48 0x880007F8BC0 = some (.bfi hd ⟨1, 2, false⟩ 63 1) ∧
    decodeTableWord 48 0x880000389C0 = some (.min hd false ⟨1, 2, 3, false⟩) ∧
    decodeTableWord 48 0x8A100038A00 = some (.max hd true ⟨1, 2, 3, true⟩) ∧
    decodeTableWord 48 0x88001238C00 = some (.sel hd 1 2 3 9) ∧
    decodeTableWord 48 0x880001F8C40 = some (.sext hd ⟨1, 2, false⟩ 31) ∧
    decodeTableWord 48 0x8A000078C80 = some (.zext hd ⟨1, 2, true⟩ 7) := by
  decide

theorem test_decode_predicates :
    decodeTableWord 48 0x798000158CC0 = some (.cmp hd .eq .set 15 6 21 false) ∧
    decodeTableWord 48 0x798900158CC0 = some (.cmp hd .ne .and 15 6 21 false) ∧
    decodeTableWord 48 0x799200158CC0 = some (.cmp hd .ltI .or 15 6 21 false) ∧
    decodeTableWord 48 0x798300158CC0 = some (.cmp hd .geI .set 15 6 21 false) ∧
    decodeTableWord 48 0x798C00158CC0 = some (.cmp hd .ltN .and 15 6 21 false) ∧
    decodeTableWord 48 0x799500158CC0 = some (.cmp hd .geN .or 15 6 21 false) ∧
    decodeTableWord 64 0x196CFFFFFFF0CD00 = some (.cmpi hd .ltN .and 3 5 0xFFFFFFF0 true) ∧
    decodeTableWord 48 0x208000139000 = some (.pand hd 4 2 3 true false) ∧
    decodeTableWord 48 0x208000239040 = some (.por hd 4 2 3 false true) ∧
    decodeTableWord 48 0x208000339080 = some (.pxor hd 4 2 3 true true) ∧
    decodeTableWord 48 0x3000000190C0 = some (.pset hd 6 true) ∧
    decodeTableWord 48 0x3241000090C0 = some (.psetNz hd 6 9) ∧
    decodeTableWord 48 0x242000090C0 = some (.psetAll hd 9) ∧
    decodeTableWord 32 0x70005100 = some (.pget hd 14) ∧
    decodeTableWord 32 0xA0005200 = some (.feClr hd 20) ∧
    decodeTableWord 32 0x3D005240 = some (.feTst hd 7 20) := by
  decide

theorem test_decode_floating :
    decodeTableWord 48 0x88300038D80 = some (.fadd hd true .rz ⟨1, 2, 3, false⟩) ∧
    decodeTableWord 48 0x88700038DC0 = some (.fsub hd true .rd ⟨1, 2, 3, false⟩) ∧
    decodeTableWord 48 0x88900038E00 = some (.fmul hd true .rs ⟨1, 2, 3, false⟩) ∧
    decodeTableWord 64 0x89400000083CE40 = some (.ffma hd true false .ru ⟨1, 2, 3, false⟩ 4) ∧
    decodeTableWord 48 0x88100038E80 = some (.fmin hd true ⟨1, 2, 3, false⟩) ∧
    decodeTableWord 48 0x8A000038EC0 = some (.fmax hd false ⟨1, 2, 3, true⟩) ∧
    decodeTableWord 48 0x488000038F00 = some (.fcmp hd false .eq 9 2 3 false) ∧
    decodeTableWord 48 0x488300038F00 = some (.fcmp hd true .ne 9 2 3 false) ∧
    decodeTableWord 48 0x488400038F00 = some (.fcmp hd false .lt 9 2 3 false) ∧
    decodeTableWord 48 0x488700038F00 = some (.fcmp hd true .le 9 2 3 false) ∧
    decodeTableWord 48 0x488800038F00 = some (.fcmp hd false .gt 9 2 3 false) ∧
    decodeTableWord 48 0x488B00038F00 = some (.fcmp hd true .ge 9 2 3 false) ∧
    decodeTableWord 48 0x488C00038F00 = some (.fcmp hd false .un 9 2 3 false) ∧
    decodeTableWord 48 0x488F00038F00 = some (.fcmp hd true .ord 9 2 3 false) ∧
    decodeTableWord 48 0x88900028F40 = some (.fcvt hd .i32 .f32 .rz true ⟨1, 2, false⟩) ∧
    decodeTableWord 48 0x88400AE8F40 = some (.fcvt hd .e4m3 .i64 .rs false ⟨1, 2, false⟩) ∧
    decodeTableWord 48 0x88600008F80 = some (.frcp hd false .rd ⟨1, 2, false⟩) ∧
    decodeTableWord 48 0x88500008FC0 = some (.frsq hd true .ru ⟨1, 2, false⟩) ∧
    decodeTableWord 48 0x881000392C0 = some (.fsgn hd true .cp ⟨1, 2, 3, false⟩) ∧
    decodeTableWord 48 0x883000392C0 = some (.fsgn hd true .ncp ⟨1, 2, 3, false⟩) ∧
    decodeTableWord 48 0x885000392C0 = some (.fsgn hd true .xor ⟨1, 2, 3, false⟩) ∧
    decodeTableWord 48 0x88100009300 = some (.fclass hd true ⟨1, 2, false⟩) := by
  decide

theorem test_decode_control_registers :
    decodeTableWord 48 0x280208009140 = some (.csrr hd 5 0x082) ∧
    decodeTableWord 48 0x18100009180 = some (.csrw hd 0x040 6) ∧
    decodeTableWord 48 0x2980440091C0 = some (.csrxSwap hd 5 0x011 6) ∧
    decodeTableWord 48 0x2980440191C0 = some (.csrxSet hd 5 0x011 6) ∧
    decodeTableWord 48 0x2980440291C0 = some (.csrxClr hd 5 0x011 6) := by
  decide

theorem test_decode_memory :
    decodeTableWord 48 0x4900FFF89400 = some (.ld hd .n8 ⟨9, 4, -8, false⟩) ∧
    decodeTableWord 48 0x4901FFF89400 = some (.ld hd .n16 ⟨9, 4, -8, false⟩) ∧
    decodeTableWord 48 0x4902FFF89400 = some (.ld hd .n32 ⟨9, 4, -8, false⟩) ∧
    decodeTableWord 48 0x4903FFF89400 = some (.ld hd .n64 ⟨9, 4, -8, false⟩) ∧
    decodeTableWord 48 0x4904FFF89400 = some (.ld hd .i8 ⟨9, 4, -8, false⟩) ∧
    decodeTableWord 48 0x4905FFF89400 = some (.ld hd .i16 ⟨9, 4, -8, false⟩) ∧
    decodeTableWord 48 0x4906FFF89400 = some (.ld hd .i32 ⟨9, 4, -8, false⟩) ∧
    decodeTableWord 48 0x490500CA9440 = some (.ldx hd .i16 ⟨9, 4, 10, 6, false⟩) ∧
    decodeTableWord 48 0x492301009481 = some (.st hf .n64 ⟨9, 4, 0x100, true⟩) ∧
    decodeTableWord 48 0x490000EA94C0 = some (.stx hd .n8 ⟨9, 4, 10, 7, false⟩) ∧
    decodeTableWord 48 0x490200019680 = some (.ldAcq hd .n32 .tm ⟨9, 4, 1, false⟩) ∧
    decodeTableWord 48 0x490A00019680 = some (.ldAcq hd .n32 .cl ⟨9, 4, 1, false⟩) ∧
    decodeTableWord 48 0x491200019680 = some (.ldAcq hd .n32 .dv ⟨9, 4, 1, false⟩) ∧
    decodeTableWord 48 0x491A00019680 = some (.ldAcq hd .n32 .sy ⟨9, 4, 1, false⟩) ∧
    decodeTableWord 48 0x4911000196C0 = some (.stRel hd .n16 .dv ⟨9, 4, 1, false⟩) ∧
    decodeTableWord 48 0x490000109500 = some (.ldp hd ⟨9, 4, 16, false⟩) ∧
    decodeTableWord 48 0x492000109540 = some (.stp hd ⟨9, 4, 16, true⟩) ∧
    decodeTableWord 48 0x10000209580 = some (.prefL1 hd ⟨4, 32, false⟩) ∧
    decodeTableWord 48 0x10100209580 = some (.prefCc hd ⟨4, 32, false⟩) ∧
    decodeTableWord 48 0x100002095C0 = some (.ccWbL1 hd ⟨4, 32, false⟩) ∧
    decodeTableWord 48 0x101002095C0 = some (.ccWbCc hd ⟨4, 32, false⟩) ∧
    decodeTableWord 48 0x10000209600 = some (.ccInvL1 hd ⟨4, 32, false⟩) ∧
    decodeTableWord 48 0x10100209600 = some (.ccInvCc hd ⟨4, 32, false⟩) ∧
    decodeTableWord 48 0x480000039640 = some (.ccPin hd 9 3) := by
  decide

theorem test_decode_atomics :
    decodeTableWord 64 0x4A80FFF8000BD800 = some (.amo hd .add .th .none false ⟨9, 10, 11, false⟩ 0xFFF8) ∧
    decodeTableWord 64 0x4A80FFF82C2BD800 = some (.amo hd .and .tm .acq true ⟨9, 10, 11, false⟩ 0xFFF8) ∧
    decodeTableWord 64 0x4A80FFF8504BD800 = some (.amo hd .or .cl .rel false ⟨9, 10, 11, false⟩ 0xFFF8) ∧
    decodeTableWord 64 0x4A80FFF87C6BD800 = some (.amo hd .xor .dv .ar true ⟨9, 10, 11, false⟩ 0xFFF8) ∧
    decodeTableWord 64 0x4A80FFF8808BD800 = some (.amo hd .swap .sy .none false ⟨9, 10, 11, false⟩ 0xFFF8) ∧
    decodeTableWord 64 0x4A80FFF80CABD800 = some (.amo hd .minI .th .acq true ⟨9, 10, 11, false⟩ 0xFFF8) ∧
    decodeTableWord 64 0x4A80FFF830CBD800 = some (.amo hd .maxI .tm .rel false ⟨9, 10, 11, false⟩ 0xFFF8) ∧
    decodeTableWord 64 0x4A80FFF85CEBD800 = some (.amo hd .minN .cl .ar true ⟨9, 10, 11, false⟩ 0xFFF8) ∧
    decodeTableWord 64 0x4A80FFF8610BD800 = some (.amo hd .maxN .dv .none false ⟨9, 10, 11, false⟩ 0xFFF8) ∧
    decodeTableWord 64 0x4A80FFF88D2BD800 = some (.amo hd .fadd .sy .acq true ⟨9, 10, 11, false⟩ 0xFFF8) ∧
    decodeTableWord 64 0x4A80FFF8114BD800 = some (.amo hd .fmin .th .rel false ⟨9, 10, 11, false⟩ 0xFFF8) ∧
    decodeTableWord 64 0x4A80FFF83D6BD800 = some (.amo hd .fmax .tm .ar true ⟨9, 10, 11, false⟩ 0xFFF8) ∧
    decodeTableWord 64 0x4AA000086D8BD840 = some (.cas hd .dv .acq true ⟨9, 10, 11, true⟩ 12 8) ∧
    decodeTableWord 64 0x280000450EBD880 = some (.red hd .minN .cl true false 10 11 false 4) ∧
    decodeTableWord 48 0x400D398C0 = some (.fence hd .sy ⟨true, true, false, false⟩ ⟨true, false, true, true⟩) ∧
    decodeTableWord 48 0x490000189900 = some (.watch hd ⟨9, 4, 24, false⟩) ∧
    decodeTableWord 48 0x480000009940 = some (.unwatch hd 9) := by
  decide

theorem test_decode_copies_messages :
    decodeTableWord 64 0x8800000086FDC00 = some (.cpy hd true false 15 ⟨1, 2, 3, false⟩) ∧
    decodeTableWord 64 0x8A000005470DC41 = some (.cpyg hf .w128 false true 16 ⟨1, 2, 3, true⟩) ∧
    decodeTableWord 64 0x8000000007DC80 = some (.chsetFill hd 7 2 false) ∧
    decodeTableWord 64 0x8100000007DC80 = some (.chsetTable hd 7 2 false) ∧
    decodeTableWord 64 0x8200000007DC80 = some (.chsetNsrc hd 7 2 false) ∧
    decodeTableWord 64 0x8300007D07DC80 = some (.chsetFolio hd 7 2 1000 false) ∧
    decodeTableWord 48 0x800001F9CC0 = some (.chwm hd 1 31 false) ∧
    decodeTableWord 48 0x82100049CC0 = some (.chwmSt hd 1 4 true) ∧
    decodeTableWord 64 0x88000008ABCDD00 = some (.send hd 0xABC 8 1 2) ∧
    decodeTableWord 16 0x1D4E = some (.done hp) ∧
    decodeTableWord 48 0x80000F9D80 = some (.bind hd 15 2) ∧
    decodeTableWord 48 0x880FFFF9DC0 = some (.fenter hd ⟨1, 2, 0xFFFF, false⟩) ∧
    decodeTableWord 48 0x88000009E00 = some (.fleave hd ⟨1, 2, false⟩) ∧
    decodeTableWord 48 0x88003FF9E80 = some (.fhold hd 1 2 1023) ∧
    decodeTableWord 48 0x8000039E40 = some (.finc hd 2 3) ∧
    decodeTableWord 48 0x8000009EC0 = some (.fdrop hd 2) ∧
    decodeTableWord 48 0xA002009F00 = some (.fwait hd 2 512 true) ∧
    decodeTableWord 48 0x80000059F40 = some (.fprobe hd 1 5 false) ∧
    decodeTableWord 48 0x80100059F40 = some (.fprobeInfo hd 1 5 false) ∧
    decodeTableWord 64 0xFFFFFE41DF80 = some (.gcallLabel hd ⟨-7, 1⟩) ∧
    decodeTableWord 64 0x200000000000DF80 = some (.gcallReg hd 4) ∧
    decodeTableWord 16 0x1FCE = some (.gret hp) := by
  decide

theorem test_decode_privileged :
    decodeTableWord 48 0x4A800005B800 = some (.tlbinvPg hd 9 10 5) ∧
    decodeTableWord 48 0x48010005B800 = some (.tlbinvAs hd 9 5) ∧
    decodeTableWord 48 0x48020000B800 = some (.tlbinvAll hd 9) ∧
    decodeTableWord 64 0x880000003F5F840 = some (.scrub hd 1 2 0x3F5) ∧
    decodeTableWord 48 0x8800003B880 = some (.ctxsave hd 1 2 3) ∧
    decodeTableWord 48 0x8800000B8C0 = some (.ctxrest hd 1 2) ∧
    decodeTableWord 48 0x8800000B900 = some (.ipi hd 1 2) ∧
    decodeTableWord 48 0x8800000B940 = some (.fgraphIns hd 1 2) ∧
    decodeTableWord 48 0x8810000B940 = some (.fgraphExt hd 1 2) ∧
    decodeTableWord 48 0x80202BCB940 = some (.fgraphDel hd 1 700) := by
  decide

theorem test_decode_vector :
    decodeTableWord 64 0x50503C00221E000 = some (.vadd hd ⟨.f32, .rz, true, 10, 20, 30⟩) ∧
    decodeTableWord 64 0x50503C00341E040 = some (.vsub hd ⟨.f64, .ru, true, 10, 20, 30⟩) ∧
    decodeTableWord 64 0x50503C00B81E080 = some (.vmul hd ⟨.bf16x2, .rs, true, 10, 20, 30⟩) ∧
    decodeTableWord 64 0x50503C28463E0C0 = some (.vfma hd true ⟨.f16, .rd, true, 10, 20, 30⟩ 40) ∧
    decodeTableWord 64 0xFF0503C00F00E100 = some (.vmin hd .n64 ⟨510, 20, 30⟩) ∧
    decodeTableWord 64 0xFF8503C00900E140 = some (.vmax hd .n8 ⟨511, 20, 30⟩) ∧
    decodeTableWord 64 0x8503C00C00E2C0 = some (.vmulh hd .i16x2 ⟨1, 20, 30⟩) ∧
    decodeTableWord 64 0x10503C00E01EB81 = some (.vdiv hf .i64 .rn true ⟨2, 20, 30⟩) ∧
    decodeTableWord 64 0x10500000580EBC0 = some (.vsqrt hd .bf16 .rs 2 20) ∧
    decodeTableWord 64 0x14B00000200E1C0 = some (.vrcp hd .f32 .rn 2 300) ∧
    decodeTableWord 64 0x14B00000420E200 = some (.vrsq hd .f16 .rz 2 300) ∧
    decodeTableWord 64 0x14B00000B40E240 = some (.vexp2 hd .bf16x2 .ru 2 300) ∧
    decodeTableWord 64 0x14B00000A60E280 = some (.vlog2 hd .f16x2 .rd 2 300) ∧
    decodeTableWord 64 0x8080600300E180 = some (.vsgnCp hd .f64 ⟨1, 2, 3⟩) ∧
    decodeTableWord 64 0x8080600301E180 = some (.vsgnNcp hd .f64 ⟨1, 2, 3⟩) ∧
    decodeTableWord 64 0x8080600302E180 = some (.vsgnXor hd .f64 ⟨1, 2, 3⟩) ∧
    decodeTableWord 64 0x8080000503E180 = some (.vsgnAbs hd .bf16 1 2) ∧
    decodeTableWord 64 0x8080000504E180 = some (.vsgnNeg hd .bf16 1 2) ∧
    decodeTableWord 48 0x80200800A300 = some (.vand hd ⟨256, 128, 64⟩) ∧
    decodeTableWord 48 0x80200800A340 = some (.vor hd ⟨256, 128, 64⟩) ∧
    decodeTableWord 48 0x80200800A380 = some (.vxor hd ⟨256, 128, 64⟩) ∧
    decodeTableWord 48 0x80200800A3C0 = some (.vandn hd ⟨256, 128, 64⟩) ∧
    decodeTableWord 48 0x80200000A500 = some (.vpopc hd 256 128) ∧
    decodeTableWord 48 0x80200001A680 = some (.vmov hd true 256 128) := by
  decide

theorem test_decode_vector2 :
    decodeTableWord 64 0x8080600000E400 = some (.vshl hd .i32 1 2 (.reg 3)) ∧
    decodeTableWord 64 0x80801FF001E400 = some (.vshl hd .i32 1 2 (.imm 511)) ∧
    decodeTableWord 64 0x8080600700E440 = some (.vshr hd .n16 1 2 (.reg 3)) ∧
    decodeTableWord 64 0x80801FF701E440 = some (.vshr hd .n16 1 2 (.imm 511)) ∧
    decodeTableWord 64 0x8080600D00E480 = some (.vsar hd .i8x4 1 2 (.reg 3)) ∧
    decodeTableWord 64 0x80801FFD01E480 = some (.vsar hd .i8x4 1 2 (.imm 511)) ∧
    decodeTableWord 64 0x8080000600E4C0 = some (.vclz hd .i16 1 2) ∧
    decodeTableWord 64 0x48080600200E540 = some (.vcmp hd .f32 .eq .set 9 2 3) ∧
    decodeTableWord 64 0x48080600209E540 = some (.vcmp hd .f32 .ne .and 9 2 3) ∧
    decodeTableWord 64 0x48080600212E540 = some (.vcmp hd .f32 .lt .or 9 2 3) ∧
    decodeTableWord 64 0x48080600203E540 = some (.vcmp hd .f32 .le .set 9 2 3) ∧
    decodeTableWord 64 0x4808060020CE540 = some (.vcmp hd .f32 .gt .and 9 2 3) ∧
    decodeTableWord 64 0x48080600215E540 = some (.vcmp hd .f32 .ge .or 9 2 3) ∧
    decodeTableWord 64 0x48080600206E540 = some (.vcmp hd .f32 .un .set 9 2 3) ∧
    decodeTableWord 64 0x4808060020FE540 = some (.vcmp hd .f32 .ord .and 9 2 3) ∧
    decodeTableWord 64 0x808060F100E580 = some (.vsel hd false ⟨1, 2, 3⟩ 15) ∧
    decodeTableWord 64 0x10100C0EF00E580 = some (.vsel hd true ⟨2, 4, 6⟩ 14) ∧
    decodeTableWord 64 0x8080000833E5C0 = some (.vcvt hd .i8 .f64 .rz true 1 2) ∧
    decodeTableWord 64 0x8080600249E600 = some (.vpack hd .e2m1 .f32 .ru false ⟨1, 2, 3⟩) ∧
    decodeTableWord 64 0x8080000031E640 = some (.vunpk hd .bf16 .i32 .rz true 1 2) ∧
    decodeTableWord 64 0x8080000000E980 = some (.vlutL4 hd 1 2) ∧
    decodeTableWord 64 0x8080600001E980 = some (.vlutTab hd ⟨1, 2, 3⟩) ∧
    decodeTableWord 64 0x8080604D01EB40 = some (.vdot hd ⟨.i8x4, .rn, true, 1, 2, 3⟩ 4) := by
  decide

theorem test_decode_lanes :
    decodeTableWord 64 0x8080600100E700 = some (.vshfIdx hd false ⟨1, 2, 3⟩) ∧
    decodeTableWord 64 0x1010007FF01E700 = some (.vshfXor hd true 2 4 127) ∧
    decodeTableWord 64 0x1010007FF02E700 = some (.vshfUp hd true 2 4 127) ∧
    decodeTableWord 64 0x1010007FF03E700 = some (.vshfDn hd true 2 4 127) ∧
    decodeTableWord 64 0x8000008000E6C0 = some (.vsplat hd false 1 (.imm 0x8000)) ∧
    decodeTableWord 64 0x1000E030000E6C0 = some (.vsplat hd true 2 (.sreg 7)) ∧
    decodeTableWord 64 0x808000007FE740 = some (.vbcast hd false 1 2 (.imm 127)) ∧
    decodeTableWord 64 0x10112030000E780 = some (.vrot hd true 2 4 (.sreg 9)) ∧
    decodeTableWord 64 0x4010003E840 = some (.vballot hd true false 2 3) ∧
    decodeTableWord 64 0x4020003E840 = some (.vballot hd false true 2 3) ∧
    decodeTableWord 64 0x8080000100E7C0 = some (.vred hd .add .n32 .rn false 1 2) ∧
    decodeTableWord 64 0x8080000101E7C0 = some (.vred hd .min .n32 .rn false 1 2) ∧
    decodeTableWord 64 0x8080000102E7C0 = some (.vred hd .max .n32 .rn false 1 2) ∧
    decodeTableWord 64 0x8080000103E7C0 = some (.vred hd .and .n32 .rn false 1 2) ∧
    decodeTableWord 64 0x8080000104E7C0 = some (.vred hd .or .n32 .rn false 1 2) ∧
    decodeTableWord 64 0x8080000105E7C0 = some (.vred hd .xor .n32 .rn false 1 2) ∧
    decodeTableWord 64 0x8080000018E800 = some (.vscan hd .add .i32 .rn true true 1 2) ∧
    decodeTableWord 64 0x8080600280E8C0 = some (.vseg hd .add .f32 .rs false ⟨1, 2, 3⟩) ∧
    decodeTableWord 64 0x8080005F00E880 = some (.vconf hd true 1 2 5) ∧
    decodeTableWord 64 0x808068011FE900 = some (.vtopk hd .n32 ⟨1, 2, 3⟩ 128 31) ∧
    decodeTableWord 64 0x8080604506E940 = some (.vmrgk hd .bf16 ⟨1, 2, 3⟩ 4 6) := by
  decide

theorem test_decode_vector_memory :
    decodeTableWord 64 0x800A02FFFCE9C0 = some (.vld hd .n32 .unit 1 5 (-4)) ∧
    decodeTableWord 64 0x800A090006E9C0 = some (.vld hd .n16 .stride 1 5 6) ∧
    decodeTableWord 64 0x824AF40006E9C0 = some (.vld hd .i8 (.index 9 7) 1 5 6) ∧
    decodeTableWord 64 0x1000A030008EA41 = some (.vst hf .n64 .unit 2 5 8) ∧
    decodeTableWord 64 0x8000A0F0000EA00 = some (.vldc hd 15 16 5 0) ∧
    decodeTableWord 64 0x8000A030004EA80 = some (.vstc hd 3 16 5 4) ∧
    decodeTableWord 64 0x10100C00000EAC0 = some (.vamo hd (.op .add) .i32 false ⟨2, 4, 6⟩) ∧
    decodeTableWord 64 0x10100C00F11EAC0 = some (.vamo hd (.op .and) .n64 true ⟨2, 4, 6⟩) ∧
    decodeTableWord 64 0x10100C00002EAC0 = some (.vamo hd (.op .or) .i32 false ⟨2, 4, 6⟩) ∧
    decodeTableWord 64 0x10100C00F13EAC0 = some (.vamo hd (.op .xor) .n64 true ⟨2, 4, 6⟩) ∧
    decodeTableWord 64 0x10100C00004EAC0 = some (.vamo hd (.op .swap) .i32 false ⟨2, 4, 6⟩) ∧
    decodeTableWord 64 0x10100C00015EAC0 = some (.vamo hd (.op .minI) .i32 true ⟨2, 4, 6⟩) ∧
    decodeTableWord 64 0x10100C00E06EAC0 = some (.vamo hd (.op .maxI) .i64 false ⟨2, 4, 6⟩) ∧
    decodeTableWord 64 0x10100C00117EAC0 = some (.vamo hd (.op .minN) .n32 true ⟨2, 4, 6⟩) ∧
    decodeTableWord 64 0x10100C00F08EAC0 = some (.vamo hd (.op .maxN) .n64 false ⟨2, 4, 6⟩) ∧
    decodeTableWord 64 0x10100C00219EAC0 = some (.vamo hd (.op .fadd) .f32 true ⟨2, 4, 6⟩) ∧
    decodeTableWord 64 0x10100C0030AEAC0 = some (.vamo hd (.op .fmin) .f64 false ⟨2, 4, 6⟩) ∧
    decodeTableWord 64 0x10100C0021BEAC0 = some (.vamo hd (.op .fmax) .f32 true ⟨2, 4, 6⟩) ∧
    decodeTableWord 64 0x10100C0830CEAC0 = some (.vamo hd (.cas 8) .f64 false ⟨2, 4, 6⟩) ∧
    decodeTableWord 64 0x1010A780010EB00 = some (.vrdm hd .maxN true .dv 2 4 5 16) := by
  decide

theorem test_decode_matrix :
    decodeTableWord 64 0xFFF001540000F000 = some (.mma hd ⟨7, 31, 30, 0, .i8, .i8, false, false⟩) ∧
    decodeTableWord 64 0x400B208C0003F001 = some (.mma hf ⟨2, 0, 1, 200, .e4m3, .e5m2, true, true⟩) ∧
    decodeTableWord 64 0x243001E00002F000 = some (.mma hd ⟨1, 4, 6, 0, .i4, .l4, false, true⟩) ∧
    decodeTableWord 64 0x622FD1A40000F040 = some (.mrot hd ⟨3, 2, 5, 500, .e2m1, .i4x, false, false⟩) ∧
    decodeTableWord 16 0x308E = some (.mjoin hp) ∧
    decodeTableWord 64 0xC00000000000F0C0 = some (.mzero hd 6) ∧
    decodeTableWord 64 0x220000000C03F100 = some (.mrd hd 1 2 3 12 .raw) ∧
    decodeTableWord 64 0x220001000065F100 = some (.mrd hd 1 2 1 0 (.fp .e4m3z .rs true)) ∧
    decodeTableWord 64 0x220001400F86F100 = some (.mrd hd 1 2 2 15 (.i8 false)) ∧
    decodeTableWord 64 0x220000000301F140 = some (.mwr hd 1 2 1 3 none) ∧
    decodeTableWord 64 0x220001400004F140 = some (.mwr hd 1 2 0 0 (some .i8)) ∧
    decodeTableWord 16 0x3180 = some (.mready hd) ∧
    decodeTableWord 64 0xA00000000000F1C0 = some (.mwait hd (some 5)) ∧
    decodeTableWord 64 0x1F1C0 = some (.mwait hd none) ∧
    decodeTableWord 64 0x800000000003F200 = some (.mtrn hd 4 3) := by
  decide

/-! ## Ill-formed terms, which the check refuses -/

/-- R207, R211: a flag on an instruction that sets none. -/
theorem test_wf_flag_select : Instr.wf (.add hf ⟨1, 2, 3, false⟩) = false ∧ Instr.wf (.nop hf) = false ∧
    Instr.wf (.mzero hf 0) = false ∧ Instr.wf (.ld hf .n64 ⟨1, 2, 0, false⟩) = true := by decide

/-- R217: the G bit together with a guard. -/
theorem test_wf_g_guard : Instr.wf (.add hp ⟨1, 2, 3, true⟩) = false ∧ Instr.wf (.add hp ⟨1, 2, 3, false⟩) = true ∧
    Instr.wf (.chwm ⟨0, true, false⟩ 1 2 true) = false := by decide

/-- R266, R290, R292, R294, R295, R301, R311: scalar entries. -/
theorem test_wf_scalar_entries : Instr.wf (.fcvt hd .i8 .n64 .rn false ⟨1, 2, false⟩) = false ∧
    Instr.wf (.red hd .swap .cl false true 1 2 false 0) = false ∧
    Instr.wf (.fence hd .dv ⟨false, false, false, false⟩ ⟨true, false, false, false⟩) = false ∧
    Instr.wf (.fence hd .dv ⟨true, false, false, false⟩ ⟨false, false, false, false⟩) = false ∧
    Instr.wf (.watch hd ⟨1, 2, 0, true⟩) = false ∧ Instr.wf (.send hd 0 9 1 2) = false ∧ Instr.wf (.send hd 0 8 1 2) = true ∧
    Instr.wf (.gcallReg hd 0) = false := by decide

/-- R320, R323, R324: a rounding field where nothing rounds, and types that an element instruction does not take. -/
theorem test_wf_element_types : Instr.wf (.vadd hd ⟨.i32, .rz, false, 1, 2, 3⟩) = false ∧
    Instr.wf (.vmulh hd .f32 ⟨1, 2, 3⟩) = false ∧ Instr.wf (.vdiv hd .f16x2 .rn false ⟨1, 2, 3⟩) = false ∧
    Instr.wf (.vdiv hd .f32 .rn true ⟨1, 2, 3⟩) = false ∧ Instr.wf (.vdiv hd .i32 .ru false ⟨1, 2, 3⟩) = false ∧
    Instr.wf (.vsqrt hd .i32 .rn 1 2) = false ∧ Instr.wf (.vrcp hd .f32 .rz 1 2) = false ∧
    Instr.wf (.vexp2 hd .f64 .rn 1 2) = false ∧ Instr.wf (.vsgnCp hd .n8 ⟨1, 2, 3⟩) = false ∧
    Instr.wf (.vsgnAbs hd .i64 1 2) = false := by decide

/-- R328, R329, R331, R333, R334, R336: shifts, comparisons, conversions and dot products. -/
theorem test_wf_vector_formats : Instr.wf (.vshl hd .f32 1 2 (.imm 3)) = false ∧ Instr.wf (.vclz hd .bf16 1 2) = false ∧
    Instr.wf (.vcmp hd .i8x4 .eq .set 1 2 3) = false ∧ Instr.wf (.vcmp hd .n32 .un .set 1 2 3) = false ∧
    Instr.wf (.vcmp hd .i64 .ord .set 1 2 3) = false ∧ Instr.wf (.vcvt hd .f16x2 .f32 .rn false 1 2) = false ∧
    Instr.wf (.vcvt hd .i32 .n8 .rz false 1 2) = false ∧ Instr.wf (.vpack hd .i8 .i32 .rz false ⟨1, 2, 0⟩) = false ∧
    Instr.wf (.vpack hd .f16 .f32 .rn false ⟨1, 2, 3⟩) = false ∧ Instr.wf (.vunpk hd .n8 .n32 .ru false 1 2) = false ∧
    Instr.wf (.vdot hd ⟨.i32, .rn, false, 1, 2, 3⟩ 4) = false ∧ Instr.wf (.vdot hd ⟨.f16x2, .rn, true, 1, 2, 3⟩ 4) = false ∧
    Instr.wf (.vdot hd ⟨.i8x4, .rd, false, 1, 2, 3⟩ 4) = false := by decide

/-- R339, R340, R341, R344, R345, R349, R350: lane instructions and vector atomics. -/
theorem test_wf_lanes_and_atomics : Instr.wf (.vsplat hd true 2 (.imm 1)) = false ∧ Instr.wf (.vballot hd true true 1 2) = false ∧
    Instr.wf (.vred hd .xor .f32 .rn false 1 2) = false ∧ Instr.wf (.vscan hd .min .i32 .rn true false 1 2) = false ∧
    Instr.wf (.vseg hd .max .f32 .ru false ⟨1, 2, 3⟩) = false ∧ Instr.wf (.vtopk hd .f64 ⟨1, 2, 3⟩ 1 0) = false ∧
    Instr.wf (.vmrgk hd .f32 ⟨1, 2, 3⟩ 0 0) = false ∧ Instr.wf (.vamo hd (.op .minI) .n32 false ⟨1, 2, 3⟩) = false ∧
    Instr.wf (.vamo hd (.cas 4) .f16 false ⟨1, 2, 3⟩) = false ∧ Instr.wf (.vrdm hd .swap false .cl 1 2 3 0) = false := by decide

/-- R354, R355, R366, R367, R370: format pairs, scales, disjoint operands and moves of tiles. -/
theorem test_wf_matrix : Instr.wf (.mma hd ⟨0, 1, 2, 0, .f16, .bf16, false, false⟩) = false ∧
    Instr.wf (.mma hd ⟨0, 1, 2, 0, .e4m3z, .e4m3, true, false⟩) = false ∧
    Instr.wf (.mma hd ⟨0, 1, 2, 7, .i8, .i8, false, false⟩) = false ∧
    Instr.wf (.mma hd ⟨0, 1, 1, 0, .i8, .i8, false, false⟩) = true ∧
    Instr.wf (.mrot hd ⟨0, 1, 1, 0, .i8, .i8, false, false⟩) = false ∧
    Instr.wf (.mrot hd ⟨0, 1, 2, 47, .e2m1, .i4x, false, false⟩) = false ∧
    Instr.wf (.mrot hd ⟨0, 1, 2, 48, .e2m1, .i4x, false, false⟩) = true ∧
    Instr.wf (.mrd hd 0 0 0 0 (.fp .i8 .rn false)) = false ∧ Instr.wf (.mwr hd 0 0 0 0 (some .e2m1)) = false := by decide

/-- R3, R108, R274, R396, R398: subjects of the device's own steps that the device does not have. -/
theorem test_wf_subjects : Instr.wf (.kill ⟨12, 0, false, 0, 0⟩) = false ∧ Instr.wf (.kill ⟨11, 63, false, 3, 16⟩) = true ∧
    Instr.wf (.kill ⟨0, 0, false, 0, 17⟩) = false ∧ Instr.wf (.kill ⟨0, 0, true, 1, 0⟩) = false ∧
    Instr.wf (.kill ⟨0, 0, true, 0, 16⟩) = false ∧ Instr.wf (.gets ⟨0, 64, 0⟩ 0) = false ∧ Instr.wf (.inv ⟨0, 0, 4⟩ 0) = false ∧
    Instr.wf (.burstSend ⟨0, 0⟩ 16 0) = false ∧ Instr.wf (.overflowAdd 0 0 4) = false ∧ Instr.wf (.tileBatchSend 0 64) = false ∧
    Instr.wf (.clusterBatchForward 12) = false ∧ Instr.wf (.rds 13 0) = false ∧ Instr.wf (.rds 12 0) = true ∧
    Instr.wf (.packetStart ⟨48, 0, 0⟩) = false ∧ Instr.wf (.packetStart ⟨0, 192, 0⟩) = false ∧
    Instr.wf (.packetStart ⟨0, 0, 16⟩) = false := by decide

/-! ## Words that decode to nothing -/

/-- R206, R214, R218, R223: reserved and illegal opcodes, a tail of another length, reserved bits, unassigned codes. -/
theorem test_decode_refuses_words : decodeTableWord 16 0x0000 = none ∧ decodeTableWord 16 0x3FC0 = none ∧
    decodeTableWord 48 0x8D40 = none ∧ decodeTableWord 16 0x0400 = none ∧ decodeTableWord 32 0x00024A40 = none := by decide

/-- The same by name. -/
theorem test_decode_refuses_by_name : decode 0x3FC0 0 = .error .opcode ∧ decode 0x0400 0 = .error .tailLen ∧
    decode 0x4406 1 = .error .gBit ∧ decode 0x4401 0 = .error .flagSelect ∧ decode 0x8880 0x40 = .error .reservedBits ∧
    decode 0x8580 0x30000 = .error .variant := ⟨rfl, rfl, rfl, rfl, rfl, rfl⟩

/-! ## The worked examples of the spec -/

/-- The translation example of the chapter on address translation (R25 to R28). -/
def cfg5 : PartConfig := ⟨5, [(0, 0)], [(0, 2 ^ 36)], [], [], 0, 7, 0⟩
def ptMem : Tab Byte :=
  [(0x04200018, 0x01), (0x0420001A, 0x31), (0x0420001B, 0x04), (0x0420001F, 0x14),
   (0x04310148, 0x01), (0x0431014A, 0x32), (0x0431014B, 0x04), (0x0431014F, 0x14),
   (0x04321A28, 0xDD), (0x04321A29, 0x02), (0x04321A2A, 0x50), (0x04321A2B, 0x3C), (0x04321A2C, 0x07), (0x04321A2F, 0x14)]

theorem test_translation : ((walk { State.reset with mem := ptMem } (freshPartition cfg5) 0x0300000004200000 0x00000C0523456789
    .load).toOption.map fun l => (l.at_, l.level, l.pa)) = some (0x04321A28, 3, 0x073C506789) := by decide +kernel

/-- The home tile of the same address (R59), the bytes of window regions at D = 16 (R50), and the address of a tile's own scratchpad (R18). -/
theorem test_home : homeRank 0x073C506789 = 43 := by decide
theorem test_own_scratch : canonVa 27 0xFE00000001B18040 = 0xFE00000004018040 := by decide
theorem test_regions : regionBytes 16 = 2560 := by decide

/-- The I4X block with companion word 0x281 (R194): −4, −28, 96 and 0. -/
theorem test_i4x : ((List.range 4).map fun k => roundTo .f32 .rn false (i4xVal [0x5C9F] 0x281 k).exact 0) =
    [0xC0800000, 0xC1E00000, 0x42C00000, 0] := by decide +kernel

/-- Rounding to E4M3 and E4M3Z (R197): 464 goes to 448, above it to the NaN; 247 goes to 240 and 248 overflows. -/
theorem test_e4m3 : convert .e4m3 .f32 .rn false 0x43E80000 0 = 0x7E ∧ convert .e4m3 .f32 .rn false 0x43E88000 0 = 0x7F ∧
    convert .e4m3z .f32 .rn false 0x43770000 0 = 0x7F ∧ convert .e4m3z .f32 .rn false 0x43780000 0 = 0x80 := by decide +kernel

/-- The steps of SRSEED, and 1 + 2^−8 rounded to BF16 under .rs (R197, R200). -/
theorem test_stochastic : srStep 1 = 0x00042021 ∧ srStep 0x00042021 = 0x04080601 ∧
    convert .bf16 .f32 .rs false 0x3F808000 0x00042021 = 0x3F81 ∧ convert .bf16 .f32 .rs false 0x3F808000 0x04080601 = 0x3F81 := by
  decide +kernel

/-- One output of an FP16 `mma` of depth 32 in two groups (R202). -/
theorem test_mma_sum : accumulate (accumulate 0 (.fin false 1 24 :: List.replicate 15 (.fin false 1 0))) (List.replicate 16 (.fin false 1 0)) = 0x4B800010 := by
  decide +kernel

/-- `cmp.lt.i64.or p2, x5, x6` and `cmp.lt.n64.or p2, x5, x6` with −1 and 0 (R256). -/
def thCmp : Thread := th.setX 5 ⟨0xFFFFFFFFFFFFFFFF, true⟩
def predOf (p : Nat) : Res → Option Bool
  | .next s => (s.thread? ct).map fun t => t.preds.getLsbD p
  | _ => none
theorem test_cmp_signed : predOf 2 (exec (.cmp hd .ltI .or 2 5 6 false) (st thCmp)) = some true := by decide +kernel
theorem test_cmp_unsigned : predOf 2 (exec (.cmp hd .ltN .or 2 5 6 false) (st thCmp)) = some false := by decide +kernel

/-- `call` at heads 3 and 4 of a line of 5 heads at 0x100040: x23 of the calling window (R235). -/
def thAtHead (pc : Word) : Thread := { th with pc := pc, line := some 0x005FF000 }
def callerX23 : Res → Option Word
  | .next s => (s.thread? ct).bind fun t => t.outer.head?.map fun w => w[15].val
  | _ => none
theorem test_call_within : callerX23 (exec (.call hd ⟨4, 0⟩) (st (thAtHead 0x100043))) = some 0x100044 := by decide +kernel
theorem test_call_last : callerX23 (exec (.call hd ⟨4, 0⟩) (st (thAtHead 0x100044))) = some 0x100080 := by decide +kernel

/-- A gang of width 16 with such values in a register of its lanes. -/
def fillV (r : Nat) (f : Nat → Elem) (g : Gang) : Gang := (List.range 16).foldl (fun g l => g.setV r l (f l)) g
def g16 (m : Mask) : Gang := freshGang cg 0 (some tid) 0 { hdr with width := 1 } 0x1000 0 m
def vOf (r n : Nat) : Res → Option (List Elem)
  | .next s => (s.gang? cg).map fun g => (List.range n).map fun l => g.getV r l
  | _ => none

/-- `vshf.idx.n32 v10, v20, v21` (R338). -/
def gShf : Gang := fillV 20 (fun l => BitVec.ofNat 32 (100 + l)) (fillV 21 (fun l => BitVec.ofNat 32 (l + 20)) (g16 0xFFFF))
theorem test_vshf_idx : vOf 10 16 (exec (.vshfIdx hd false ⟨10, 20, 21⟩) (sg gShf)) =
    some [104, 105, 106, 107, 108, 109, 110, 111, 112, 113, 114, 115, 100, 101, 102, 103] := by decide +kernel

/-- `vconf.n32 v6, v4, p2` and `vseg.add.f32 v7, v5, v6` on lanes 0 to 5 (R341, R343). -/
def gConf : Gang := fillV 4 (fun l => BitVec.ofNat 32 ([4, 9, 4, 4, 9, 2].getD l 0)) (g16 0x3F)
theorem test_vconf : vOf 6 7 (exec (.vconf hd false 6 4 2) (sg gConf)) = some [0, 1, 0, 0, 1, 5, 0] := by decide +kernel
def gSeg : Gang :=
  fillV 5 (fun l => BitVec.ofNat 32 ([0x3F800000, 0x40000000, 0x3F000000, 0x3E800000, 0x40400000, 0x40E00000].getD l 0))
    (fillV 6 (fun l => BitVec.ofNat 32 ([0, 1, 0, 0, 1, 5].getD l 0)) (g16 0x3F))
theorem test_vseg : vOf 7 7 (exec (.vseg hd .add .f32 .rn false ⟨7, 5, 6⟩) (sg gSeg)) =
    some [0x3FE00000, 0x40A00000, 0x3FE00000, 0x3FE00000, 0x40A00000, 0x40E00000, 0] := by decide +kernel

/-- `vtopk.f32 v40, v8, v9, 4, s3` on lanes 2, 5 and 9 (R344, R345). -/
def gTop : Gang :=
  fillV 8 (fun l => if l = 5 then 0x3E800000 else 0x3FC00000) (fillV 9 (fun l => if l = 2 then 7 else if l = 5 then 12 else 3) (g16 0x224))
theorem test_vtopk_keys : vOf 40 5 (exec (.vtopk hd .f32 ⟨40, 8, 9⟩ 4 3) (sg gTop)) =
    some [0x3E800000, 0x3FC00000, 0x3FC00000, 0x7F800000, 0] := by decide +kernel
theorem test_vtopk_ids : vOf 41 5 (exec (.vtopk hd .f32 ⟨40, 8, 9⟩ 4 3) (sg gTop)) = some [12, 3, 7, 0xFFFFFFFF, 0] := by decide +kernel

/-! ## Witnesses: every hypothesis of a statement is met somewhere

Each theorem is named after its statement, and shows states and operands that meet the premises of its clauses. -/

/-- Some thread runs a head. -/
theorem runsT : RunsT (st th) th hd := ⟨rfl, rfl, rfl⟩

/-- Some gang runs a head. -/
theorem runsG : RunsG (sg gg) gg := ⟨rfl, rfl, rfl⟩

theorem regWitness2 : RegWitness hd [10, 11] [12] :=
  ⟨⟨st th, th, th, [0, 0], runsT, ⟨rfl, rfl⟩, ⟨rfl, rfl⟩, rfl⟩,
    ⟨sg gg, gg, [(0, [0, 0]), (1, [0, 0])], runsG, ⟨rfl, by decide, rfl, by decide⟩, rfl, rfl⟩, sg gg, gg, runsG, rfl, rfl⟩

theorem regWitness1 : RegWitness hd [10] [12] :=
  ⟨⟨st th, th, th, [0], runsT, ⟨rfl, rfl⟩, ⟨rfl, rfl⟩, rfl⟩,
    ⟨sg gg, gg, [(0, [0]), (1, [0])], runsG, ⟨rfl, by decide, rfl, by decide⟩, rfl, rfl⟩, sg gg, gg, runsG, rfl, rfl⟩

theorem regWitness0 : RegWitness hd [] [0] :=
  ⟨⟨st th, th, th, [], runsT, ⟨rfl, rfl⟩, ⟨rfl, rfl⟩, rfl⟩,
    ⟨sg gg, gg, [(0, []), (1, [])], runsG, ⟨rfl, by decide, rfl, by decide⟩, rfl, rfl⟩, sg gg, gg, runsG, rfl, rfl⟩

theorem regWitness3 : RegWitness hd [10, 11, 31] [12] :=
  ⟨⟨st th, th, th, [0, 0, 0], runsT, ⟨rfl, rfl⟩, ⟨rfl, rfl⟩, rfl⟩,
    ⟨sg gg, gg, [(0, [0, 0, 0]), (1, [0, 0, 0])], runsG, ⟨rfl, by decide, rfl, by decide⟩, rfl, rfl⟩,
    sg { gg with sregs := 31 }, { gg with sregs := 31 }, ⟨rfl, rfl, rfl⟩, rfl, rfl⟩

theorem test_witness_ThreeRegisterOperations : RegWitness hd [10, 11] [12] := regWitness2
theorem test_witness_OneRegisterOperations : RegWitness hd [10] [12] := regWitness1
theorem test_witness_ImmediateOperations : RegWitness hd [10] [12] := regWitness1
theorem test_witness_ConstantsProductsSelection :
    RegWitness hd [] [0] ∧ RegWitness hd [10] [12] ∧ RegWitness hd [10, 11] [12] := ⟨regWitness0, regWitness1, regWitness2⟩
theorem test_witness_ShiftsAndRotates : RegWitness hd [10] [12] ∧ RegWitness hd [10, 11] [12] ∧
    ∃ t : XITail, t.sub = 1 ∧ t.imm = 32 := ⟨regWitness1, regWitness2, ⟨0, 0, false, 1, 32⟩, rfl, rfl⟩
theorem test_witness_FieldsAndExtensions : RegWitness hd [10] [12] ∧ RegWitness hd [10, 11] [12] := ⟨regWitness1, regWitness2⟩
theorem test_witness_ScalarFloatingPoint :
    RegWitness hd [10] [12] ∧ RegWitness hd [10, 11] [12] ∧ RegWitness hd [10, 11, 31] [12] :=
  ⟨regWitness1, regWitness2, regWitness3⟩

/-- With the neighbour queue enabled. -/
def thq : Thread := { th with qbind := 1 }

theorem test_witness_ComparisonsAndPredicates : RegWitness hd [10, 11] [] ∧ th.queueOn = false ∧
    (RunsT (st thq) thq hd ∧ thq.queueOn = true) ∧ RunsG (sg gg) gg ∧ gg.xOk [12] = true :=
  ⟨⟨⟨st th, th, th, [0, 0], runsT, ⟨rfl, rfl⟩, ⟨rfl, rfl⟩, rfl⟩,
    ⟨sg gg, gg, [(0, [0, 0]), (1, [0, 0])], runsG, ⟨rfl, by decide, rfl, by decide⟩, rfl, rfl⟩, sg gg, gg, runsG, rfl, rfl⟩,
    rfl, ⟨⟨rfl, rfl, rfl⟩, rfl⟩, runsG, rfl⟩

theorem test_witness_LateResults : RegWitness hd [10, 11] [12] ∧ flagFull th.flags (headFlag true th.line hf) = false ∧
    RunsT (st thq) thq hd ∧ ReadsT (st thq) thq [10, 11] [0, 0] thq ∧ FreeT (st thq) thq [12] ∧ thq.queueOn = true :=
  ⟨regWitness2, rfl, ⟨rfl, rfl, rfl⟩, ⟨rfl, rfl⟩, ⟨rfl, rfl⟩, rfl⟩

/-- `loop` with a count of 0, 1 and 2. -/
theorem test_witness_JumpsOfAThread : RunsT (st th) th hd ∧ FreeT (st th) th [12] ∧ ReadsT (st th) th [10] [0] th ∧
    FreeT (st th) th [10] ∧ ReadsT (st (thx 1)) (thx 1) [10] [1] (thx 1) ∧ ReadsT (st (thx 2)) (thx 2) [10] [2] (thx 2) :=
  ⟨runsT, ⟨rfl, rfl⟩, ⟨rfl, rfl⟩, ⟨rfl, rfl⟩, ⟨rfl, rfl⟩, ⟨rfl, rfl⟩⟩

/-- A thread one call deep, one at its full depth, and one that can make no call at all. -/
def th1 : Thread := { th with depth := 1, outer := [mk16 fun _ => XReg.zero] }
def thNo : Thread := { th with maxDepth := 0 }

theorem test_witness_CallsAndReturns : RunsT (st th) th hd ∧ th.readX 10 = some (0, th) ∧
    (st th).regErr th.id [th.dst 10] = none ∧ th.depth < th.maxDepth ∧ (st th).busy th.id [th.dst 23] = false ∧ th.resident < 4 ∧
    RunsT (st thNo) thNo hd ∧ thNo.maxDepth ≤ thNo.depth ∧
    RunsT (st th1) th1 hd ∧ (th1.inTrap && th1.depth == th1.trapDepth) = false ∧ th1.depth ≠ 0 ∧
    th1.outer = [mk16 fun _ => XReg.zero] ∧ th1.spilled ≤ 0 ∧ (below (mk16 fun _ => XReg.zero) 23).full = true ∧
    (st th1).regErr th1.id [.x 0 23] = none :=
  ⟨runsT, rfl, rfl, by decide, rfl, by decide, ⟨rfl, rfl, rfl⟩, by decide, ⟨rfl, rfl, rfl⟩, rfl, by decide, rfl, by decide,
    rfl, rfl⟩

theorem test_witness_JumpsOfAGang : RunsG (sg gg) gg ∧ gg.xOk [12, 10] = true ∧
    (gg.active hd).mapM (fun l => (gg.readX 10 l).map fun v => (l, v)) = some [(0, 0), (1, 0)] ∧
    (∀ l ∈ gg.active hd, (sg gg).regErr gg.id [xDst 10 l] = none) ∧
    (sg gg).busy gg.id ((gg.active hd).map fun l => xDst 12 l) = false ∧
    (sg gg).busy gg.id ((gg.active hd).map fun l => xDst 10 l) = false := ⟨runsG, rfl, rfl, by decide, rfl, rfl⟩

theorem test_witness_TrapsOnPurpose : RunsT (st th) th hd ∧ RunsG (sg gg) gg ∧ gg.active hd = [0, 1] ∧ gg.galley = false :=
  ⟨runsT, runsG, rfl, rfl⟩

/-- A thread with a handler, and one in it. -/
def thv : Thread := { th with tr := ⟨0x2000, 0, 0, 0, 0, 0⟩ }
def thTrap : Thread := { thv with inTrap := true, outer := [mk16 fun _ => XReg.zero] }

theorem test_witness_TrapEntry : (st thv).thread? ct = some thv ∧ thv.inTrap = false ∧ thv.tr.tvec ≠ 0 ∧
    (st th).thread? ct = some th ∧ th.tr.tvec = 0 ∧ (st thTrap).thread? ct = some thTrap ∧ thTrap.inTrap = true :=
  ⟨rfl, rfl, by decide, rfl, rfl, rfl, rfl⟩

theorem test_witness_ReturnFromTrap : RunsT (st th) th hd ∧ th.inTrap = false ∧ RunsT (st thTrap) thTrap hd ∧
    thTrap.inTrap = true ∧ thTrap.depth = thTrap.trapDepth ∧ thTrap.outer = [mk16 fun _ => XReg.zero] ∧ thTrap.spilled ≤ 0 :=
  ⟨runsT, rfl, ⟨rfl, rfl, rfl⟩, rfl, rfl, rfl, by decide⟩

theorem test_witness_PausesAndExit : RunsT (st th) th hd ∧ th.ipiPending = false ∧
    (∃ t, RunsT (st t) t hd ∧ t.ipiPending = true) ∧ RunsG (sg gg) gg ∧ gg.active hd ≠ [] ∧ gg.active ⟨3, false, false⟩ = [] ∧
    (ReadsT (st th) th [10] [0] th ∧ th.msg = none ∧ th.caps = [] ∧
      ∃ s1 t2, releaseThread ct .dv (st th) = .ok s1 ∧ s1.thread? ct = some t2 ∧ t2.unacked = 0) ∧
    gg.xOk [10] = true ∧ gg.galley = false ∧
    (gg.active hd).mapM (fun l => (gg.readX 10 l).map fun v => (l, v)) = some [(0, 0), (1, 0)] ∧
    (∀ l ∈ gg.active hd, (sg gg).regErr gg.id [xDst 10 l] = none) ∧ (∀ k ∈ gg.caps, k.1 ∉ gg.active hd) ∧
    ∃ s1, releaseGang cg .dv (sg gg) = .ok s1 :=
  ⟨runsT, rfl, ⟨{ th with ipiPending := true }, ⟨rfl, rfl, rfl⟩, rfl⟩, runsG, by decide, rfl,
    ⟨⟨rfl, rfl⟩, rfl, rfl, _, _, rfl, rfl, rfl⟩, rfl, rfl, rfl, by decide, by decide, _, rfl⟩

/-- A number of no register, a read-only one, a privileged one in both modes, and QBIND with a target that exists. -/
theorem test_witness_ControlRegisterInstructions : RunsT (st th) th hd ∧ csrExists false 0x046 = false ∧
    csrExists false 0x011 = true ∧ FreeT (st th) th [12] ∧ csrReadOnly 0x030 = true ∧
    (RunsT (st { th with priv := false }) { th with priv := false } hd ∧ csrExists false 0x080 = true ∧
      csrReadOnly 0x080 = false ∧ csrPrivileged 0x080 = true) ∧ th.priv = true ∧ csrReadOnly 0x011 = false ∧
    csrPrivileged 0x011 = false ∧ ReadsT (st th) th [10] [0] th ∧ qbindBad (st th) th 1 = false ∧
    RunsG (sg gg) gg ∧ gg.xOk [12, 10] = true ∧ gg.active hd = [0, 1] ∧ csrExists true 0x011 = true ∧
    (sg gg).busy gg.id ([0, 1].map fun l => xDst 12 l) = false ∧ gg.readX 10 0 = some 0 ∧
    (sg gg).regErr gg.id [xDst 10 0] = none :=
  ⟨runsT, rfl, rfl, ⟨rfl, rfl⟩, rfl, ⟨⟨rfl, rfl, rfl⟩, rfl, rfl, rfl⟩, rfl, rfl, rfl, ⟨rfl, rfl⟩, rfl, runsG, rfl, rfl, rfl, rfl,
    rfl, rfl⟩

theorem test_witness_ControlRegisterValues : (st th).thread? ct = some th ∧ th.id = ct ∧ csrExists false 0x081 = true ∧
    csrReadOnly 0x081 = false ∧ ((st th).part? th.part).isSome = true ∧ th.depth < 128 ∧
    (⟨11, 63, true, 0, 15⟩ : CtxId).ok = true ∧ (⟨11, 63, false, 3, 16⟩ : CtxId).ok = true :=
  ⟨rfl, rfl, rfl, rfl, rfl, by decide, rfl, rfl⟩

/-- The thread with an address of its own tile's scratchpad in x10. -/
def ths : Thread := thx 0xFE00000004000040

/-- The access that it makes: 8 bytes of the scratchpad at 64. -/
def accS : Acc := ⟨.scratch, 64, 0xFE00000004000040, false, false⟩

/-- The access at 0 of the global window, by the translation of the device. -/
def accM : Acc := ⟨.mem, 0, 0, true, false⟩

theorem test_witness_Loads : RunsT (st th) th hd ∧ ReadsT (st th) th [10] [0] th ∧ FreeT (st th) th [12, 13] ∧
    flagFull th.flags (flagOf th.line hd) = false ∧ checkPieces th.agent 0 [8, 8] 8 .load true (st th) = .ok (st th) [accM, { accM with addr := 8, va := 8 }] ∧
    th.queueOn = false ∧
    (RunsT (st thq) thq hd ∧ ReadsT (st thq) thq [10] [0] thq ∧ FreeT (st thq) thq [6] ∧ thq.queueOn = true ∧
      ∃ s1 as, checkPieces thq.agent 0 [8] 8 .load true (st thq) = .ok s1 as) ∧
    RunsG (sg gg) gg ∧ ReadsG (sg gg) gg hd [10] [12] [(0, [0]), (1, [0])] ∧
    (sg gg).busy gg.id ((gg.active hd).flatMap fun l => [Dst.pair 12 l]) = false ∧
    (∃ s1 s2 good, checkLanes gg.agent [8] 8 .load true [(0, 0), (1, 0)] (sgw gg) = ⟨s1, good, [], [], false⟩ ∧
      loadNow cg 0 (some .cl) (laneLoads [(.n64, 12)] good) s1 = (s2, false)) ∧
    ReadsS (sg gg) gg [10] [12] ∧ (st th).relAwait ct = none ∧
    ∃ s1 s2 as, checkPieces gg.agent 0 [8] 8 .load true (sgw gg) = .ok s1 as ∧
      loadNow cg 0 (some .cl) (loadElts (fun r => if r = 0 then Dst.none else Dst.s r) [(.n64, 12)] as) s1 = (s2, false) :=
  ⟨runsT, ⟨rfl, rfl⟩, ⟨rfl, rfl⟩, rfl, rfl, rfl, ⟨⟨rfl, rfl, rfl⟩, ⟨rfl, rfl⟩, ⟨rfl, rfl⟩, rfl, _, _, rfl⟩, runsG,
    ⟨rfl, by decide, rfl, by decide⟩, rfl, ⟨_, _, _, rfl, rfl⟩, ⟨rfl, rfl⟩, rfl, _, _, _, rfl, rfl⟩

/-- A `st.rel`, which has every premise of a plain store and its release besides. -/
theorem test_witness_Stores : (∃ s1 s2 s3 as, ReadsT (st th) th [10, 11] [0, 0] th ∧
      checkPieces th.agent 0 [8] 8 .store true (st th) = .ok s1 as ∧
      (∀ e ∈ as.zip (storeData [.n64] [0]), s1.storeErr e.1 e.2.length = none) ∧ relT ct (some .cl) s1 = .ok s2 ∧
      storeAll th (flagOf th.line hd) true (as.zip (storeData [.n64] [0])) s2 = .ok s3) ∧
    (∃ s1 s2 s3 s4 good late, ReadsG (sg gg) gg hd [10, 11] [] [(0, [0, 0]), (1, [0, 0])] ∧
      checkLanes gg.agent [8] 8 .store true [(0, 0), (1, 0)] (sg gg) = ⟨s1, good, [], [], false⟩ ∧ relG cg (some .cl) s1 = .ok s2 ∧
      s2.errs = [] ∧
      storeRoom gg (good.flatMap fun x => (x.2.zip (storeData [.n64] [0])).map fun y => (x.1, y.1, y.2)) s2 = (s3, [], false) ∧
      gangStores gg (good.flatMap fun x => (x.2.zip (storeData [.n64] [0])).map fun y => (x.1, y.1, y.2)) s3 = (s4, late)) ∧
    ∃ s1 s2 s3 s4 as late, ReadsS (sg gg) gg [10, 11] [] ∧ checkPieces gg.agent 0 [8] 8 .store true (sg gg) = .ok s1 as ∧
      relG cg (some .cl) s1 = .ok s2 ∧ s2.errs = [] ∧
      storeRoom gg ((as.zip (storeData [.n64] [0])).map fun e => (0, e)) s2 = (s3, [], false) ∧
      gangStores gg ((as.zip (storeData [.n64] [0])).map fun e => (0, e)) s3 = (s4, late) :=
  ⟨⟨_, _, _, _, ⟨rfl, rfl⟩, rfl, by decide, rfl, rfl⟩,
    ⟨_, _, _, _, _, _, ⟨rfl, by decide, rfl, by decide⟩, rfl, rfl, rfl, rfl, rfl⟩,
    _, _, _, _, _, _, ⟨rfl, rfl⟩, rfl, rfl, rfl, rfl, rfl⟩

/-- The gang with one active lane. -/
def g1 : Gang := freshGang cg 0 (some tid) 0 hdr 0x1000 0 1

theorem test_witness_PrefetchAndCacheControl :
    (∃ s1, ReadsT (st th) th [10] [0] th ∧ cacheControl ccWriteBack th.agent 0 (st th) = .done s1) ∧
    (∃ s1, RunsG (sg g1) g1 ∧ g1.xOk [10] = true ∧ g1.active hd = [0] ∧ g1.readX 10 0 = some 0 ∧
      (sg g1).regErr cg [xDst 10 0] = none ∧ ReadsS (sg g1) g1 [10] [] ∧ cacheControl ccRecall g1.agent 0 (sg g1) = .done s1) ∧
    RunsT (st { th with priv := false }) { th with priv := false } hd ∧ th.priv = true ∧ FreeT (st th) th [12] ∧
    (st th).part? 0 = some (freshPartition cfg) ∧ (st th).ops = [] ∧
    ((st th).ccClear 0 fun l => ((freshPartition cfg).pinChanges 0 3).contains l.way).2 = true ∧ (3 : BitVec 2).toNat ≠ (freshPartition cfg).pinned 0 ∧
    (0 : BitVec 2).toNat = (freshPartition cfg).pinned 0 :=
  ⟨⟨_, ⟨rfl, rfl⟩, rfl⟩, ⟨_, ⟨rfl, rfl, rfl⟩, rfl, rfl, rfl, rfl, ⟨rfl, rfl⟩, rfl⟩, ⟨rfl, rfl, rfl⟩, rfl, ⟨rfl, rfl⟩, rfl, rfl,
    rfl, by decide, rfl⟩

theorem test_witness_WhereStoresGo : (st ths).storesOk = true ∧ RunsT (st ths) ths hd ∧ (st ths).gang? ths.id = none ∧
    ths.queueOn = false ∧ (st ths).ops = [] ∧ (st ths).errs = [] ∧ accS.own ths.id = true ∧ FreeT (st ths) ths [12] ∧
    ReadsT (st ths) ths [10] [0xFE00000004000040] ths ∧ ReadsT (st ths) ths [10, 11] [0xFE00000004000040, 0] ths ∧
    flagFull ths.flags (flagOf ths.line hd) = false ∧
    checkPieces ths.agent 0xFE00000004000040 [8] 8 .load true (st ths) = .ok (st ths) [accS] ∧
    checkPieces ths.agent 0xFE00000004000040 [8] 8 .store true (st ths) = .ok (st ths) [accS] ∧
    (st th).ops = [] ∧ (st th).errs = [] ∧ th.sb = [] ∧ th.agent.relHandler = false ∧
    checkPieces th.agent 0 [8] 8 .store true (st th) = .ok (st th) [accM] ∧ accM.space = .mem ∧ accM.addr % 8 = 0 :=
  ⟨rfl, ⟨rfl, rfl, rfl⟩, rfl, rfl, rfl, rfl, rfl, ⟨rfl, rfl⟩, ⟨rfl, rfl⟩, ⟨rfl, rfl⟩, rfl, rfl, rfl, rfl, rfl, rfl, rfl, rfl, rfl, rfl⟩

/-- Addresses of a window that does not exist, beyond the pinned region's bits, and one that is misaligned. -/
theorem test_witness_AccessChecksInOrder : window 0x0100000000000000 ≠ 0 ∧ window 0x0100000000000000 ≠ 0xFE ∧
    window 0x0100000000000000 ≠ 0xFD ∧ window 0xFD00000002000000 = 0xFD ∧ bits 0xFD00000002000000 55 25 ≠ 0 ∧
    window 0xFE00000000000000 = 0xFE ∧ { gg.agent with team := none }.team = none ∧ window 7 = 0 ∧ (7 : Word).toNat % 8 ≠ 0 ∧
    RunsT (st (thx 7)) (thx 7) hd ∧ ReadsT (st (thx 7)) (thx 7) [10] [7] (thx 7) ∧ FreeT (st (thx 7)) (thx 7) [12] ∧
    flagFull (thx 7).flags (flagOf (thx 7).line hd) = false :=
  ⟨by decide, by decide, by decide, by decide, by decide, by decide, rfl, by decide, by decide, ⟨rfl, rfl, rfl⟩, ⟨rfl, rfl⟩,
    ⟨rfl, rfl⟩, rfl⟩

/-- An acquiring and releasing atomic on the own scratchpad: in a thread, in two lanes, and once for the gang. -/
def amoQ : AmoReq := { op := .add, cas := false, red := false, sc := .cl, rel := true, acq := true, sz8 := true, off := 0, xd := 12, srcs := [10, 11] }
def gAmo : Gang := (gg.setPair 10 0 0xFE00000004000040).setPair 10 1 0xFE00000004000040
def gAmoS : Gang := gg.setS 10 0xFE00000004000040

theorem test_witness_Atomics : (∃ s1 s2 s3 a lv, RunsT (st ths) ths hd ∧ ReadsT (st ths) ths [10, 11] [0xFE00000004000040, 0] ths ∧
      FreeT (st ths) ths [12] ∧ ths.pend < 32 ∧
      checkAccess ths.agent 0xFE00000004000040 8 8 .atomic true (st ths) = .ok s1 a lv ∧ s1.storeErr a 8 = none ∧
      relT ct (some .cl) s1 = .ok s2 ∧ drainUnder ct a 8 s2 = .ok s3 ∧
      amoAwait ct amoQ false [amoQ.elt a (.x 0 12) [0xFE00000004000040, 0]] s3 = none) ∧
    (∃ s1 s2 s3 good rows, ReadsG (sg gAmo) gAmo hd [10, 11] [12] rows ∧ gAmo.pend < 64 ∧
      (sg gAmo).busy cg ((gAmo.active hd).map fun l => Dst.pair 12 l) = false ∧
      checkLanes gAmo.agent [8] 8 .atomic true (rows.map fun x => (x.1, x.2.getD 0 0)) (sg gAmo) = ⟨s1, good, [], [], false⟩ ∧
      s1.errs = [] ∧ relG cg (some .cl) s1 = .ok s2 ∧ drainAll cg 8 (good.flatMap (·.2)) s2 = .ok s3 ∧
      amoAwait cg amoQ false (laneAmos amoQ rows good) s3 = none) ∧
    ∃ s1 s2 s3 a lv, ReadsS (sg gAmoS) gAmoS [10, 11] [12] ∧
      checkAccess gAmoS.agent (gAmoS.getS 10) 8 8 .atomic true (sg gAmoS) = .ok s1 a lv ∧
      s1.storeErr a 8 = none ∧ relG cg (some .cl) s1 = .ok s2 ∧ drainUnder cg a 8 s2 = .ok s3 ∧
      amoAwait cg amoQ true [amoQ.elt a (.s 12) [0xFE00000004000040, 0]] s3 = none :=
  ⟨⟨_, _, _, _, _, ⟨rfl, rfl, rfl⟩, ⟨rfl, rfl⟩, ⟨rfl, rfl⟩, by decide, rfl, rfl, rfl, rfl, rfl⟩,
    ⟨_, _, _, _, _, ⟨rfl, by decide, rfl, by decide⟩, by decide, rfl, rfl, rfl, rfl, rfl, rfl⟩,
    _, _, _, _, _, ⟨rfl, rfl⟩, rfl, rfl, rfl, rfl, rfl⟩

/-- An atomic in global memory whose line must be asked for first, and contexts inside one that they wait for: not yet performed,
and with the reply on its way. -/
def heldOp (c : CtxId) (k : OpKind) : Op := ⟨5, c, 0, 0, none, false, true, k⟩

theorem test_witness_AtomicsWaitedFor :
    (∃ s1 s2 s3 s4 a lv, ReadsT (st th) th [10, 11] [0, 0] th ∧ (st th).amoHeld ct = false ∧
      checkAccess th.agent 0 8 8 .atomic true (st th) = .ok s1 a lv ∧ relT ct (some .cl) s1 = .ok s2 ∧
      drainUnder ct a 8 s2 = .ok s3 ∧ amoAwait ct amoQ false [amoQ.elt a (.x 0 12) [0, 0]] s3 = some s4 ∧ s3.relAwait ct = none) ∧
    (∃ s1 s2 s3 s4 good rows, ReadsG (sg gg) gg hd [10, 11] [12] rows ∧
      checkLanes gg.agent [8] 8 .atomic true (rows.map fun x => (x.1, x.2.getD 0 0)) (sg gg) = ⟨s1, good, [], [], false⟩ ∧
      relG cg (some .cl) s1 = .ok s2 ∧ drainAll cg 8 (good.flatMap (·.2)) s2 = .ok s3 ∧
      amoAwait cg amoQ false (laneAmos amoQ rows good) s3 = some s4 ∧ s3.relAwait cg = none) ∧
    (∃ s1 s2 s3 s4 a lv, checkAccess gg.agent (gg.getS 10) 8 8 .atomic true (sg gg) = .ok s1 a lv ∧
      relG cg (some .cl) s1 = .ok s2 ∧ drainUnder cg a 8 s2 = .ok s3 ∧
      amoAwait cg amoQ true [amoQ.elt a (.s 12) [0, 0]] s3 = some s4 ∧ s3.relAwait cg = none) ∧
    (ct.wide = false ∧ ({ st th with ops := [heldOp ct (.atomic [])] } : State).amoHeld ct = true ∧
      ({ st th with ops := [heldOp ct (.atomic [])] } : State).heldReplies ct = none ∧
      ({ st th with ops := [heldOp ct (.fills [(.x 0 12, 3)])] } : State).heldReplies ct = some [(.x 0 12, 3)]) ∧
    cg.wide = true ∧ ({ sg gg with ops := [heldOp cg (.atomic [])] } : State).amoHeld cg = true ∧
      ({ sg gg with ops := [heldOp cg (.atomic [])] } : State).heldReplies cg = none ∧
      ({ sg gg with ops := [heldOp cg (.fills [(.s 12, 3)])] } : State).heldReplies cg = some [(.s 12, 3)] :=
  ⟨⟨_, _, _, _, _, _, ⟨rfl, rfl⟩, rfl, rfl, rfl, rfl, rfl, rfl⟩,
    ⟨_, _, _, _, _, _, ⟨rfl, by decide, rfl, by decide⟩, rfl, rfl, rfl, rfl, rfl⟩,
    ⟨_, _, _, _, _, _, rfl, rfl, rfl, rfl, rfl⟩, ⟨rfl, rfl, rfl, rfl⟩, rfl, rfl, rfl, rfl⟩

/-- An integer operation and a compare-and-swap at the access of the scratchpad. -/
theorem test_witness_AtomicAtItsUnit : (st th).storesOk = true ∧ (st th).errs = [] ∧
    (∃ e : AmoElt, e.acc = accS ∧ e.cmp = none ∧ e.op ≠ .fadd ∧ e.op ≠ .fmin ∧ e.op ≠ .fmax ∧ e.op ≠ .minI ∧ e.op ≠ .maxI) ∧
    ∃ e : AmoElt, e.acc = accS ∧ e.cmp = some 5 :=
  ⟨rfl, rfl, ⟨⟨false, accS, .add, none, 0, true, .none⟩, rfl, rfl, by decide, by decide, by decide, by decide, by decide⟩,
    ⟨false, accS, .swap, some 5, 0, true, .none⟩, rfl, rfl⟩

/-- With an armed monitor for x12. -/
def thm : Thread := { th with monitors := [⟨.mem, 0, th.dst 12⟩] }
def thm4 : Thread := { th with monitors := List.replicate 4 ⟨.mem, 0, th.dst 13⟩ }

theorem test_witness_FencesAndMonitors :
    (RunsT (st th) th hd ∧ (st th).copying ct = false ∧ (st th).opsAwait ct (fun o => o.kind.isLoad || o.rel) = none ∧
      ∃ s2, releaseThread ct .dv (settleLoads ct (st th)) = .ok s2) ∧
    (RunsG (sg gg) gg ∧ gg.active hd ≠ [] ∧ (sg gg).copying cg = false ∧ gg.matBusy = false ∧
      (sg gg).opsAwait cg (fun o => o.kind.isLoad || o.rel) = none ∧ ∃ s2, releaseGang cg .dv (settleLoads cg (sg gg)) = .ok s2) ∧
    (ReadsT (st th) th [10] [0] th ∧ FreeT (st th) th [12] ∧
      checkAccess th.agent 0 1 1 .load true (st th) = .ok (st th) accM 3 ∧ th.monitors.length < 4 ∧ watchable accM = true) ∧
    (4 ≤ thm4.monitors.length ∧ RunsT (st thm4) thm4 hd ∧ watchable { accM with host := true } = false) ∧
    (∀ m ∈ th.monitors, m.dst ≠ th.dst 12) ∧ RunsT (st thm) thm hd ∧ (st thm).pushBlocked thm [12] = false ∧ ∃ m ∈ thm.monitors, m.dst = thm.dst 12 :=
  ⟨⟨runsT, rfl, rfl, _, rfl⟩, ⟨runsG, by decide, rfl, rfl, rfl, _, rfl⟩, ⟨⟨rfl, rfl⟩, ⟨rfl, rfl⟩, rfl, by decide, rfl⟩,
    ⟨by decide, ⟨rfl, rfl, rfl⟩, rfl⟩, by decide, ⟨rfl, rfl, rfl⟩, rfl, _, List.mem_singleton.2 rfl, rfl⟩

theorem test_witness_CopiesAndChannels :
    (∃ s1, RunsT (st th) th hd ∧ ReadsT (st th) th [12, 10, 11] [0, 0, 0] th ∧ flagFull th.flags (flagOf th.line hd) = false ∧
      issueCopy th.agent th.ptbase (copyReq false none false false 15 [0, 0, 0]) 0 1 (st th) = .ok s1) ∧
    (∃ s1, RunsG (sg gg) gg ∧ ReadsS (sg gg) gg [12, 10, 11] [] ∧ gg.team = some tid ∧
      issueCopy gg.agent gg.ptbase (copyReq false none false false 0 [0, 0, 0]) gg.vregs gg.width (sg gg) = .ok s1) ∧
    (st th).chan? tid 15 = some Channel.idle ∧ Channel.idle.state ≠ .active ∧ ReadsT (st th) th [10] [0] th ∧
    (st th).chan? tid 16 = none ∧ FreeT (st th) th [12] ∧ gg.xOk [12] = true ∧ gg.active hd = [0, 1] ∧
    (sg gg).busy cg ([0, 1].map fun l => Dst.pair 12 l) = false ∧ gg.sOk [12] = true ∧ ReadsS (sg gg) gg [10] [] :=
  ⟨⟨_, runsT, ⟨rfl, rfl⟩, rfl, rfl⟩, ⟨_, runsG, ⟨rfl, rfl⟩, rfl, rfl⟩, rfl, by decide, ⟨rfl, rfl⟩, rfl, ⟨rfl, rfl⟩, rfl, rfl,
    rfl, rfl, rfl, rfl⟩

/-- A graph of one location of class 1 at level TEAM with an edge to itself, one that is deleted, and two counted messages. -/
def graph : Graph :=
  ⟨[⟨1, 0, 0, 0, 0, false, 0⟩, ⟨2, 0, 0, 1, 0, true, 0⟩], [⟨0, 0, 0, 0, false⟩], [⟨0, 0, ⟨[0], []⟩⟩]⟩

def pt0 : CountPt := ⟨.team tid, 0, 0⟩

def part : Partition := { freshPartition cfg with graph := graph, opened := [.team tid], counts := [⟨pt0, 2⟩] }

/-- A message of class 1, and the device with the graph. -/
def msg0 : Msg := ⟨0, 1, 0, some 0, 0, none, some pt0, 0, 0, [], 0, 0, none, false, none, none, none⟩
def sgr (t : Thread) : State := { st t with parts := [part] }

/-- A thread in the handler of a message, with a capability. -/
def thMsg : Thread := { thx 1 with msg := some msg0, caps := [⟨1, pt0, none⟩] }

theorem test_witness_Messages : RunsT (sgr thMsg) thMsg hd ∧
    (∃ vs t1 loc f q s1, ReadsT (sgr thMsg) thMsg (sendRegs 8 11 0) vs t1 ∧
      sendPoint (illegalOp thMsg.pc thMsg.line rVariant) thMsg.msg thMsg.caps 0 (vs.getD 0 0) = .ok (loc, f) ∧
      sendFrom (sgr thMsg) thMsg.agent 0 loc f (vs.getD 1 0) (vs.drop 2) = .ok q ∧
      releaseThread ct q.dest.scope (settleLoads ct (sgr thMsg)) = .ok s1 ∧
      (sgr thMsg).room 0 [q.pt] = true ∧ s1.overLimit 0 [] [(0, q.pt)] = []) ∧
    (∃ loc f, sendPoint (illegalOp 0 none rVariant) thMsg.msg thMsg.caps 0 1 = .ok (loc, f)) ∧
    (RunsT (st th) th hd ∧ th.msg = none) ∧
    (thMsg.msg = some msg0 ∧ msg0.gang = none ∧ (sgr thMsg).copying ct = false ∧
      ∃ s1 u, releaseThread ct (msgScope (sgr thMsg) 0 msg0) (settleLoads ct (sgr thMsg)) = .ok s1 ∧ s1.thread? ct = some u ∧
        u.unacked = 0) ∧
    (∃ m ms, { th with inbox := [msg0] }.inbox = m :: ms) ∧ th.inbox = [] ∧
    (ReadsT (st th) th [10] [0] th ∧ bindRefused (st th) th 15 = false ∧ bindRefused (st { th with cls := some 1 }) { th with cls := some 1 } 0 = true ∧
      ∃ s1, releaseThread ct .tm (settleLoads ct (st th)) = .ok s1) :=
  ⟨⟨rfl, rfl, rfl⟩, ⟨_, _, _, _, _, _, ⟨rfl, rfl⟩, rfl, rfl, rfl, rfl, rfl⟩, ⟨_, _, rfl⟩, ⟨runsT, rfl⟩,
    ⟨rfl, rfl, rfl, _, _, rfl, rfl, rfl⟩, ⟨_, _, rfl⟩, rfl, ⟨⟨rfl, rfl⟩, rfl, rfl, _, rfl⟩⟩

/-- Folios that are malformed, of depth 0, of depth 3 and of depth 1 with a counter at its limit. -/
theorem test_witness_FolioEnterLeave :
    RunsT (st th) th hd ∧ ReadsT (st th) th [10] [0] th ∧ FreeT (st th) th [12] ∧ enterFolio 5 0 = .ok (mkFolio [0, 5]) ∧
    folioOk 0x8000000000000000 = false ∧ (folioOk (mkFolio [1, 2, 3, 4]) = true ∧ folioDepth (mkFolio [1, 2, 3, 4]) = 3) ∧
    (folioOk 0 = true ∧ folioDepth 0 = 0) ∧ leaveFolio (mkFolio [0, 5]) = .ok 0 ∧ enterFolio 0xFFFF 0 = .ok (mkFolio [0, 0xFFFF]) ∧
    (∃ ti, enterFolio 0x1000 (mkFolio [0, 0, 0]) = .error ti) ∧
    RunsG (sg g1) g1 ∧ g1.xOk [10, 12] = true ∧ g1.active hd = [0] ∧ g1.readX 10 0 = some 0 ∧
    (sg g1).regErr cg [xDst 10 0] = none ∧ (sg g1).busy cg [.pair 12 0] = false ∧ ReadsS (sg gg) gg [10] [12] :=
  ⟨runsT, ⟨rfl, rfl⟩, ⟨rfl, rfl⟩, rfl, rfl, ⟨rfl, rfl⟩, ⟨rfl, rfl⟩, rfl, rfl, ⟨_, rfl⟩, ⟨rfl, rfl, rfl⟩, rfl, rfl, rfl, rfl, rfl,
    rfl, rfl⟩

/-- Between the two halves of a `finc`. -/
def thMove : Thread := { thx 1 with caps := [⟨1, pt0, some 5⟩] }

theorem test_witness_Capabilities : RunsT (sgr thMsg) thMsg hd ∧ ReadsT (sgr thMsg) thMsg [11] [0] thMsg ∧
    (∃ ti, holdCheck (sgr thMsg) thMsg.agent thMsg.caps 1 0 = .trap ti) ∧
    holdCheck (sgr thMsg) thMsg.agent thMsg.caps 0 0 = .ok pt0 2 ∧ FreeT (sgr thMsg) thMsg [12] ∧
    (sgr thMsg).overLimit 0 [] [(0, pt0)] = [] ∧ (sgr thMsg).room 0 [pt0] = true ∧
    freeHandle thMsg.caps = some 2 ∧ freeHandle ((List.range 7).map fun i => ⟨i + 1, pt0, none⟩) = some 8 ∧
    (ReadsT (sgr thMsg) thMsg [10, 11] [1, 0] thMsg ∧ incCheck (sgr thMsg) thMsg.agent thMsg.caps 1 0 = .ok pt0 1 ∧
      (thMsg.caps.find? fun x => x.handle == 1) = some ⟨1, pt0, none⟩ ∧ (sgr thMsg).copying ct = false ∧
      ∃ s1, capRelease ct 0 [pt0.loc] (sgr thMsg) = .ok s1) ∧
    (RunsT (sgr thMove) thMove hd ∧ ReadsT (sgr thMove) thMove [10, 11] [1, 0] thMove ∧
      incCheck (sgr thMove) thMove.agent thMove.caps 1 0 = .ok pt0 1 ∧
      (thMove.caps.find? fun x => x.handle == 1) = some ⟨1, pt0, some 5⟩ ∧ thMove.unacked = 0) ∧
    (∀ k ∈ thMsg.caps, BitVec.ofNat 64 k.handle ≠ 0) ∧ dropCheck thMsg.caps 1 = .ok pt0 1 ∧
    ∃ s1 u, capRelease ct 0 [pt0.loc] (sgr thMsg) = .ok s1 ∧ s1.thread? ct = some u ∧ u.unacked = 0 :=
  ⟨⟨rfl, rfl, rfl⟩, ⟨rfl, rfl⟩, ⟨_, rfl⟩, rfl, ⟨rfl, rfl⟩, rfl, rfl, rfl, rfl, ⟨⟨rfl, rfl⟩, rfl, rfl, rfl, _, rfl⟩,
    ⟨⟨rfl, rfl, rfl⟩, ⟨rfl, rfl⟩, rfl, rfl, rfl⟩, by decide, rfl, _, _, rfl, rfl, rfl⟩

/-- A location that is deleted, one of an instance that is not opened, one whose count is not closed, and none. -/
theorem test_witness_FolioWaitProbe : RunsT (sgr th) th hd ∧ ReadsT (sgr th) th [10] [0] th ∧ FreeT (sgr th) th [12] ∧
    (sgr th).relAwait ct = none ∧ waitCheck (sgr th) th.agent 1 0 = .closed .tm ∧
    waitCheck { sgr th with parts := [{ part with opened := [] }] } th.agent 0 0 = .free ∧
    waitCheck (sgr th) th.agent 0 0 = .wait ∧ ∃ ti, waitCheck (sgr th) th.agent 2 0 = .trap ti :=
  ⟨⟨rfl, rfl, rfl⟩, ⟨rfl, rfl⟩, ⟨rfl, rfl⟩, rfl, rfl, rfl, rfl, _, rfl⟩

/-- A leaf's header at 0, for the entry 0x40: kind 2, width 8, 32 v registers. -/
def hdrMem : Tab Byte := [(0, 0x46), (1, 0x49), (2, 0x53), (3, 0x33), (4, 3), (6, 2), (7, 1), (8, 32)]
def sgal : State := { st (thx 0x40) with mem := hdrMem }

/-- A galley gang of one lane. -/
def ggal : Gang := { g1 with team := none }
def thCall : Thread := { th with state := .parked .gcall }

theorem test_witness_GalleyCallsAndReturns :
    (∃ s1 b vs t2 s2, RunsT sgal (thx 0x40) hd ∧ (thx 0x40).readX 10 = some (0x40, thx 0x40) ∧
      sgal.regErr ct [(thx 0x40).dst 10] = none ∧ fetchBytes ct 0 0 (BitVec.ofNat 64 (0x40 / 64 * 64) - 64) sgal = .ok s1 b ∧
      0x40 % 64 = (headerOf b).entry ∧ headerValid b = true ∧ (headerOf b).kind = 2 ∧ leafTooBig s1 (thx 0x40) (headerOf b) = false ∧
      (thx 0x40).readXs [24, 25, 26, 27, 28, 29, 30, 31] = some (vs, t2) ∧
      s1.regErr ct ([24, 25, 26, 27, 28, 29, 30, 31].map (thx 0x40).dst) = none ∧
      releaseThread ct .cl (settleLoads ct s1) = .ok s2) ∧
    (∃ s1 b, RunsT (st th) th hd ∧ fetchBytes ct 0 0 (BitVec.ofNat 64 (0x40 / 64 * 64) - 64) (st th) = .ok s1 b ∧
      headerValid b = false) ∧
    (∃ s1 rows, RunsG (sg ggal) ggal ∧ ggal.galley = true ∧ ggal.active hd ≠ [] ∧
      (ggal.active hd).mapM (fun l => (ggal.readXs [8, 9, 10, 11, 12, 13, 14, 15] l).map fun vs => (l, vs)) = some rows ∧
      (∀ l ∈ ggal.active hd, (sg ggal).regErr cg ([8, 9, 10, 11, 12, 13, 14, 15].map fun r => xDst r l) = none) ∧
      releaseGang cg .cl (settleLoads cg (sg ggal)) = .ok s1) ∧
    (st thCall).thread? ct = some thCall ∧ thCall.id = ct ∧ thCall.state = .parked .gcall ∧ (st thCall).errs = [] ∧
    ∀ o ∈ (st thCall).ops, o.owner = ct → o.rel = false :=
  ⟨⟨_, _, _, _, _, ⟨rfl, rfl, rfl⟩, rfl, rfl, rfl, rfl, rfl, rfl, rfl, rfl, rfl, rfl⟩, ⟨_, _, runsT, rfl, rfl⟩,
    ⟨_, _, ⟨rfl, rfl, rfl⟩, rfl, by decide, rfl, by decide, rfl⟩, rfl, rfl, rfl, rfl, by decide⟩

theorem test_witness_PrivilegedInstructions :
    (RunsT (st { th with priv := false }) { th with priv := false } hd ∧ { th with priv := false }.priv = false) ∧
    (RunsG (sg gg) gg ∧ gg.galley = false ∧ gg.xOk (nums [12, 10]) = true ∧ gg.active hd = [0, 1]) ∧
    PrivReady (st th) th hd 12 [] [] th ∧ PrivReady (st th) th hd 12 [10] [0] th ∧ (th.getX 12).full = true ∧
    NothingToRelease (st th) th ∧
    (∃ x ∈ (st th).teams, x.part = 0 ∧ x.home = 0 ∧ x.tile < 64 ∧ bitAt 1 x.tile = true ∧ x.state = .running) ∧
    (∀ x ∈ (st th).teams, bitAt 0 x.tile = false) ∧ (∀ u ∈ (st th).threads, u.id.word ≠ 1) ∧
    ((st th).threads.find? fun u => u.id.onDevice && u.id.word == 0 && u.part == 0) = some th ∧
    PrivReady (st (thx 1)) (thx 1) hd 12 [10] [1] (thx 1) ∧ (1 : Word).toNat % 8 ≠ 0 ∧
    ((st th).part? 0).elim false (·.walk.isSome) = false ∧
    ∃ s1 s2 bs, releaseThread ct .dv (keepQueue ct th (st th)) = .ok s1 ∧ readDescriptor false th.agent 0 s1 = .ok s2 bs :=
  ⟨⟨⟨rfl, rfl, rfl⟩, rfl⟩, ⟨runsG, rfl, rfl, rfl⟩, ⟨runsT, rfl, ⟨rfl, rfl⟩, rfl, rfl⟩, ⟨runsT, rfl, ⟨rfl, rfl⟩, rfl, rfl⟩, rfl,
    ⟨rfl, rfl, by decide⟩, ⟨team, List.mem_singleton.2 rfl, by decide⟩, by decide, by decide, rfl,
    ⟨⟨rfl, rfl, rfl⟩, rfl, ⟨rfl, rfl⟩, rfl, rfl⟩, by decide, rfl, _, _, _, rfl, rfl⟩

/-- A translation of the first 512 MiB, under which every page of an image can be written, and the device with it and some gangs. -/
def tlbBig : TlbEntry := ⟨0, 0, 0, 0, true, 0, true, true, true, false, true, true⟩
def sbig (gs : List Gang) : State := { st th with tlb := [tlbBig], utlb := [⟨0, 0, tlbBig⟩], gangs := gs }

theorem page_ok (gs : List Gang) (va : Word) (h : va.toNat < 2 ^ 29) (ha : va.toNat % 4096 = 0) :
    ∃ a l, checkPlain th.agent va 4096 4096 .store true (sbig gs) = .ok (sbig gs) a l := by
  have hw : window va = 0 := by simp [window, bits]; omega
  have hv : vpageOf true va.toNat = 0 := by simp [vpageOf, bits]; omega
  have hs : tlbBig.serves 0 0 0 va.toNat .store = true := by
    simp only [TlbEntry.serves, show tlbBig.big = true from rfl, hv]; rfl
  have ht : translateFor ct 0 0 va .store (sbig gs) = .ok (sbig gs) tlbBig := by
    unfold translateFor
    simp only [show (sbig gs).utlb = [⟨0, 0, tlbBig⟩] from rfl, List.find?_cons, show ct.tile = 0 from rfl,
      show ct.quarter = 0 from rfl, show ct.cluster = 0 from rfl, show bits (0 : Word).toNat 63 56 = 0 from rfl, hs]
    rfl
  have hh : ¬ hostBase ≤ tlbBig.pa va.toNat := by simp [hostBase, TlbEntry.pa, tlbBig]; omega
  have hp : place th.agent va 4096 .store (sbig gs) =
      .ok (sbig gs) ⟨.mem, tlbBig.pa va.toNat, va, tlbBig.c, decide (hostBase ≤ tlbBig.pa va.toNat)⟩ tlbBig.level := by
    unfold place
    simp only [boundsTrap, hw, show th.agent.id = ct from rfl, show th.agent.part = 0 from rfl, show th.agent.ptbase = 0 from rfl, ht,
      if_neg (show ¬ (0 : Nat) = 0xFE by decide), if_neg (show ¬ (0 : Nat) = 0xFD by decide)]
    rfl
  exact ⟨⟨.mem, tlbBig.pa va.toNat, va, tlbBig.c, decide (hostBase ≤ tlbBig.pa va.toNat)⟩, tlbBig.level, by
    unfold checkPlain; simp [windowTrap, hw, ha, hp, hh, State.opsAwait, show (sbig gs).ops = [] from rfl]⟩

theorem pages_ok (gs : List Gang) : ∀ vs : List Word, (∀ v ∈ vs, v.toNat < 2 ^ 29 ∧ v.toNat % 4096 = 0) →
    ∃ as, imagePagesAt th.agent .store vs (sbig gs) = .ok (sbig gs) as
  | [], _ => ⟨[], rfl⟩
  | v :: vs, h => by
    obtain ⟨a, l, ha⟩ := page_ok gs v (h v (by simp)).1 (h v (by simp)).2
    obtain ⟨as, hs⟩ := pages_ok gs vs fun x hx => h x (by simp [hx])
    have hw : window v = 0 := by have := (h v (by simp)).1; simp [window, bits]; omega
    exact ⟨a :: as, by simp [imagePagesAt, hw, ha, hs]⟩

theorem image_ok (gs : List Gang) : ∃ as,
    imagePagesAt th.agent .store (pageVas 0 ((Config.imagePages (sbig gs).nextId).toNat + 1))
      { keepQueue ct th (sbig gs) with preReqs := [] } = .ok (sbig gs) as :=
  pages_ok gs _ fun v hv => by
    obtain ⟨i, hi, rfl⟩ := List.mem_map.1 hv
    have := (Config.imagePages (sbig gs).nextId).isLt
    have hl := List.mem_range.1 hi
    simp [w64]; omega

/-- A device with a saved team whose image is empty, of a launch that has not ended and of one that has. -/
def ssav (l : Launch) : State := { st th with saved := [⟨tid, true, some (0, [])⟩], launches := [l] }

/-- A gang of the team that is inside a line, so that the team cannot be saved yet. -/
def gIn : Gang := { gg with line := some 0 }

theorem test_witness_ContextSaveRestore :
    (PrivReady (sbig []) th hd 12 [10, 11] [0, 0] th ∧ imageCheck [0, 0] = none ∧
      (∃ as, imagePagesAt th.agent .store (pageVas 0 ((Config.imagePages (sbig []).nextId).toNat + 1))
        { keepQueue ct th (sbig []) with preReqs := [] } = .ok (sbig []) as) ∧
      (sbig []).namedTeam 0 0 0 = some team ∧ team.state = .running ∧
      ((sbig []).saveGroup team).all (sbig []).savable = true ∧
      ((sbig []).namedTeam 0 5 0).all (fun tm => tm.state != .running) = true) ∧
    (PrivReady (sbig [gIn]) th hd 12 [10, 11] [0, 0] th ∧
      (∃ as, imagePagesAt th.agent .store (pageVas 0 ((Config.imagePages (sbig [gIn]).nextId).toNat + 1))
        { keepQueue ct th (sbig [gIn]) with preReqs := [] } = .ok (sbig [gIn]) as) ∧
      (sbig [gIn]).namedTeam 0 0 0 = some team ∧ ((sbig [gIn]).saveGroup team).all (sbig [gIn]).savable = false) ∧
    (RunsT (st th) th hd ∧ ReadsT (st th) th [10] [0] th ∧
      ∃ s1 as, imagePagesAt th.agent .load [BitVec.ofNat 64 (0 / 4096 * 4096)] (st th) = .ok s1 as ∧
        s1.imageAt 0 (readImage th.agent 0 s1) 0 = none) ∧
    (∃ s1 as v, imagePagesAt th.agent .load [BitVec.ofNat 64 (0 / 4096 * 4096)] (ssav launch) = .ok s1 as ∧
      s1.imageAt 0 (readImage th.agent 0 s1) 0 = some v ∧ (s1.launch? v.id.launch).all (fun l => l.state == .ended) = false) ∧
    ∃ s1 as v, imagePagesAt th.agent .load [BitVec.ofNat 64 (0 / 4096 * 4096)] (ssav { launch with state := .ended }) = .ok s1 as ∧
      s1.imageAt 0 (readImage th.agent 0 s1) 0 = some v ∧ (s1.launch? v.id.launch).all (fun l => l.state == .ended) = true :=
  ⟨⟨⟨⟨rfl, rfl, rfl⟩, rfl, ⟨rfl, rfl⟩, rfl, rfl⟩, rfl, image_ok [], rfl, rfl, rfl, rfl⟩,
    ⟨⟨⟨rfl, rfl, rfl⟩, rfl, ⟨rfl, rfl⟩, rfl, rfl⟩, image_ok [gIn], rfl, rfl⟩, ⟨runsT, ⟨rfl, rfl⟩, _, _, rfl, rfl⟩, ⟨_, _, _, rfl, rfl, rfl⟩, _, _, _, rfl, rfl, rfl⟩

/-- The device with a gang and no record of its team, in which nothing is in flight. -/
def sv (g : Gang) : State := { sg g with teams := [] }

theorem vecReady (ok : Bool) (hok : ok = true) (reads : Nat → List (Nat × Nat)) (ds : List Dst) :
    VecReady (sv gg) gg hd ok reads ds :=
  ⟨⟨rfl, rfl, rfl⟩, hok, by decide, fun _ _ _ _ => rfl, by
    simp [State.busy, show (sv gg).ops = [] from rfl, show (sv gg).gang? gg.id = some gg from rfl,
      show (sv gg).thread? gg.id = none from rfl, show (sv gg).teams = [] from rfl, show gg.awaitW = [] from rfl,
      show gg.awaitN = [] from rfl, show gg.arrivalW = none from rfl, show gg.arrivalN = none from rfl, awaited], rfl⟩

theorem test_witness_VectorElements : VecReady (sv gg) gg hd (opsOk true [2, 4, 94] gg)
      (fun l => opReads true (vnums [4, 94]) l) ((gg.active hd).map fun l => opDst true 2 l) ∧
    VecReady (sv gg) gg hd (opsOk false [95, 1, 2, 3] gg) (fun l => opReads false (vnums [1, 2, 3]) l)
      ((gg.active hd).map fun l => Dst.v 95 l) ∧ flagFull gg.flags (flagOf gg.line hd) = false ∧
    (∃ fs seed, lateLanes false 1 (elemVal .f32 true (vnums [2, 3]) fun _ _ => 0) gg (gg.active hd) = (fs, seed)) ∧
    (st th).cur = some ct ∧ (st th).thread? ct = some th ∧ (∃ x, etyFF .bf16x2 = some x) :=
  ⟨vecReady _ rfl _ _, vecReady _ rfl _ _, rfl, ⟨_, _, rfl⟩, rfl, rfl, _, rfl⟩

theorem test_witness_VectorFormats :
    VecReady (sv gg) gg hd (opsOk true [2, 4] gg) (fun l => opReads true [2, 4] l) [] ∧
    VecReady (sv gg) gg hd
      ((gg.okOp false 10 && ((List.range (pfmtParts .e2m1)).all fun n => gg.okOp false (88 + n))) && (!(true && true) || gg.okOp false 95))
      (fun l => ((List.range (pfmtParts .e2m1)).map fun n => (88 + n, l)) ++ [(95, l)]) ((gg.active hd).map fun l => Dst.v 10 l) ∧
    VecReady (sv gg) gg hd (gg.okOp false 10 && gg.okOp false 20 && (List.range 16).all fun n => gg.okOp false (80 + n))
      (fun l => (20, l) :: (List.range 16).map fun n => (80 + n, l)) ((gg.active hd).map fun l => Dst.v 10 l) ∧
    (st th).cur = some ct ∧ (st th).thread? ct = some th :=
  ⟨vecReady _ rfl _ _, vecReady _ rfl _ _, vecReady _ rfl _ _, rfl, rfl⟩

/-- A k of the whole width, one beyond it and 0. -/
theorem test_witness_VectorLanes : VecReady (sv gg) gg hd (opsOk false [8, 9] gg) (fun l => [(8, l), (9, l)])
      ((List.range 64).flatMap fun j => [Dst.v 40 j, Dst.v 41 j]) ∧
    VecReady (sv gg) gg hd (opsOk false [8, 44] gg && gg.okOp false 9 && gg.okOp false 45)
      (fun _ => (List.range 64).flatMap fun j => [(8, j), (9, j), (44, j), (45, j)])
      ((List.range 64).flatMap fun j => [Dst.v 40 j, Dst.v 41 j]) ∧
    1 ≤ (64 : BitVec 9).toNat ∧ (64 : BitVec 9).toNat ≤ gg.width ∧ gg.okOp false 40 = true ∧ gg.okOp false 41 = true ∧
    gg.sOk [3] = true ∧ RunsG (sg gg) gg ∧ gg.width < (65 : BitVec 9).toNat ∧ gg.galley = false ∧ lanesOf gg.lanes = [0, 1] ∧
    VecReady (sv gg) gg hd (gg.sOk [3]) (fun _ => []) [] :=
  ⟨vecReady _ rfl _ _, vecReady _ rfl _ _, by decide, by decide, rfl, rfl, rfl, runsG, by decide, rfl, rfl, vecReady _ rfl _ _⟩

theorem test_witness_VectorMemory :
    (∃ s1 good, VecAccess (sv gg) s1 gg hd (gg.okOp false 10) [5] (fun _ => []) (fun l => [opDst false 10 l]) 4 .load true
      (fun l => [(BitVec.ofNat 64 (4 * l), 4)]) good) ∧
    (∃ s1 s2 s3 good late, VecAccess (sv gg) s1 gg hd (gg.okOp false 10) [5] (fun l => opReads false [10] l) (fun _ => []) 4 .store true
        (fun l => [(BitVec.ofNat 64 (4 * l), 4)]) good ∧ s1.errs = [] ∧
      storeRoom gg (good.flatMap fun x => x.2.map fun a => (x.1, a, toBytes 4 0)) s1 = (s2, [], false) ∧
      gangStores gg (good.flatMap fun x => x.2.map fun a => (x.1, a, toBytes 4 0)) s2 = (s3, late)) ∧
    (∃ s1 s2 good, VecAccess (sv gg) s1 gg hd (gg.okOp true 4 && ([2, 6].all (gg.okOp true))) [] (fun l => opReads true [4, 6] l)
        (fun l => [opDst true 2 l]) 8 .atomic true (fun l => [(BitVec.ofNat 64 (gg.getE true 4 l), 8)]) good ∧
      drainAll cg 8 (good.flatMap (·.2)) s1 = .ok s2) ∧
    ∃ s1 s2 l0 a as rest, VecAccess (sv gg) s1 gg hd (opsOk true [2, 4] gg) [5] (fun l => opReads true [4] l)
        (fun l => [opDst true 2 l]) 8 .atomic true (fun _ => [(0, 8)]) ((l0, a :: as) :: rest) ∧
      drainAll cg 8 ((((l0, a :: as) :: rest)).flatMap (·.2)) s1 = .ok s2 :=
  ⟨⟨_, _, vecReady _ rfl _ _, rfl, rfl, rfl⟩, ⟨_, _, _, _, _, ⟨vecReady _ rfl _ _, rfl, rfl, rfl⟩, rfl, rfl, rfl⟩,
    ⟨_, _, _, ⟨vecReady _ rfl _ _, rfl, rfl, rfl⟩, rfl⟩, _, _, _, _, _, _, ⟨vecReady _ rfl _ _, rfl, rfl, rfl⟩, rfl⟩

/-- A one-by-one torus, and the gang waiting in its join. -/
def ltor : Launch := { launch with hdr := { hdr with corows := 1, cocols := 1 } }
def stor (g : Gang) : State := { sg g with launches := [ltor] }
def gjoin : Gang := { gg with inJoin := true, joinDone := true }
def mm0 : MM := ⟨1, 4, 5, 0, .i8, .i8, false, false⟩
def gnarrow : Gang := { gg with width := 16 }

/-- A block of another tile on its way, and an ended operation of tile 1. -/
def gsend : Gang := { gg with pendingSends := [(true, ⟨0, 0, []⟩)], matOps := [⟨mm0, false, 0, (0, 0), none, [], false, true, none⟩] }

theorem test_witness_MatrixQueueAndWaits : RunsG (sg gg) gg ∧ gg.active hd ≠ [] ∧ gg.width = 64 ∧ MM.inAlloc mm0 gg = true ∧
    engineRoom (sg gg) gg ∧ flagFull gg.flags (flagOf gg.line hd) = false ∧
    (RunsG { sg gg with launches := [launch] } gg ∧ ({ sg gg with launches := [launch] } : State).torus gg = none) ∧
    (RunsG (stor gg) gg ∧ engineRoom (stor gg) gg ∧ (stor gg).torus gg = some (ltor, 0) ∧
      ((stor gg).participant ltor gg.num (ltor.west 0)).isSome = true ∧ ((stor gg).participant ltor gg.num (ltor.north 0)).isSome = true) ∧
    (RunsG (sg gnarrow) gnarrow ∧ gnarrow.width ≠ 64 ∧ gnarrow.galley = false ∧ lanesOf gnarrow.lanes = [0, 1]) ∧
    (sg gg).vFillPending gg = false ∧ (RunsG (sg gsend) gsend ∧ (1 : AccReg).toNat < gsend.accs ∧
      (∀ x ∈ gsend.pendingSends, x.2.acc ≠ (1 : AccReg).toNat) ∧
      ∀ o ∈ gsend.matOps, o.mm.acc = 1 ∧ o.ended = true ∧ o.err = none) ∧ (gg.pendingSends = [] ∧ gg.matOps = []) ∧
    (RunsG (stor gjoin) gjoin ∧ (stor gjoin).torus gjoin = some (ltor, 0) ∧ gjoin.inJoin = true ∧ gjoin.joinDone = true) ∧
    gg.inJoin = false ∧ (stor gg).joinMissing ltor gg.num = none ∧ ∃ s1, releaseGang cg .cl (settleLoads cg (stor gg)) = .ok s1 :=
  ⟨runsG, by decide, rfl, rfl, by decide, rfl, ⟨⟨rfl, rfl, rfl⟩, rfl⟩, ⟨⟨rfl, rfl, rfl⟩, by decide, rfl, rfl, rfl⟩,
    ⟨⟨rfl, rfl, rfl⟩, by decide, rfl, rfl⟩, rfl, ⟨⟨rfl, rfl, rfl⟩, by decide, by decide, by decide⟩, ⟨rfl, rfl⟩,
    ⟨⟨rfl, rfl, rfl⟩, rfl, rfl, rfl⟩, rfl, rfl, _, rfl⟩

theorem test_witness_MatrixTiles : RunsG (sv gg) gg ∧ gg.active hd ≠ [] ∧ (sv gg).errs = [] ∧ gg.matOps = [] ∧ twf 0 gg.acc = true ∧
    twf 0 gg.v = true ∧ flagFull gg.flags (flagOf gg.line hd) = false ∧ (1 : AccReg).toNat < gg.accs ∧ gg.width = 64 ∧
    gg.vOk (moveRegs 5 0 (mwrParts none)) = true ∧ (∀ r ∈ moveRegs 5 0 (mwrParts none), ∀ l, l < 64 → gg.fullV r l = true) ∧
    gg.vOk (moveRegs 5 12 (mrdParts (.i8 true))) = true ∧
    (sv gg).busy cg ((moveRegs 5 0 (mrdParts .raw)).flatMap fun r => (List.range 64).map fun l => Dst.v r l) = false :=
  ⟨⟨rfl, rfl, rfl⟩, by decide, rfl, rfl, rfl, rfl, rfl, by decide, rfl, rfl, fun _ _ _ _ => rfl, rfl,
    (vecReady true rfl (fun _ => []) _).2.2.2.2.1⟩

/-- A gang with an operation in the engine's queue. -/
def op0 : MatOp := ⟨mm0, false, 0, (0, 0), none, [], false, false, none⟩
def gmat : Gang := { gg with matOps := [op0] }
def seng : State := { sv gmat with engine := [(cg, 0)] }

theorem test_witness_MatrixEngine : (seng.engineQueue 0 0 0 = [(cg, 0)] ∧ seng.gang? cg = some gmat ∧ gmat.id = cg ∧
      (gmat.matOps.find? fun o => o.seq == 0) = some op0 ∧ op0.rot = false ∧ seng.errs = [] ∧ twf 0 gmat.acc = true) ∧
    (sg gg).engineQueue 0 0 0 = [] ∧
    ∃ x, (stor { gg with inJoin := true }).launch? 0 = some ltor ∧ ltor.coresident = true ∧ ltor.teams = 1 ∧
      (stor { gg with inJoin := true }).participant ltor 0 0 = some x ∧ x.inJoin = true ∧ x.joinDone = false :=
  ⟨⟨rfl, rfl, rfl, rfl, rfl, rfl, rfl⟩, rfl, _, rfl, rfl, rfl, rfl, rfl, rfl⟩

/-- Lines at 0x1000: a `nop` without a wait, and one that waits for flag 0. -/
def nopLine : Tab Byte := [(0x1001, 0xF0), (0x1002, 0x1F), (0x1004, 0x40)]
def waitLine : Tab Byte := [(0x1000, 1), (0x1001, 0xF0), (0x1002, 0x1F), (0x1004, 0x40)]
def onLine (m : Tab Byte) (s : State) : State := { s with mem := m }

/-- A thread whose flag 0 is up, one asleep, one that waits for its line, and threads with an operation of the window unit. -/
def thUp : Thread := { th with flags := th.flags.setIfInBounds 0 1 }
def thSleep : Thread := { th with state := .sleeping (some 16) }
def thWait : Thread := { thUp with state := .parked .retry }
def thSpill : Thread := { th1 with winOp := some (.spill, 0) }
def thReload : Thread := { th1 with winOp := some (.reload, 0), spilled := 1 }
def mach (va : Word) : TrapInfo := ⟨0x13, va, 0⟩
def thDue : Thread := { th with dueMachine := [mach 64, mach 32] }

/-- A gang with a second group whose time is up. -/
def gfair : Gang := { gg with stack := [⟨0x2000, 4, none⟩], timer := 0x100 }

/-- What is entered at a line is a start, a wait. -/
def starts : Entry → Bool
  | .start _ _ => true
  | _ => false
def waits : Entry → Bool
  | .wait _ => true
  | _ => false
theorem starts_iff : ∀ e : Entry, starts e = true → ∃ s l, e = .start s l
  | .start s l, _ => ⟨s, l, rfl⟩
theorem waits_iff : ∀ e : Entry, waits e = true → ∃ s, e = .wait s
  | .wait s, _ => ⟨s, rfl⟩
theorem starts_thread : starts (enterLine ct 0 0 0x1000 th.flags (onLine nopLine (st th))) = true := by decide +kernel
theorem starts_gang : starts (enterLine cg 0 0 0x1000 gg.flags ((onLine nopLine (sg gg)).setGang gg)) = true := by decide +kernel
theorem covers_gang : ∃ s1 l, enterLine cg 0 0 0x1000 gg.flags ((onLine nopLine (sg gg)).setGang gg) = .start s1 l ∧
    ∃ s2, coverByWait cg (lineWait l) s1 = (s2, none) := by
  have h : (match enterLine cg 0 0 0x1000 gg.flags ((onLine nopLine (sg gg)).setGang gg) with
      | .start s l => (coverByWait cg (lineWait l) s).2.isNone
      | _ => false) = true := by decide +kernel
  split at h
  · rename_i s l he
    exact ⟨s, l, he, _, Prod.ext rfl (Option.isNone_iff_eq_none.1 h)⟩
  · cases h
theorem waits_thread : waits (enterLine ct 0 0 0x1000 thUp.flags (onLine waitLine (st thUp))) = true := by decide +kernel

theorem test_witness_StepsOfContexts :
    ((st thSleep).thread? ct = some thSleep ∧ thSleep.state = .sleeping (some 16)) ∧
    ((st th).thread? ct = some th ∧ ct.onDevice = true ∧ th.state = .ready ∧ (st th).canIssueT th = true ∧ th.line = none ∧
      (∃ s1 l, enterLine ct 0 0 0x1000 th.flags (onLine nopLine (st th)) = .start s1 l) ∧
      ∃ s1 ti, enterLine ct 0 0 0x1000 th.flags (st th) = .trap s1 ti) ∧
    (∃ s1, enterLine ct 0 0 0x1000 thUp.flags (onLine waitLine (st thUp)) = .wait s1) ∧
    ((st thWait).thread? ct = some thWait ∧ thWait.state = .parked .retry ∧ thWait.line = none) ∧
    ((st thSpill).thread? ct = some thSpill ∧ (st thSpill).windowTurn ct = some (.spill, thSpill) ∧ thSpill.spilled < thSpill.outer.length) ∧
    ((st thReload).thread? ct = some thReload ∧ (st thReload).windowTurn ct = some (.reload, thReload)) ∧
    ((st thDue).thread? ct = some thDue ∧ mach 32 ∈ thDue.dueMachine ∧
      (∀ u, u ∈ thDue.dueMachine → u ≠ mach 32 → (mach 32).tval.toNat < u.tval.toNat) ∧ thDue.state = .ready ∧
      thDue.inTrap = false ∧ ct.onDevice = true ∧ { thDue with inTrap := true }.inTrap = true) ∧
    ((sg gg).thread? cg = none ∧ (sg gg).gang? cg = some gg ∧ gg.id = cg ∧ (sg gg).canIssueG gg = true ∧
      gg.line = none ∧ gg.switchDue = false ∧ gg.yieldDue = false ∧ gg.timeUp = false ∧
      ∃ s1 l, enterLine cg 0 0 0x1000 gg.flags ((onLine nopLine (sg gg)).setGang gg) = .start s1 l ∧
        ∃ s2, coverByWait cg (lineWait l) s1 = (s2, none)) ∧
    ((sg gfair).gang? cg = some gfair ∧ gfair.modeNone = false ∧ gfair.stack ≠ [] ∧ 1 ≤ gfair.timer ∧ gfair.period ≤ gfair.timer ∧
      gfair.line = none ∧ gfair.state = .ready ∧ { gfair with line := some 0 }.line = some 0) ∧
    (∃ o, ({ st th with ops := [⟨5, ct, 0, 0, some 0, false, false, .flagDue⟩] } : State).op? 5 = some o ∧ o.kind = .flagDue) ∧
    (∃ o fs, ({ st th with ops := [⟨5, ct, 0, 0, none, false, false, .fills [(.x 0 10, 3)]⟩] } : State).op? 5 = some o ∧ o.kind = .fills fs) ∧
    (∃ o es, ({ st th with ops := [⟨5, ct, 0, 0, none, false, false, .load [⟨accS, .n64, .x 0 10, some 3⟩]⟩] } : State).op? 5 = some o ∧
      o.kind = .load es ∧ ∀ e ∈ es, e.val.isSome = true) ∧
    (∃ s1, opAwait ⟨5, cg, 0, 0, none, false, false, .load [⟨accM, .n64, .v 3 0, none⟩]⟩ (sg gg) = some s1) ∧
    (∃ e, ({ st th with errs := [⟨.quire, 2, 64, none⟩] } : State).errAt .mem (64 / 32 * 32) 32 = some e) ∧
    (st th).cur = some ct ∧ th.id = ct :=
  ⟨⟨rfl, rfl⟩, ⟨rfl, rfl, rfl, rfl, rfl, starts_iff _ starts_thread, _, _, rfl⟩, waits_iff _ waits_thread, ⟨rfl, rfl, rfl⟩, ⟨rfl, rfl, by decide⟩,
    ⟨rfl, rfl⟩, ⟨rfl, by decide, by decide, rfl, rfl, rfl, rfl⟩, ⟨rfl, rfl, rfl, rfl, rfl, rfl, rfl, rfl, covers_gang⟩,
    ⟨rfl, rfl, by decide, by decide, by decide, rfl, rfl, rfl⟩, ⟨_, rfl, rfl⟩, ⟨_, _, rfl, rfl⟩, ⟨_, _, rfl, rfl, by decide⟩, ⟨_, rfl⟩, ⟨_, rfl⟩, rfl, rfl⟩

/-- A store buffer entry of one byte at 0, cached and not. -/
def sbe (cached : Bool) : SbEntry := ⟨0, 0, 0, cached, 1, [(0, 7)], none, false, false⟩
def thSb (cached : Bool) : Thread := { th with sb := [sbe cached] }
def l1In (st : L1State) (s : State) : State := { s with l1 := [⟨⟨0, 0, 0⟩, 0, 0, st⟩] }

/-- Atomics on the own scratchpad, and near the cache and in the memory-side unit on the first line of memory. -/
def amoO : AmoElt := ⟨false, accS, .add, none, 1, true, .x 0 12⟩
def amoN : AmoElt := { amoO with near := true, acc := accM }
def amoF : AmoElt := { amoO with acc := accM }
def opOf (k : OpKind) : State := { st th with ops := [⟨5, ct, 0, 0, none, false, false, k⟩] }

/-- The first sector of memory in the cluster's cache, its region owned. -/
def sown : State := { st th with ccache := [⟨0, 0, 0, 1, 0, 0⟩], region := [⟨0, some .m, [0], none, [], [], 0⟩] }

/-- A page in the miss queue whose walk has read its entry, and the device with it. -/
def leaf0 : Leaf := ⟨0, 0x4000, 3, 0⟩
def miss0 (l : Option Leaf) : Miss := ⟨0, 0, 0, 0, 0, ct, 0, .load, [ct], .walking l⟩

theorem test_witness_StepsOfMemoryOperations :
    ((st (thSb true)).thread? ct = some (thSb true) ∧ (sbe true).held = none ∧ ct.onDevice = true ∧
      (thSb true).agent.relHandler = false ∧ (st (thSb true)).l1State ct.coreId 0 = none ∧
      (l1In .s (st (thSb true))).l1State ct.coreId 0 = some .s ∧ (l1In .e (st (thSb true))).l1State ct.coreId 0 = some .e ∧
      (l1In .m (st (thSb true))).l1State ct.coreId 0 = some .m ∧ (sbe false).cached = false) ∧
    (∃ s1, recheck 0 0 0 0 0 (st (thSb false)) = (s1, none) ∧ s1.errs = [] ∧ s1.storesOk = true) ∧
    (∃ s1 tr, recheck 0 0 0 0 0 ({ st (thSb false) with tlb := [], utlb := [] } : State) = (s1, some tr) ∧ tr.cause ≠ 0x13) ∧
    (∃ o es, (opOf (.store [(accS, [1])])).op? 5 = some o ∧ o.kind = .store es) ∧
    (∃ o c v, (opOf (.push ct 3)).op? 5 = some o ∧ o.kind = .push c v ∧
      ∀ x ∈ (opOf (.push ct 3)).ops.takeWhile fun x => x.id != 5, x.pushes o.owner c = false) ∧
    (∃ o s1, (opOf (.atomic [amoF, amoF])).op? 5 = some o ∧ o.kind = .atomic [amoF, amoF] ∧
      (opOf (.atomic [amoF, amoF])).await o.owner.wideCore o.owner.quarter amoN.needs = some s1) ∧
    (∃ o, (opOf (.atomic [amoO])).op? 5 = some o ∧ o.kind = .atomic [amoO] ∧
      (opOf (.atomic [amoO])).await o.owner.wideCore o.owner.quarter amoO.needs = none) ∧
    (∃ o, (opOf (.atomic [amoO, amoO])).op? 5 = some o ∧ o.kind = .atomic [amoO, amoO]) ∧
    (∃ o, (opOf (.red [amoO])).op? 5 = some o ∧ o.kind = .red [amoO]) ∧
    (∃ o, (opOf (.vrdm amoO [])).op? 5 = some o ∧ o.kind = .vrdm amoO []) ∧
    (∃ o x d, (opOf (.tlbinv .all .none)).op? 5 = some o ∧ o.kind = .tlbinv x d ∧
      (opOf (.tlbinv .all .none)).matchingInFlight o.part x = false ∧ (opOf (.tlbinv .all .none)).missq = []) ∧
    (sown.await ct.coreId 0 amoN.needs = none ∧ amoN.acc.space = .mem ∧ amoN.acc.host = false ∧ amoN.near = true) ∧
    ((st th).await ct.coreId 0 amoF.needs = none ∧ amoF.acc.space = .mem ∧ amoF.acc.host = false ∧ amoF.near = false) ∧
    (({ st th with missq := [miss0 none] } : State).missq.find? fun m =>
      m.state != .failed && m.ctx == ct && m.vpage == vpageOf false (0 : Word).toNat && m.kind == .load) = some (miss0 none) ∧
    (∀ m ∈ (st th).missq, m.ctx ≠ ct) ∧
    ((miss0 (some leaf0)).state = .walking (some leaf0) ∧ leNat (rdBytes (st th).mem leaf0.at_ 8) = leaf0.pte ∧
      leNat (rdBytes ({ st th with mem := [(0x4000, 1)] } : State).mem leaf0.at_ 8) ≠ leaf0.pte) ∧
    (({ st th with merges := [⟨0, 3, [1]⟩] } : State).merges.find? fun m => m.cluster == 0 && m.block == 3) = some ⟨0, 3, [1]⟩ :=
  ⟨⟨rfl, rfl, rfl, rfl, rfl, rfl, rfl, rfl, rfl⟩, ⟨_, rfl, rfl, rfl⟩, ⟨_, _, rfl, by decide⟩, ⟨_, _, rfl, rfl⟩,
    ⟨_, _, _, rfl, rfl, by decide⟩, ⟨_, _, rfl, rfl, rfl⟩, ⟨_, rfl, rfl, rfl⟩, ⟨_, rfl, rfl⟩, ⟨_, rfl, rfl⟩, ⟨_, rfl, rfl⟩,
    ⟨_, _, _, rfl, rfl, rfl, rfl⟩, ⟨rfl, rfl, rfl, rfl⟩, ⟨rfl, rfl, rfl, rfl⟩, rfl, by decide, ⟨rfl, rfl, by decide⟩, rfl⟩

/-! Coherence: a device with one message under way, one entry at a home, its sector there, and one region held. -/

def c0 : CoreId := ⟨0, 0, 0⟩
def c1 : CoreId := ⟨0, 0, 1⟩
def coh (k : CohKind) (h : List HomeLine) (r : List RegEntry) : State :=
  { State.reset with coh := [⟨k, c0, 7, 0, false⟩], home := h, region := r, ccache := [⟨0, 0, 0, 0xFF, 0, 0⟩] }
def hm (st : Option DirState) (ptrs : List CoreId) (t : Option HomeTrans) : HomeLine := ⟨0, 7, st, ptrs, none, t, []⟩
def regS : RegEntry := ⟨0, some .s, [0], none, [], [], 0⟩
def regM : RegEntry := ⟨0, some .m, [0], none, [], [], 0⟩

/-- A message is under way to a line whose home entry is idle with this state and these pointers. -/
def IdleAt (k : CohKind) (r : List RegEntry) (st : Option DirState) (ptrs : List CoreId) (write : Bool) : Prop :=
  ∃ s1 m h, (coh k [hm st ptrs none] r).takeCoh k c0 7 = some (m, s1) ∧ h = s1.homeLine 0 7 ∧ h.trans = none ∧ h.queue = [] ∧
    h.st = st ∧ h.ptrs = ptrs ∧ s1.inCc 0 7 = true ∧ s1.regionCalled 0 7 = false ∧ (write = true → s1.ownsRegion 0 7 = true)

/-- The last answer of a transaction is under way, or (with a second core) one of them. -/
def AnswerAt (k : CohKind) (h : HomeLine) : Prop :=
  ∃ s1 m, (coh k [h] [regM]).takeCoh k c0 7 = some (m, s1) ∧ s1.homeLine 0 7 = h

/-- A message is under way to an L1, which has the line in this state. -/
def AtL1 (k : CohKind) (st : Option L1State) : Prop :=
  ∃ s1 m, ({ coh k [] [] with l1 := st.toList.map fun x => ⟨c0, 7, 0, x⟩ } : State).takeCoh k c0 7 = some (m, s1) ∧
    s1.l1State c0 7 = st

def ovfAdd (u : Option CoreId) : OvfEvent := ⟨0, 0, 0, 7, u⟩

theorem test_witness_CoherenceOfACluster :
    IdleAt .gets [regS] none [] false ∧ IdleAt .gets [regS] (some .s) [c0, c1] false ∧ IdleAt .gets [regS] (some .s) [c1] false ∧
    IdleAt .gets [regM] (some .o) [c1] true ∧ IdleAt .getm [regM] none [] true ∧ IdleAt .getm [regM] (some .s) [c0] true ∧
    IdleAt .getm [regM] (some .s) [c0, c1] true ∧ IdleAt .getm [regM] (some .o) [c1] true ∧ IdleAt .upg [regM] (some .s) [c0] true ∧
    IdleAt .upg [regM] (some .s) [c0, c1] true ∧ IdleAt .pute [regM] (some .o) [c0] true ∧
    IdleAt .putm [regM] (some .o) [c0] true ∧ IdleAt .puts [regS] (some .s) [c0] false ∧ IdleAt .puts [regS] (some .s) [c0, c1] false :=
  ⟨⟨_, _, _, rfl, rfl, rfl, rfl, rfl, rfl, rfl, rfl, nofun⟩, ⟨_, _, _, rfl, rfl, rfl, rfl, rfl, rfl, rfl, rfl, nofun⟩,
    ⟨_, _, _, rfl, rfl, rfl, rfl, rfl, rfl, rfl, rfl, nofun⟩, ⟨_, _, _, rfl, rfl, rfl, rfl, rfl, rfl, rfl, rfl, fun _ => rfl⟩,
    ⟨_, _, _, rfl, rfl, rfl, rfl, rfl, rfl, rfl, rfl, fun _ => rfl⟩, ⟨_, _, _, rfl, rfl, rfl, rfl, rfl, rfl, rfl, rfl, fun _ => rfl⟩,
    ⟨_, _, _, rfl, rfl, rfl, rfl, rfl, rfl, rfl, rfl, fun _ => rfl⟩, ⟨_, _, _, rfl, rfl, rfl, rfl, rfl, rfl, rfl, rfl, fun _ => rfl⟩,
    ⟨_, _, _, rfl, rfl, rfl, rfl, rfl, rfl, rfl, rfl, fun _ => rfl⟩, ⟨_, _, _, rfl, rfl, rfl, rfl, rfl, rfl, rfl, rfl, fun _ => rfl⟩,
    ⟨_, _, _, rfl, rfl, rfl, rfl, rfl, rfl, rfl, rfl, fun _ => rfl⟩, ⟨_, _, _, rfl, rfl, rfl, rfl, rfl, rfl, rfl, rfl, fun _ => rfl⟩,
    ⟨_, _, _, rfl, rfl, rfl, rfl, rfl, rfl, rfl, rfl, nofun⟩, ⟨_, _, _, rfl, rfl, rfl, rfl, rfl, rfl, rfl, rfl, nofun⟩⟩

theorem test_witness_CoherenceOfACluster_answers :
    AnswerAt .invack (hm (some .s) [] (some ⟨⟨.getm, c1, 0⟩, [c0], false⟩)) ∧
    AnswerAt .invack (hm (some .s) [c1] (some ⟨⟨.upg, c1, 0⟩, [c0], true⟩)) ∧
    AnswerAt .invack (hm (some .s) [] (some ⟨⟨.getm, c1, 0⟩, [c0, c1], false⟩)) ∧
    AnswerAt .datawb (hm (some .o) [c0] (some ⟨⟨.gets, c1, 0⟩, [c0], false⟩)) ∧
    AtL1 .inv none ∧ AtL1 .fwds (some .e) ∧ AtL1 .fwdm (some .m) ∧ AtL1 .fwds none ∧ AtL1 .fwdm none ∧ AtL1 .ackUpg (some .s) ∧
    AtL1 .dataN none ∧
    (∃ s1 m s2, (coh .dataS [] []).takeCoh .dataS c0 7 = some (m, s1) ∧ s1.allocL1 c0 m.quarter 7 .s = some s2) ∧
    (∃ s1 m s2, (coh .dataE [] []).takeCoh .dataE c0 7 = some (m, s1) ∧ s1.allocL1 c0 m.quarter 7 .e = some s2) ∧
    (∃ s1 m s2, (coh .dataM [] []).takeCoh .dataM c0 7 = some (m, s1) ∧ s1.allocL1 c0 m.quarter 7 .m = some s2) ∧
    (∃ s1, ({ State.reset with ovfEvents := [ovfAdd (some c1)] } : State).takeEvent 0 0 0 = some (ovfAdd (some c1), s1)) ∧
    ∃ s1 h t more, ({ State.reset with
        ovfEvents := [ovfAdd none], home := [hm (some .s) [c0] (some ⟨⟨.getm, c0, 0⟩, [], false⟩)],
        ovf := [⟨0, 0, 0, 0, 7, [c1]⟩] } : State).takeEvent 0 0 0 = some (ovfAdd none, s1) ∧ (ovfAdd none).add = none ∧
      h = s1.homeLine 0 7 ∧ h.trans = some t ∧
      more = ((s1.recorded 0 7).eraseDups).filter (fun x => x != t.ask.core && !h.ptrs.contains x) ∧ more ≠ [] :=
  ⟨⟨_, _, rfl, rfl⟩, ⟨_, _, rfl, rfl⟩, ⟨_, _, rfl, rfl⟩, ⟨_, _, rfl, rfl⟩, ⟨_, _, rfl, rfl⟩, ⟨_, _, rfl, rfl⟩, ⟨_, _, rfl, rfl⟩,
    ⟨_, _, rfl, rfl⟩, ⟨_, _, rfl, rfl⟩, ⟨_, _, rfl, rfl⟩, ⟨_, _, rfl, rfl⟩, ⟨_, _, _, rfl, rfl⟩, ⟨_, _, _, rfl, rfl⟩,
    ⟨_, _, _, rfl, rfl⟩, ⟨_, rfl⟩, _, _, _, _, rfl, rfl, rfl, rfl, rfl, by decide⟩

def regMsg (k : RegKind) (e : List RegEntry) : State := { State.reset with reg := [⟨k, 0, 0, 0, [7]⟩], region := e }
def vis : State := { State.reset with parts := [freshPartition { cfg with hostVisible := [(0, 4096)] }] }
def regAsk : RegReq := ⟨1, true, .fill 0 [7]⟩

theorem test_witness_RegionDirectory :
    (∃ s1 m, (regMsg .rds []).takeReg .rds 0 0 = some (m, s1) ∧ (s1.regEntry 0).trans = none ∧ (s1.regEntry 0).st = none ∧
      (s1.region.map (·.region)).Nodup ∧ (∀ x ∈ s1.region, x.queue = []) ∧ s1.regRoom 0 = true) ∧
    (∃ s1 m, (regMsg .rds [{ regM with agents := [1] }]).takeReg .rds 0 0 = some (m, s1) ∧ (s1.regEntry 0).trans = none ∧
      (s1.regEntry 0).st = some .m ∧ (∃ a ∈ (s1.regEntry 0).agents, a ≠ 0) ∧ (s1.region.map (·.region)).Nodup ∧ (∀ x ∈ s1.region, x.queue = []) ∧
      s1.regRoom 0 = true) ∧
    (∃ s1 m, (regMsg .rdm [regS]).takeReg .rdm 0 0 = some (m, s1) ∧ (s1.regEntry 0).trans = none ∧
      (∀ a ∈ (s1.regEntry 0).agents, a = 0) ∧ (s1.region.map (·.region)).Nodup ∧ (∀ x ∈ s1.region, x.queue = []) ∧ s1.regRoom 0 = true) ∧
    (∃ s1 m, (regMsg .rdm [{ regS with agents := [1] }]).takeReg .rdm 0 0 = some (m, s1) ∧ (s1.regEntry 0).trans = none ∧
      (s1.region.map (·.region)).Nodup ∧ (∀ x ∈ s1.region, x.queue = []) ∧ s1.regRoom 0 = true ∧ ∃ a ∈ (s1.regEntry 0).agents, a ≠ 0) ∧
    (∃ s1 m, (regMsg .rinv []).takeReg .rinv 0 0 = some (m, s1)) ∧ (regMsg .rinv []).home = [] ∧
    ((({ regMsg .rinv [] with home := [hm (some .s) [c0] none] } : State).home.filter fun h =>
      h.cluster == 0 && regionOf h.line == 0 && (h.st.isSome || h.trans.isSome)) ≠ []) ∧
    (∃ s1 m, (regMsg .rdown []).takeReg .rdown 0 0 = some (m, s1)) ∧
    (∃ s1 m, (regMsg .ack [{ regS with trans := some regAsk, awaiting := [0] }]).takeAnswer 0 = some (m, s1) ∧
      (s1.regEntry 0).trans = some regAsk ∧ regAsk.agent ≠ 13 ∧ (s1.regEntry 0).awaiting.erase m.agent = []) ∧
    (∃ s1 m, (regMsg .ack [{ regS with trans := some regAsk, awaiting := [0, 2] }]).takeAnswer 0 = some (m, s1) ∧
      (s1.regEntry 0).trans = some regAsk ∧ (s1.regEntry 0).awaiting.erase m.agent ≠ []) ∧
    (∃ s1 m, (regMsg .data [regS]).takeReg .data 0 0 = some (m, s1)) ∧
    (∃ s1 m, (regMsg .wb [regM]).takeReg .wb 0 0 = some (m, s1) ∧ (s1.regEntry 0).agents = [0]) ∧
    (∃ s1 m, (regMsg .evr [regM]).takeReg .evr 0 0 = some (m, s1) ∧ 0 ∈ (s1.regEntry 0).agents) ∧
    vis.hostVisible 4095 2 = false ∧ vis.hostVisible 4095 1 = true ∧ (vis.regEntry 0).trans = none ∧ (vis.regEntry 0).st ≠ some .m ∧
    (∀ a ∈ (vis.regEntry 0).agents, a = 12) ∧ (vis.region.map (·.region)).Nodup ∧ (∀ x ∈ vis.region, x.queue = []) ∧ vis.regRoom 0 = true ∧ vis.storesOk = true :=
  ⟨⟨_, _, rfl, rfl, rfl, by decide, by decide, rfl⟩, ⟨_, _, rfl, rfl, rfl, by decide, by decide, by decide, rfl⟩,
    ⟨_, _, rfl, rfl, by decide, by decide, by decide, rfl⟩, ⟨_, _, rfl, rfl, by decide, by decide, rfl, by decide⟩, ⟨_, _, rfl⟩, rfl, by decide, ⟨_, _, rfl⟩, ⟨_, _, rfl, rfl, by decide, rfl⟩,
    ⟨_, _, rfl, rfl, by decide⟩, ⟨_, _, rfl⟩, ⟨_, _, rfl, rfl⟩, ⟨_, _, rfl, by decide⟩, by decide, by decide, rfl, by decide, by decide,
    by decide, by decide, rfl, rfl⟩

/-! Counts, copies, messages and galley launches under way. -/

def chg (i : Inst) (d : Int) : Change := ⟨⟨i, 0, 0⟩, d, []⟩
def onDev : Change := chg (.device 0) 1
def onCl : Change := chg (.cluster 0 0) 1

/-- A graph with one location, a partition that announced folio 1 there though its frontier is at infinity, one that walks. -/
def oneLoc : Graph := ⟨[⟨0, 0, 0, 0, 0, false, 0⟩], [], []⟩
def partF : Partition :=
  { freshPartition cfg with graph := oneLoc, opened := [.device 0], announced := [⟨.device 0, 0, some 1⟩] }
def wk (op status : Nat) (r : Option Graph) : Walk := ⟨op, 0, r, status, .instr 5, none⟩
def partW (w : Walk) : Partition := { partF with walk := some w }
def stW (w : Walk) : State := { st th with parts := [partW w], ops := [⟨5, ct, 0, 0, none, false, false, .graph (.x 0 10)⟩] }

/-- A DELETE of a node with a SYSTEM location, whose counts stand at another device. -/
def stR : State :=
  { stW (wk 2 0 none) with
    aggregator := 1, parts := [{ partW (wk 2 0 none) with graph := ⟨[⟨0, 3, 0, 0, 0, false, 3⟩], [], []⟩ }] }

theorem test_witness_StepsOfCounting :
    (batchPrefix 32 [] (([(0, 3, onDev)].filter fun x => x.1 == 0 && x.2.1 == 3 && !x.2.2.pt.isTeam).map fun x => x.2.2) = [onDev] ∧
      batchPrefix 128 [] (([(0, onDev)].filter fun x => x.1 == 0).map fun x => x.2) = [onDev]) ∧
    ({ State.reset with devOut := [onDev] } : State).devOut ≠ [] ∧
    ({ State.reset with devOut := [onDev], jobDevice := 1 } : State).aggregator ≠ 1 ∧ State.reset.aggregator = State.reset.jobDevice ∧
    (∃ b bs, ({ st th with devIn := [[onDev]] } : State).devIn = b :: bs) ∧
    (∃ b bs, ({ st th with aggIn := [[onDev]] } : State).aggIn = b :: bs) ∧
    (∃ (b : Batch) (bs : List Batch), ({ st th with clusterIn := [(0, [onCl, onDev])] } : State).clusterIn =
      (0, b) :: bs.map (fun x => (0, x))) ∧
    (∃ (s : State) (p : Partition) (a : Announced) (new : Option Word), s.part? (s.instPart (.device 0)) = some p ∧ new = p.frontier (.device 0) 0 ∧
      s.canAnnounce p (.device 0) = true ∧ 0 < p.graph.locs.length ∧ p.told? (.device 0) 0 = some a ∧
      frontierGrew a.folio new = true ∧ ∀ n, Inst.device 0 ≠ .system n) ∧
    (∃ (s : State) (p : Partition) (w : Walk) (o : Op) (d : Dst) (r : Nat), s.part? 0 = some p ∧ p.walk = some w ∧ (w.op = 2 → s.changesUnderWay 0 = false) ∧
      w.client = .instr 5 ∧ s.op? 5 = some o ∧ o.kind = .graph d ∧ remoteLocs s p w = [] ∧
      walkEnd s p w = (r, none)) ∧
    (∃ (s : State) (p : Partition) (w : Walk), s.part? 0 = some p ∧ p.walk = some w ∧ s.changesUnderWay 0 = false ∧
      remoteLocs s p w ≠ [] ∧ w.remote = none) ∧
    ∃ (s : State) (p : Partition) (w : Walk) (o : Op) (d : Dst) (r : Nat) (g : Graph), s.part? 0 = some p ∧ p.walk = some w ∧
      (w.op = 2 → s.changesUnderWay 0 = false) ∧ w.client = .instr 5 ∧ s.op? 5 = some o ∧ o.kind = .graph d ∧
      remoteLocs s p w = [] ∧ walkEnd s p w = (r, some g) ∧ w.op ≠ 0 :=
  ⟨⟨by decide, by decide⟩, by decide, by decide, rfl, ⟨_, _, rfl⟩, ⟨_, _, rfl⟩, ⟨[onCl, onDev], [], rfl⟩,
    ⟨{ st th with parts := [partF] }, _, _, _, rfl, rfl, rfl, by decide, rfl, rfl, fun _ => nofun⟩,
    ⟨stW (wk 1 6 none), _, _, _, _, _, rfl, rfl, by decide, rfl, rfl, rfl, rfl, rfl⟩,
    ⟨stR, _, _, rfl, rfl, by decide, by decide, rfl⟩, stW (wk 1 0 (some oneLoc)), _, _, _, _, _, _, rfl, rfl, by decide, rfl, rfl, rfl, rfl, rfl, by decide⟩

/-- A copy of 600 bytes from memory, in three bursts; one from the bytes that it fills; a team with such channels. -/
def actv : Channel := { Channel.idle with base := 0x4000000000000000, len := 600, state := .active, src := .flat 0, owner := some ct }
def movd : Channel := { actv with sent := [0], moved := [] }
def withCh (c : Channel) (s : State) : State := { s with teams := [{ team with chans := team.chans.set 1 c }] }
def stalled : Channel := { actv with src := .flat (actv.base + 0x1000) }
def feeder : Channel := { actv with base := actv.base + 0x1000 }
def stCh (c : Channel) : State := { st th with teams := [{ team with chans := team.chans.setIfInBounds 1 c }] }
def stFeed (c : Channel) : State :=
  { st th with teams := [{ team with chans := (team.chans.setIfInBounds 1 c).setIfInBounds 2 feeder }] }

/-- A thread that waits for bytes of the copy on channel 1. -/
def thStall (lo : Word) (hi : Nat) (rel : Bool) (bad : Option Word) : Thread := { th with state := .parked (.stall [⟨1, 0, lo, hi, rel, bad⟩]) }
def stWait (rel : Bool) (bad : Option Word) : State := { stCh actv with threads := [thStall actv.base 0x4000000000000040 rel bad] }

/-- A message of class 1 to team 0 of the launch, a binding of the class. -/
def msg1 : Msg := ⟨9, 1, 0, some 0, 0, none, none, 0, 0, [], 0, 0, some ct, false, none, none, none⟩
def bound (t : Thread) : State := { st t with msgs := [msg1], teams := [{ team with binds := [⟨1, ct, 0x1000⟩] }] }
def thFull : Thread := { th with inbox := List.replicate 8 msg1, spillbox := List.replicate 32 msg1 }

/-- A key whose time is over, a launch record of one caller. -/
def galleyHdr : KHdr := { hdr with timeout := 100 }
def keyDue : Key := ⟨3, 0, 0, 0x2000, 0, galleyHdr, 0, [ct]⟩
def rec1 : LaunchRec := ⟨0, 0, 0x2000, 0, galleyHdr, [ct]⟩

theorem test_witness_StepsOfCopiesMessagesAndGalleys :
    (actv.wm ≤ actv.len) ∧ (th.state ≠ .idleMsg ∧ th.inbox.length < 8 ∧ th.spillbox = []) ∧
    (∃ c, (stCh actv).chan? tid 1 = some c ∧ c.state = .active ∧ 0 < c.bursts ∧ 0 < c.wm / 256 + 64 ∧ 0 ∉ c.sent ∧
      0 + 1 ≠ c.bursts) ∧
    (∃ tm c, (stFeed { stalled with sent := [0] }).team? tid = some tm ∧
      (stFeed { stalled with sent := [0] }).chan? tid 1 = some c ∧ c.state = .active ∧ 0 ∈ c.sent ∧ 0 ∉ c.moved ∧
      c.landed 0 = false ∧ c.stalls = [] ∧ (stFeed { stalled with sent := [0] }).drainOver tm = false ∧
      (stFeed { stalled with sent := [0] }).buffersFree tm c 0 = true ∧
      burstStalls (stFeed { stalled with sent := [0] }) tm c 1 0 ≠ []) ∧
    (∃ tm c s1 ps, (stCh movd).team? tid = some tm ∧ (stCh movd).chan? tid 1 = some c ∧ c.state = .active ∧ 0 ∈ c.sent ∧ 0 ∉ c.moved ∧
      c.landed 0 = false ∧ c.stalls = [] ∧ (stCh movd).drainOver tm = false ∧ (stCh movd).buffersFree tm c 0 = true ∧
      burstStalls (stCh movd) tm c 1 0 = [] ∧ burstPieces tm c 0 (stCh movd) = (s1, ps) ∧
      (stCh movd).await ⟨tm.cluster, 0, 4⟩ 0 (Piece.needs (stCh movd) tm c ps) = none) ∧
    (∃ tm c, (stCh { movd with moved := [2] }).team? tid = some tm ∧ (stCh { movd with moved := [2] }).chan? tid 1 = some c ∧
      c.state = .active ∧ 2 ∈ c.moved ∧ c.vdst = false) ∧
    (∃ x : StallAt, x.ch = 1 ∧ x.released = false ∧ canonVa 0 actv.base + actv.wm < x.hi) ∧
    (∃ x : StallAt, x.ch = 1 ∧ x.released = false ∧ x.hi ≤ canonVa 0 actv.base + { actv with wm := 64 }.wm) ∧
    (∃ t xs, (stWait false none).thread? ct = some t ∧ t.id = ct ∧ t.state = .parked (.stall xs) ∧ ∃ x ∈ xs, x.released = false) ∧
    (∃ t xs, (stWait true none).thread? ct = some t ∧ t.state = .parked (.stall xs) ∧ (∀ x ∈ xs, x.released = true) ∧
      ∀ x ∈ xs, x.bad = none) ∧
    (∃ t x ys, (stWait true (some 3)).thread? ct = some t ∧ t.state = .parked (.stall (x :: ys)) ∧
      (∀ y ∈ x :: ys, y.released = true) ∧ x.bad = some 3) ∧
    (∃ tm p, ({ st th with teams := [{ team with state := .saved }] } : State).team? tid = some tm ∧ tm.state = .saved ∧
      (st th).part? tm.part = some p ∧ (st th).time < tm.savedAt + p.drainlim ∧
      tm.savedAt + p.drainlim ≤ ({ st th with time := 0x7D00 } : State).time) ∧
    ({ st th with msgs := [msg1] } : State).receiver msg1 = none ∧
    (∃ t u, (bound thFull).receiver msg1 = some (t, u) ∧ u.accept msg1 (t.state != .saved) = none) ∧
    (∃ t u u1, (bound th).receiver msg1 = some (t, u) ∧ u.accept msg1 (t.state != .saved) = some u1 ∧ u.state ≠ .idleMsg) ∧
    (∃ k, ([keyDue].find? fun k => k.id == 3) = some k ∧ k.hdr.timeout ≠ 0 ∧
      k.since + k.hdr.timeout ≤ ({ st th with keys := [keyDue], cc := 1000 } : State).ac ∧ k.callers ≠ []) ∧
    (∃ r tile c t, ([rec1].find? fun r => r.part == 0 && r.cluster == 0) = some r ∧ galleyTile (st th) r = some tile ∧
      ((st th).freeGangCtx 0 0 tile).head? = some c ∧ (st th).gang? c = none ∧ laneOrder r.callers = [ct] ∧
      (st th).thread? ct = some t) :=
  ⟨by decide, ⟨by decide, by decide, rfl⟩, ⟨_, rfl, rfl, by decide, by decide, by decide, by decide⟩,
    ⟨_, _, rfl, rfl, rfl, by decide, by decide, by decide, rfl, rfl, by decide +kernel, by decide +kernel⟩,
    ⟨_, _, _, _, rfl, rfl, rfl, by decide, by decide, by decide, rfl, rfl, by decide +kernel, by decide +kernel, rfl, rfl⟩,
    ⟨_, _, rfl, rfl, rfl, by decide, rfl⟩,
    ⟨⟨1, 0, actv.base, 0x4000000000000040, false, none⟩, rfl, rfl, by decide +kernel⟩,
    ⟨⟨1, 0, actv.base, 0x4000000000000040, false, none⟩, rfl, rfl, by decide +kernel⟩,
    ⟨_, _, rfl, rfl, rfl, by decide⟩, ⟨_, _, rfl, rfl, by decide, by decide⟩, ⟨_, _, _, rfl, rfl, by decide, rfl⟩,
    ⟨_, _, rfl, rfl, rfl, by decide, by decide⟩, rfl,
    ⟨_, _, rfl, rfl⟩, ⟨_, _, _, rfl, rfl, by decide⟩, ⟨_, rfl, by decide, by decide +kernel, by decide⟩,
    ⟨rec1, 0, ⟨0, 0, true, 0, 0⟩, th, rfl, by decide +kernel, by decide +kernel, rfl, by decide +kernel, rfl⟩⟩

/-! Queues: a ring of 64 packets at 0x1000, under a page table at 0x100000 that maps the first 512 MiB onto themselves. -/

def ring (m : Tab Byte) : Tab Byte := m ++ [(0x100000, 1), (0x100002, 0x20), (0x200000, 0xDD)]
def que : Queue := { Queue.fresh qid with qbase := 0x1000, qsize := 64, qpt := 0x100000, qwr := 1, en := true }
def stq (m : Tab Byte) : State := { st th with mem := ring m, queues := [que] }
def pktAt (bs : List Byte) : Pkt := ⟨qid, 0, 0x1000, bs, false, none, none, none, none⟩
def bad9 : Pkt := pktAt (9 :: List.replicate 63 0)
def copy16 : Pkt := pktAt (3 :: List.replicate 16 0 ++ 0x30 :: List.replicate 7 0 ++ 0x40 :: List.replicate 6 0 ++ 16 :: List.replicate 31 0)
def launch1 : Pkt := pktAt (1 :: List.replicate 63 0)
def folio2 : Pkt := pktAt (2 :: List.replicate 63 0)
def wait4 : Pkt := pktAt (4 :: List.replicate 16 0 ++ 0x20 :: List.replicate 46 0)
def graph5 : Pkt := pktAt (5 :: List.replicate 16 0 ++ 0x20 :: List.replicate 46 0)
def copyRing : Tab Byte := [(0x1000, 3), (0x1011, 0x30), (0x1019, 0x40), (0x1020, 16)]
def placing : Launch := { launch with state := .placing, teams := 2, placed := 1 }
def waitingFor (k : Pkt) : State := { stq [] with pkts := [k] }
def heldFor (e seq : Word) : State :=
  { st th with launches := [{ launch with state := .held, expect := some e }], parts := [{ freshPartition cfg with clseq := seq }] }

theorem reads_bad : readPacket que 0 (stq [(0x1000, 9)]) = some (stq [(0x1000, 9)], bad9) := by decide +kernel
theorem reads_copy : readPacket que 0 (stq copyRing) = some (stq copyRing, copy16) := by
  decide +kernel
def passes4 : Checked → Bool
  | (_, .ok _) => true
  | (_, .error _) => false
theorem passes4_iff : ∀ r : Checked, passes4 r = true → ∃ s l, r = (s, .ok l)
  | (s, .ok l), _ => ⟨s, l, rfl⟩
theorem checks_copy : passes4 (checkPacket que (freshPartition cfg) copy16 (stq copyRing)) = true := by decide +kernel
theorem descriptor_graph : (queueDescriptor que (graph5.body 0) (waitingFor graph5)).isSome = true := by decide +kernel

theorem test_witness_QueuesAndPackets :
    ((stq []).queue? qid = some que ∧ (0 : Word).toNat < que.qwr ∧ que.qrd + que.qsize < (65 : Word).toNat ∧
      que.qwr ≤ (64 : Word).toNat ∧ (64 : Word).toNat ≤ que.qrd + que.qsize ∧ que.en = true) ∧
    ((∃ s, State.queue? s qid = some (Queue.fresh qid)) ∧ (Queue.fresh qid).en = false ∧ (0x2000 : Word).toNat % 4096 = 0 ∧
      (∃ k, k < 11 ∧ (65536 : Word).toNat = 64 * 2 ^ k) ∧ (0x1C5 : Word).getLsbD 1 = false) ∧
    ((stq []).launches = [launch] ∧ launch.queue = qid ∧ launch.state ≠ .ended) ∧
    (∃ p, (stq []).part? qid.part = some p ∧ p.stopped = false ∧ p.held = false ∧ que.stopped = false ∧
      que.qrd < que.qwr ∧ (stq []).waitingPkt qid = none ∧ (stq []).launchWaits qid = false) ∧
    readPacket { que with qpt := 0 } 0 (stq []) = none ∧
    (∃ s1 k s2 n, readPacket que que.qrd (stq [(0x1000, 9)]) = some (s1, k) ∧ (k.flags.testBit 2 = true → ∀ y ∈ s1.pkts, y.queue ≠ qid) ∧
      checkPacket que (freshPartition cfg) k s1 = (s2, .error n) ∧ 5 < k.kind) ∧
    (∃ s1 k, readPacket que que.qrd (stq copyRing) = some (s1, k) ∧
      (k.flags.testBit 2 = true → ∀ y ∈ s1.pkts, y.queue ≠ qid) ∧ ∃ s2 l, checkPacket que (freshPartition cfg) k s1 = (s2, .ok l)) ∧
    (∃ k : Pkt, k.kind = 0) ∧ (∃ k : Pkt, k.kind ≠ 0 ∧ k.kind ≤ 5 ∧ 8 ≤ k.flags) ∧
    (waitingFor { launch1 with plan := some placing }).ready? qid 1 = some (que, { launch1 with plan := some placing }) ∧
    (waitingFor { folio2 with plan := some placing }).ready? qid 2 = some (que, { folio2 with plan := some placing }) ∧
    ((waitingFor copy16).ready? qid 3 = some (que, copy16) ∧ (copy16.body 2).toNat ≠ 0) ∧
    ((waitingFor wait4).ready? qid 4 = some (que, wait4) ∧ readSignals que wait4 (waitingFor wait4) = some [0] ∧
      (waitingFor wait4).sawNegative wait4 = false ∧ ∀ i ∈ [(0 : Int)], i = 0) ∧
    (({ waitingFor wait4 with sigs := [⟨qid, 0, 0x2000, true⟩] } : State).sawNegative wait4 = true ∧ que.qwr = que.qrd + 1 ∧
      que.id = qid) ∧
    ((waitingFor graph5).ready? qid 5 = some (que, graph5) ∧
      ((waitingFor graph5).part? qid.part).elim true (·.walk.isSome) = false ∧ (graph5.body 1).toNat % 4 ≠ 2 ∧
      ∃ r, queueDescriptor que (graph5.body 0) (waitingFor graph5) = some r) ∧
    ((([{ copy16 with done := some ⟨0, 0, 0⟩ }] : List Pkt).find? fun k => k.queue == qid) = some { copy16 with done := some ⟨0, 0, 0⟩ } ∧
      copy16.csig = 0) ∧
    (∃ l p, (heldFor 3 3).launch? 0 = some l ∧ (heldFor 3 3).part? l.part = some p ∧ l.expect = some 3 ∧ l.state = .held ∧
      p.held = false ∧ p.clseq = 3) ∧
    (∃ l p, (heldFor 3 2).launch? 0 = some l ∧ (heldFor 3 2).part? l.part = some p ∧ l.expect = some 3 ∧
      p.clseq.toNat < (3 : Word).toNat) ∧
    ∃ l p, (heldFor 3 4).launch? 0 = some l ∧ (heldFor 3 4).part? l.part = some p ∧ l.expect = some 3 ∧
      (3 : Word).toNat < p.clseq.toNat :=
  ⟨⟨rfl, by decide, by decide, by decide, by decide, rfl⟩,
    ⟨⟨{ st th with queues := [Queue.fresh qid] }, rfl⟩, rfl, by decide, ⟨10, by decide, by decide⟩, by decide⟩, ⟨rfl, rfl, by decide⟩,
    ⟨_, rfl, rfl, rfl, rfl, by decide, rfl, rfl⟩, by decide +kernel, ⟨_, _, _, 1, reads_bad, by decide, rfl, by decide⟩,
    ⟨_, _, reads_copy, by decide, passes4_iff _ checks_copy⟩, ⟨pktAt (List.replicate 64 0), by decide⟩,
    ⟨pktAt (3 :: 8 :: List.replicate 62 0), by decide, by decide, by decide⟩, by decide +kernel, by decide +kernel,
    ⟨by decide +kernel, by decide⟩, ⟨by decide +kernel, by decide +kernel, rfl, by decide⟩, ⟨rfl, rfl, rfl⟩,
    ⟨by decide +kernel, by decide, by decide, Option.isSome_iff_exists.1 descriptor_graph⟩, ⟨by decide, by decide⟩, ⟨_, _, rfl, rfl, rfl, rfl, rfl, by decide⟩,
    ⟨_, _, rfl, rfl, rfl, by decide⟩, _, _, rfl, rfl, rfl, by decide⟩

/-! Placement, heat, pre-emption, tenants, faults. -/

def stPlacing : State := { st th with threads := [], gangs := [], teams := [], launches := [placing] }
def rect : Launch := { placing with hdr := { hdr with corows := 2, cocols := 2 }, teams := 4 }
def stRect (cc : Nat) : State := { stPlacing with launches := [rect], cc := cc }
def cool (since : Nat) (cc : Nat) : State := { st th with thermal := [⟨0, 3, 80, [], some since, true⟩], cc := cc }

theorem place_first : stPlacing.placeTile placing = some (0, 0) := by decide +kernel

theorem test_witness_PlacementAndHeat :
    (∃ l p, stPlacing.launch? 0 = some l ∧ l.uid = 0 ∧ l.state = .placing ∧ l.placed < l.teams ∧ stPlacing.part? l.part = some p ∧
      p.held = false ∧ p.stopped = false ∧ stPlacing.seedsPending l = false ∧ l.coresident = false ∧ stPlacing.placeTile l = some (0, 0)) ∧
    (∃ l, (stRect 6400).launch? 0 = some l ∧ l.state = .placing ∧ l.coresident = true ∧ l.startedAt + 6400 ≤ (stRect 6400).cc) ∧
    (∃ l, (stRect 6399).launch? 0 = some l ∧ (stRect 6399).cc < l.startedAt + 6400) ∧
    (((cool 0 (5 * ccPerMs)).thermalOf 0 3).coolSince = some 0 ∧ 0 + 5 * ccPerMs ≤ (cool 0 (5 * ccPerMs)).cc) ∧
    ((cool 1 (5 * ccPerMs)).thermalOf 0 3).coolSince = some 1 ∧ (cool 1 (5 * ccPerMs)).cc < 1 + 5 * ccPerMs :=
  ⟨⟨_, _, rfl, rfl, rfl, by decide, rfl, rfl, rfl, rfl, rfl, place_first⟩, ⟨_, rfl, rfl, rfl, by decide⟩, ⟨_, rfl, by decide⟩,
    ⟨rfl, by decide⟩, rfl, by decide⟩

/-- A partition with a time slice of which so much is left; a saved team. -/
def sliced (left : Nat) : State := { st th with parts := [{ freshPartition cfg with slice := 100, sliceLeft := left }] }
def savedTeam : Team := { team with state := .saved, cluster := 12 }
def stSaved : State := { st th with threads := [], gangs := [], teams := [savedTeam],
                                    parts := [{ freshPartition cfg with sliceLeft := 1 }] }
theorem restore_first : stSaved.restoreTile launch savedTeam = some (0, 0) := by decide +kernel

/-- A pre-emption of the tile, the device when it has been raised there, with a gang at a boundary or (within a line) not. -/
def pre0 : PreReq := ⟨0, [(0, 0)], some .higherPriority, none, true⟩
def stPre (gs : List Gang) : State :=
  { st th with gangs := gs, preReqs := [pre0], preempt := [(0, 0, ⟨0x15, w64 0, w64 (PreReason.code .higherPriority)⟩)] }

/-- A rectangle that is being placed in the partition. -/
def stRectPre : State := { st th with launches := [rect] }

/-- The configuration that an incoming tenant finds, and that of another partition. -/
def cfg2 : PartConfig := { cfg with devRanges := [(0, 2 ^ 29), (2 ^ 31, 2 ^ 29)], hostVisible := [(0, 2 ^ 29)] }
def cfgO : PartConfig := { cfg with num := 1, pairs := [(1, 0)], devRanges := [(2 ^ 30, 2 ^ 29)], hostVisible := [] }

theorem test_witness_PreemptionAndTenants :
    ((st th).preReqs = [] ∧ (st th).placingRect 0 = false ∧
      ((st th).teams.filter fun t => t.state == .running && (t.part == 0 && [(0, 0)].contains (t.cluster, t.tile))).flatMap
        (st th).saveGroup = [team] ∧ [team].all (stPre []).savable = true) ∧
    [team].all (stPre [gIn]).savable = false ∧ stRectPre.preReqs = [] ∧ stRectPre.placingRect 0 = true ∧
    (pre0 ∈ (stPre [gg]).preReqs ∧ pre0.raised = true ∧ team ∈ pre0.teams (stPre [gg]) ∧ th ∈ (stPre [gg]).threads ∧
      th.team = team.id ∧ gg ∈ (stPre [gg]).gangs ∧ gg.team = some team.id ∧ gg.line = none) ∧
    (st th).team? team.id = some team ∧
    (∃ p, (st th).part? 0 = some p ∧ p.slice = 0) ∧ (∃ p, (sliced 1).part? 0 = some p ∧ 0 < p.sliceLeft) ∧
    (∃ p, (sliced 0).part? 0 = some p ∧ p.slice ≠ 0 ∧ p.sliceLeft = 0) ∧
    (∃ p, stSaved.team? savedTeam.id = some savedTeam ∧ stSaved.launch? savedTeam.id.launch = some launch ∧ savedTeam.state = .saved ∧
      launch.state ≠ .ended ∧ launch.coresident = false ∧ (∀ v ∈ stSaved.saved, v.id = savedTeam.id → v.byCtxsave = false) ∧
      stSaved.part? launch.part = some p ∧ p.held = false ∧ p.stopped = false ∧
      stSaved.restoreTile launch savedTeam = some (0, 0)) ∧
    (st th).thread? ct = some th ∧ ((sg gg).thread? cg = none ∧ (sg gg).gang? cg = some gg ∧ gg.team = some tid) ∧
    (∃ p, (st th).part? 0 = some p ∧ cfg2.num = 0 ∧ configOk cfg2 = true ∧ configsApart cfg2 cfgO = true ∧ (st th).storesOk = true ∧
      inRanges (p.cfg.devRanges ++ cfg2.devRanges) 0x80000000 = true) ∧
    (st th).retired.contains (0, 0) = false ∧ ({ st th with retired := [(0, 0)] } : State).retired.contains (0, 0) = true :=
  ⟨⟨rfl, rfl, by decide, by decide⟩, by decide, rfl, by decide, ⟨by decide, rfl, by decide, by decide, rfl, by decide, rfl, rfl⟩,
    rfl, ⟨_, rfl, rfl⟩, ⟨_, rfl, by decide⟩, ⟨_, rfl, by decide, rfl⟩,
    ⟨_, rfl, rfl, rfl, by decide, rfl, by decide, rfl, rfl, rfl, restore_first⟩, rfl, ⟨rfl, rfl, rfl⟩,
    ⟨_, rfl, rfl, by decide, by decide, rfl, by decide⟩, rfl, by decide⟩

/-- A launch with one team on tile 0 that its header lets run again, a gang that its debug port reaches. -/
def restartable : Launch := { launch with hdr := { hdr with flags := 1 } }
def stL (l : Launch) : State := { st th with launches := [l] }
def gpark : Gang := { gg with state := .parked .retry }
def linkUp : Vector Bool 16 := State.reset.links.setIfInBounds 4 false
def stLink : State := { st th with links := linkUp, linkSeqs := [(1, 2, 7)] }

theorem test_witness_FaultsLinksAndDebugging :
    (∃ l, (stL launch).retired.contains (0, 0) = false ∧ (stL launch).launch? 0 = some l ∧ l.state ≠ .ended ∧ l.state ≠ .held ∧
      (stL launch).launchesOn 0 0 = [0] ∧ l.hdr.flags % 2 = 0) ∧
    (∃ l, (stL restartable).launch? 0 = some l ∧ l.state ≠ .ended ∧ l.state ≠ .held ∧
      (stL restartable).launchesOn 0 0 = [0] ∧ l.hdr.flags % 2 = 1) ∧
    State.reset.launches = [] ∧
    (stLink.links[4]?.getD false = false ∧ stLink.links[3]?.getD false = true ∧ stLink.linkHeld = [] ∧ 6 < stLink.linkSeq 1 2 ∧
      stLink.linkSeq 1 2 < 8 ∧ 7 = stLink.linkSeq 1 2) ∧
    (sg gg).debugGang 0 physicalFunction 1 0 0 = none ∧
    (∃ g, (sg gpark).debugGang 0 physicalFunction 0 0 0 = some g ∧ g.isParked = true ∧ g.holds (.v 95 63) = true ∧ (sg gpark).errs = []) ∧
    ∃ g, (sg gg).debugGang 0 physicalFunction 0 0 0 = some g ∧ g.isParked = false ∧ g.id.onDevice = true :=
  ⟨⟨_, rfl, rfl, by decide, by decide, by decide, rfl⟩, ⟨_, rfl, by decide, by decide, by decide, rfl⟩, rfl,
    ⟨by decide, by decide, rfl, by decide, by decide, by decide⟩, rfl, ⟨_, rfl, rfl, by decide, rfl⟩, _, rfl, rfl, rfl⟩

/-- A device in a phase of its boot, partitions that can stand beside each other. -/
def fwIn (b : Boot) (cut : Bool) : State :=
  { State.reset with fw := { State.reset.fw with boot := b, interrupted := cut, version := 3 } }
def cfgA : PartConfig := ⟨1, [(0, 0), (0, 1)], [(0, 2 ^ 29)], [(0, 2 ^ 29)], [], 0, 7, 0⟩
def cfgB : PartConfig := ⟨2, [(0, 2)], [(2 ^ 29, 2 ^ 29)], [(2 ^ 29, 2 ^ 29)], [], 2 ^ 29, 8, 0⟩
def onePart : State := { fwIn .running false with parts := [freshPartition cfgA] }
def oneVf : State := { onePart with vfs := [⟨1, 5, [], 0, Counters.zero⟩] }

/-- The final export of a partition without queues and teams. -/
def export1 : ExportRec := ⟨1, cfgA.pairs, 5, [], ⟨[], [], [], [], [], [], [], [], []⟩, false⟩

/-- A device in whose memory a final export of partition 1 stands. -/
def exported : State := 
  { oneVf with exports := [export1], mem := wrBytes [] 0 (exportBytes export1) }

theorem exported_reads : rdBytes exported.mem 0 (exportBytes export1).length = exportBytes export1 :=
  rdBytes_wrBytes (m := []) rfl 0 _

theorem exported_at : exported.exportAt 1 5 0 = some export1 := by
  have h := exported_reads
  simp [State.exportAt, show exported.exports = [export1] from rfl, h, show export1.part = 1 from rfl,
    show export1.vf = 5 from rfl, show export1.incomplete = false from rfl]

theorem test_witness_DeviceServices :
    (fwIn .off false).fw.boot = .off ∧ (fwIn .off false).fw.interrupted = false ∧ (fwIn .off true).fw.interrupted = true ∧
    (fwIn .running false).fw.boot = .running ∧ (fwIn .recovery false).fw.boot = .recovery ∧ (0x10 : Nat) ≤ 0xFF ∧
    ((fwIn .running false).fw.version ≤ 3 ∧ 2 < (fwIn .running false).fw.version ∧ (fwIn .running false).fw.boot ≠ .recovery) ∧
    (onePart.fw.boot = .running ∧ configOk cfgB = true ∧ (∀ p ∈ onePart.parts, configsApart cfgB p.cfg = true)) ∧
    (∃ p, p ∈ onePart.parts ∧ configsApart cfgA p.cfg = false) ∧
    ((onePart.part? 1).isSome = true ∧ 191 < 192 ∧ (∀ v ∈ onePart.vfs, v.num ≠ 191) ∧
      (onePart.vfs.filter fun v => v.part == 1).length < 4) ∧
    (∃ p, onePart.part? 1 = some p) ∧ (∃ v, 5 ≠ 0xFF ∧ (oneVf.vfs.find? fun v => v.part == 1 && v.num == 5) = some v) ∧
    ((oneVf.vfs.any fun v => v.part == 1 && v.num == 5) = true ∧
      ∀ t ∈ oneVf.teams, t.part = 1 → t.state ≠ .running ∧ t.state ≠ .draining) ∧
    ∃ p r, exported.part? 1 = some p ∧ exported.exportAt 1 5 0 = some r ∧ pairsShape p.cfg.pairs = pairsShape r.pairs :=
  ⟨rfl, rfl, rfl, rfl, rfl, by decide, ⟨by decide, by decide, by decide⟩, ⟨rfl, by decide, by decide⟩, ⟨freshPartition cfgA, by decide, by decide⟩,
    ⟨rfl, by decide, by decide, by decide⟩, ⟨_, rfl⟩, ⟨_, by decide, rfl⟩, ⟨rfl, by decide⟩, freshPartition cfgA, export1, rfl, exported_at, rfl⟩

/-! The machine. -/

/-- A line of one `nop`. -/
def lineNop : Nat := leNat (rdBytes nopLine 0x1000 64)
def thIn : Thread := { th with line := some lineNop }
def ggIn : Gang := { gg with line := some lineNop }

theorem nop_decodes (wide : Bool) : headDecodes wide lineNop 0 (.nop hd) := by
  have hh : lineHead lineNop 0 = 0x0040 := by decide +kernel
  have ht : lineTail lineNop 0 = 0 := by decide +kernel
  unfold headDecodes
  rw [hh, ht]
  cases wide <;> exact ⟨_, rfl, rfl, by decide⟩

/-- A device whose walk for the page of a thread's line has ended with a fault. -/
def missed (s : State) : State :=
  { s with tlb := [], utlb := [], missq := [⟨0, 0, 0, 0, vpageOf false 0x1000, ct, 0x1000, .fetch, [ct], .failed⟩] }

theorem test_witness_StepRunsDecoded :
    (∃ s : State, s.agenda = [.run thIn.id] ∧ s.thread? thIn.id = some thIn ∧ s.canIssueT thIn = true ∧ thIn.line = some lineNop ∧ thIn.dueMachine = [] ∧
      headDecodes false lineNop (thIn.pc.toNat % 64) (.nop hd)) ∧
    (∃ s : State, s.agenda = [.run th.id] ∧ s.thread? th.id = some th ∧ s.canIssueT th = true ∧ th.dueMachine = [] ∧ th.line = none ∧
      ∃ s1 l, enterLine th.id th.part th.ptbase th.pc th.flags { s with agenda := [] } = .start s1 l) ∧
    (∃ s : State, s.agenda = [.run ggIn.id] ∧ s.thread? ggIn.id = none ∧ s.gang? ggIn.id = some ggIn ∧
      s.nextGang ggIn.id ggIn.part = some ggIn ∧ ggIn.dueMachine = [] ∧ ggIn.line = some lineNop ∧ headDecodes true lineNop (ggIn.pc.toNat % 64) (.nop hd)) ∧
    (∃ s : State, s.agenda = [.event .thermalThrottle] ∧ Instr.coded .thermalThrottle = false) ∧
    (∃ s : State, s.agenda = [.tick 3]) ∧
    ∃ s, s = onLine nopLine (st th) ∧ window (w64 ((0x1000 : Word).toNat / 64 * 64)) = 0 ∧
      (translateFor ct 0 0 (w64 ((0x1000 : Word).toNat / 64 * 64)) .fetch s = .ok s tlb) ∧ s.icache = [] ∧ s.codeOld = [] ∧
      s.errs = [] ∧ lineCheck lineNop ((0x1000 : Word).toNat % 64) = none ∧ waitHolds th.flags (lineWait lineNop) = true ∧
      (∃ s1, translateFor ct 0 0 0x1000 .fetch { s with tlb := [], utlb := [] } = .wait s1) ∧
      ∃ s1 e, translateFor ct 0 0 0x1000 .fetch (missed s) = .fault s1 e :=
  ⟨⟨{ st thIn with agenda := [.run ct] }, rfl, rfl, rfl, rfl, rfl, nop_decodes false⟩,
    ⟨{ onLine nopLine (st th) with agenda := [.run ct] }, rfl, rfl, rfl, rfl, rfl, starts_iff _ starts_thread⟩,
    ⟨{ sg ggIn with agenda := [.run cg] }, rfl, rfl, rfl, rfl, rfl, rfl, nop_decodes true⟩,
    ⟨{ State.reset with agenda := [.event .thermalThrottle] }, rfl, rfl⟩, ⟨{ State.reset with agenda := [.tick 3] }, rfl⟩,
    _, rfl, rfl, rfl, rfl, rfl, rfl, by decide +kernel, by decide +kernel, ⟨_, rfl⟩, _, _, rfl⟩

theorem test_witness_GuardFalseHasNoEffect :
    (∃ opc tail, encBody (.add hp ⟨12, 12, 9, false⟩) = some (hp, opc, tail) ∧ wideOnly opc = false) ∧
    (∀ r, Instr.add hp ⟨12, 12, 9, false⟩ = .ldp hp r ∨ Instr.add hp ⟨12, 12, 9, false⟩ = .stp hp r → r.xd ≠ 31) ∧
    (st { th with preds := 8 }).cur = some th.id ∧ (st { th with preds := 8 }).thread? th.id = some { th with preds := 8 } ∧
    ({ th with preds := 8 } : Thread).guard hp = false :=
  ⟨⟨_, _, rfl, rfl⟩, fun _ h => h.elim nofun nofun, rfl, rfl, by decide⟩

theorem test_witness_RegisterFrame :
    frameOf (.add hd ⟨12, 10, 11, false⟩) = some ([12], [], false) ∧ (st th).cur = some th.id ∧ (st th).thread? th.id = some th ∧
    th.queueOn = false ∧ (st th).errs = [] ∧ ∃ s', exec (.add hd ⟨12, 10, 11, false⟩) (st th) = .next s' :=
  ⟨rfl, rfl, rfl, rfl, rfl, _, rfl⟩

theorem test_witness_StepKeepsStores :
    ({ State.reset with agenda := [.tick 3] } : State).storesOk = true ∧ ∃ s', step { State.reset with agenda := [.tick 3] } = .next s' :=
  ⟨rfl, _, rfl⟩

theorem test_witness_EncodingRoundTrip : Instr.coded (.gret hd) = true ∧ Instr.wf (.gret hd) = true := ⟨rfl, rfl⟩

theorem test_witness_DecodedWordsAreEncodings :
    0x1FC0 < 2 ^ 16 ∧ 0 < 2 ^ tailBits (bits 0x1FC0 15 14) ∧ decode 0x1FC0 0 = .ok (.gret hd) := ⟨by decide, by decide, rfl⟩

theorem test_witness_ResetAndFreshContexts : ∃ t, t = freshThread ct 0 tid 8 0x1000 0x20000 true ∧ csrReadT (st t) t 0x080 = 0x20000 :=
  ⟨_, rfl, rfl⟩

end Sys2Proof.Tests
end

namespace Sys2Proof.Machine

/-! ## Forms of register instructions

An instruction that executes as `op3`, `op2`, `opI` or `shiftOp` has the words, the refusals and the effect that the claims name:
what is left for each instruction is its row of the opcode map and its function on words. -/

section Forms

variable {f : Word → Word → Word} {f1 : Word → Word} {fi : Word → BitVec 16 → Word} {fs : Word → Nat → Word} {opc : Nat}

/-- An instruction that executes as `pureOp` writes its function of the sources to xd, in all three forms. -/
theorem writes_of_pureOp {i : Instr} {h : Hd} {g : Bool} {srcs : List Reg} {xd : Reg} {k : In → Word}
    (he : ∀ s, exec i s = pureOp h g srcs xd k s) : Writes i h g srcs xd k :=
  regEffect_of_regInstr rfl he

theorem rsv_of_not {z : Bool} {k : Except DecErr Instr} (hz : z = false) : rsv z k = .error .reservedBits := by
  simp [rsv, hz]

/-- A three-register operation (R244). -/
theorem op3_of_exec {mk : Hd → R3 → Instr} (ho : opInfo opc = some ⟨.X3, true, false⟩)
    (hw : ∀ h r, encBody (mk h r) = some (h, opc, X3Tail.pack ⟨r.xd, r.xa, r.xb, r.g⟩))
    (he : ∀ h r s, exec (mk h r) s = op3 h r f s) : Op3 mk opc f :=
  ⟨ho, fun h r => ⟨hw h r, writes_of_pureOp (he h r)⟩⟩

/-- A one-register operation, whose xb is reserved (R245). -/
theorem op2_of_exec {mk : Hd → R2 → Instr} (ho : opInfo opc = some ⟨.X3, true, false⟩)
    (hw : ∀ h r, encBody (mk h r) = some (h, opc, X3Tail.pack ⟨r.xd, r.xa, 0, r.g⟩))
    (hd : ∀ h t, decX3 opc h t = rsv (t.xb == 0) (.ok (mk h t.r2)))
    (he : ∀ h r s, exec (mk h r) s = op2 h r f1 s) : Op2 mk opc f1 :=
  ⟨ho, fun h r => ⟨hw h r, writes_of_pureOp (he h r), fun t ht => (hd h t).trans (rsv_of_not (by simpa using ht))⟩⟩

theorem op2_congr {mk : Hd → R2 → Instr} {f2 : Word → Word} (hf : ∀ a, f1 a = f2 a) (ho : Op2 mk opc f1) : Op2 mk opc f2 :=
  funext hf ▸ ho

/-- An operation with an immediate, whose sub is reserved (R246). -/
theorem opImm_of_exec {mk : Hd → RI → Instr} (ho : opInfo opc = some ⟨.XI, true, false⟩)
    (hw : ∀ h r, encBody (mk h r) = some (h, opc, XITail.pack ⟨r.xd, r.xa, r.g, 0, r.imm.toNat⟩))
    (hd : ∀ h t, decXI opc h t = rsv (t.sub == 0) (.ok (mk h t.ri)))
    (he : ∀ h r s, exec (mk h r) s = opI h r (fi · r.imm) s) : OpImm mk opc fi :=
  ⟨ho, fun h r => ⟨hw h r, writes_of_pureOp (he h r), fun t ht => (hd h t).trans (rsv_of_not (by simpa using ht))⟩⟩

/-- A shift's tail names an amount or a register, or has reserved bits (R250). -/
theorem decShift_reserved {t : XITail} {k : R2 → ShAmt → Instr} (hi : ¬ (t.sub = 0 ∧ t.imm < 64))
    (hr : ¬ (t.sub = 1 ∧ t.imm < 32)) : decShift t k = .error .reservedBits := by
  unfold decShift
  split
  case isTrue hs =>
    have h0 : t.sub = 0 := by simpa using hs
    exact rsv_of_not (by simpa using fun hl => hi ⟨h0, hl⟩)
  case isFalse =>
    exact rsv_of_not (by simpa [XITail.immReg] using fun h1 => Nat.le_of_not_lt fun hl => hr ⟨h1, hl⟩)

/-- A shift or rotate (R250). -/
theorem opShift_of_exec {mk : Hd → R2 → ShAmt → Instr} (ho : opInfo opc = some ⟨.XI, true, false⟩)
    (hwi : ∀ h r n, encBody (mk h r (.imm n)) = some (h, opc, XITail.pack ⟨r.xd, r.xa, r.g, 0, n.toNat⟩))
    (hwr : ∀ h r xb, encBody (mk h r (.reg xb)) = some (h, opc, XITail.pack ⟨r.xd, r.xa, r.g, 1, xb.toNat⟩))
    (hd : ∀ h t, decXI opc h t = decShift t (mk h))
    (he : ∀ h r a s, exec (mk h r a) s = shiftOp h r a fs s) : OpShift mk opc fs :=
  ⟨ho, fun h r n => ⟨hwi h r n, writes_of_pureOp (he h r (.imm n))⟩,
    fun h r xb => ⟨hwr h r xb, writes_of_pureOp (he h r (.reg xb)), fun t hi hr => (hd h t).trans (decShift_reserved hi hr)⟩⟩

end Forms

/-! ## Functions on words

What the model computes bit by bit is the operation of `BitVec` that the claims name. -/

/-- Below leading zeros down to bit n, `BitVec.clz` goes on counting as `clzBits` does. -/
theorem clzAuxRec_eq_clzBits (a : Word) (n : Nat) (hn : n < 64) : a.clzAuxRec n = w64 (63 - n + clzBits a (n + 1)) := by
  induction n with
  | zero => rw [BitVec.clzAuxRec_zero, clzBits, clzBits]; cases a.getLsbD 0 <;> rfl
  | succ n ih =>
    rw [BitVec.clzAuxRec_succ, clzBits]
    cases a.getLsbD (n + 1)
    · rw [if_neg Bool.false_ne_true, if_neg Bool.false_ne_true, ih (by omega)]
      congr 1
      omega
    · rfl

theorem w64_clzBits (a : Word) : w64 (clzBits a 64) = a.clz := by
  rw [BitVec.clz, clzAuxRec_eq_clzBits a 63 (by omega), Nat.sub_self, Nat.zero_add]

theorem getLsbD_reverse_word (a : Word) (k : Nat) (hk : k < 64) : a.reverse.getLsbD k = a.getLsbD (63 - k) := by
  rw [BitVec.getLsbD_reverse, BitVec.getMsbD_eq_getLsbD, decide_eq_true hk, Bool.true_and]

/-- The leading zeros of the reversed word are the trailing zeros of the word. -/
theorem clzBits_reverse (a : Word) (n : Nat) (hn : n ≤ 64) : clzBits a.reverse n = ctzBits a (64 - n) n := by
  induction n with
  | zero => rfl
  | succ n ih =>
    have hbit : a.reverse.getLsbD n = a.getLsbD (64 - (n + 1)) := by
      rw [getLsbD_reverse_word a n (by omega)]
      congr 1
      omega
    rw [clzBits, ctzBits, hbit, ih (by omega), show 64 - (n + 1) + 1 = 64 - n by omega]

theorem w64_ctzBits (a : Word) : w64 (ctzBits a 0 64) = a.ctz := by
  rw [BitVec.ctz, ← w64_clzBits, clzBits_reverse a 64 (Nat.le_refl 64)]

/-- `BitVec.cpop` adds up the one bits that `popBits` counts. -/
theorem cpopNatRec_eq_popBits (a : Word) (n : Nat) : ∀ acc, a.cpopNatRec n acc = acc + popBits a n := by
  induction n with
  | zero => intro acc; rfl
  | succ n ih =>
    intro acc
    rw [BitVec.cpopNatRec_succ, ih, popBits, b2n, Bool.toNat]
    cases a.getLsbD n
    · rfl
    · exact Nat.add_right_comm acc 1 _

theorem w64_popBits (a : Word) : w64 (popBits a 64) = a.cpop := by
  rw [BitVec.cpop, cpopNatRec_eq_popBits, Nat.zero_add, w64]

/-- A bit of a word as a number. -/
theorem b2n_getLsbD (a : Word) (k : Nat) : b2n (a.getLsbD k) = a.toNat / 2 ^ k % 2 := by
  rw [BitVec.getLsbD, Nat.testBit_eq_decide_div_mod_eq]
  rcases Nat.mod_two_eq_zero_or_one (a.toNat / 2 ^ k) with h | h <;> simp [h]

/-- The first n steps of the reversal give the top n bits of the reversed word. -/
theorem fold_eq_top_of_reverse (a : Word) (n : Nat) (hn : n ≤ 64) :
    (List.range n).foldl (fun r i => r + b2n (a.getLsbD i) * 2 ^ (63 - i)) 0 =
      a.reverse.toNat / 2 ^ (64 - n) * 2 ^ (64 - n) := by
  induction n with
  | zero => rw [Nat.div_eq_of_lt a.reverse.isLt, Nat.zero_mul]; rfl
  | succ n ih =>
    have hbit : b2n (a.getLsbD n) = a.reverse.toNat / 2 ^ (63 - n) % 2 := by
      rw [← b2n_getLsbD, getLsbD_reverse_word a _ (by omega)]
      congr 2
      omega
    have hpow : 2 ^ (64 - n) = 2 ^ (63 - n) * 2 := by rw [← Nat.pow_succ]; congr 1; omega
    rw [List.range_succ, List.foldl_append, ih (by omega), List.foldl_cons, List.foldl_nil, hbit, hpow,
      show 64 - (n + 1) = 63 - n by omega, ← Nat.div_div_eq_div_mul]
    generalize a.reverse.toNat / 2 ^ (63 - n) = q
    generalize 2 ^ (63 - n) = p
    calc q / 2 * (p * 2) + q % 2 * p = (2 * (q / 2) + q % 2) * p := by
          rw [Nat.mul_comm p 2, ← Nat.mul_assoc, Nat.mul_comm (q / 2), ← Nat.add_mul]
      _ = q * p := by rw [Nat.div_add_mod]

theorem revBits_eq_reverse (a : Word) : revBits a = a.reverse := by
  rw [revBits, fold_eq_top_of_reverse a 64 (Nat.le_refl 64), Nat.sub_self, Nat.pow_zero, Nat.div_one, Nat.mul_one, w64, BitVec.ofNat_toNat,
    BitVec.setWidth_eq]

/-- The i-th byte of a number (R7). -/
theorem toBytes_getElem (n : Nat) : ∀ v i (hi : i < (toBytes n v).length), (toBytes n v)[i] = BitVec.ofNat 8 (v / 256 ^ i) := by
  induction n with
  | zero => intro v i hi; exact absurd hi (Nat.not_lt_zero i)
  | succ n ih =>
    intro v i hi
    cases i with
    | zero => simp [toBytes]
    | succ i => simp only [toBytes, List.getElem_cons_succ, ih, Nat.div_div_eq_div_mul, Nat.pow_succ, Nat.mul_comm]

/-- The i-th byte of the number that bytes hold is the i-th of them (R7). -/
theorem ofNat_leNat (bs : List Byte) : ∀ i (hi : i < bs.length), BitVec.ofNat 8 (leNat bs / 256 ^ i) = bs[i] := by
  induction bs with
  | nil => intro i hi; exact absurd hi (Nat.not_lt_zero i)
  | cons b bs ih =>
    intro i hi
    have hb := b.isLt
    cases i with
    | zero =>
      apply BitVec.eq_of_toNat_eq
      simp [leNat]
      omega
    | succ i =>
      have hq : (b.toNat + 256 * leNat bs) / 256 = leNat bs := by omega
      rw [List.getElem_cons_succ, ← ih i (Nat.lt_of_succ_lt_succ hi), leNat, Nat.pow_succ, Nat.mul_comm (256 ^ i),
        ← Nat.div_div_eq_div_mul, hq]

/-- A byte of a word, cut out of the number that the word is made of. -/
theorem extractByte_ofNat (v i : Nat) (hi : i < 8) :
    (w64 v).extractLsb' (8 * i) 8 = BitVec.ofNat 8 (v / 256 ^ i) := by
  have hp : 256 ^ i = 2 ^ (8 * i) := by rw [Nat.pow_mul]
  ext j hj
  have hk : 8 * i + j < 64 := by omega
  rw [BitVec.getElem_extractLsb', ← BitVec.getLsbD_eq_getElem, w64, BitVec.getLsbD_ofNat, BitVec.getLsbD_ofNat, hp,
    Nat.testBit_div_two_pow, decide_eq_true hj, decide_eq_true hk, Nat.add_comm]

/-- Byte i of the reversal is byte 7 − i (R245). -/
theorem revBytes_byte (a : Word) (i : Nat) (hi : i < 8) :
    (revBytes a).extractLsb' (8 * i) 8 = a.extractLsb' (8 * (7 - i)) 8 := by
  have hl := toBytes_length 8 a.toNat
  have ha : w64 a.toNat = a := BitVec.ofNat_toNat _ _ |>.trans (BitVec.setWidth_eq a)
  calc (revBytes a).extractLsb' (8 * i) 8
      = (toBytes 8 a.toNat).reverse[i]'(by simp [hl, hi]) := by rw [revBytes, extractByte_ofNat _ _ hi, ofNat_leNat]
    _ = (toBytes 8 a.toNat)[7 - i]'(by omega) := by simp [List.getElem_reverse, hl]
    _ = (w64 a.toNat).extractLsb' (8 * (7 - i)) 8 := by rw [toBytes_getElem, extractByte_ofNat _ _ (by omega)]
    _ = a.extractLsb' (8 * (7 - i)) 8 := by rw [ha]

theorem mul_eq_ofNat (a b : Word) : a * b = BitVec.ofNat 64 (a.toNat * b.toNat) :=
  BitVec.eq_of_toNat_eq (by rw [BitVec.toNat_mul, BitVec.toNat_ofNat])

/-- Bits [63 + n : n] of a : b (R251). -/
theorem funnel_eq_ofNat (a b : Word) (n : Nat) :
    ((a ++ b : BitVec 128) >>> n).extractLsb' 0 64 = BitVec.ofNat 64 ((a.toNat * 2 ^ 64 + b.toNat) / 2 ^ n) := by
  apply BitVec.eq_of_toNat_eq
  rw [BitVec.extractLsb'_toNat, BitVec.toNat_ushiftRight, BitVec.toNat_append, ← Nat.shiftLeft_add_eq_or_of_lt b.isLt,
    Nat.shiftLeft_eq, Nat.shiftRight_zero, Nat.shiftRight_eq_div_pow, BitVec.toNat_ofNat]

/-! ## The statements -/

/-- Settles O1: each of the nine executes as `op3`; the word that `mul` writes is the product of the numbers. -/
theorem threeRegisterOperations : Obligations.ThreeRegisterOperations := by
  have hmul : ∀ h r s, exec (.mul h r) s = op3 h r (fun a b => BitVec.ofNat 64 (a.toNat * b.toNat)) s := by
    intro h r s
    simp only [← mul_eq_ofNat]
    rfl
  refine ⟨?_, ?_, op3_of_exec rfl (fun _ _ => rfl) hmul, ?_, ?_, ?_, ?_, ?_, ?_⟩
  all_goals exact op3_of_exec rfl (fun _ _ => rfl) fun _ _ _ => rfl

/-- Settles O2: each executes as `op2`, and what the model counts or reverses bit by bit is the operation of `BitVec`. -/
theorem oneRegisterOperations : Obligations.OneRegisterOperations := by
  refine ⟨op2_congr w64_clzBits ?_, op2_congr w64_ctzBits ?_, op2_congr w64_popBits ?_, op2_congr revBits_eq_reverse ?_, ?_,
    revBytes, ?_, revBytes_byte⟩
  all_goals exact op2_of_exec rfl (fun _ _ => rfl) (fun _ _ => rfl) fun _ _ _ => rfl

/-- Settles O3: each executes as `opI`, with the immediate extended as R246 says. -/
theorem immediateOperations : Obligations.ImmediateOperations := by
  refine ⟨?_, ?_, ?_, ?_⟩
  all_goals exact opImm_of_exec rfl (fun _ _ => rfl) (fun _ _ => rfl) fun _ _ _ => rfl

/-- `shfi` refuses sub and imm16[15:11] that are not zero (R251). -/
theorem decXI_shfi_reserved {h : Hd} {t : XITail} (ht : t.sub ≠ 0 ∨ 2 ^ 11 ≤ t.imm) :
    decXI 0x26 h t = .error .reservedBits :=
  rsv_of_not (by
    rcases ht with hs | hi
    · rw [beq_false_of_ne hs, Bool.false_and]
    · rw [decide_eq_false (Nat.not_lt.2 hi), Bool.and_false])

/-- Settles O5: the shifts execute as `shiftOp`, and `shfi` as an `op3` whose word is cut from the 128-bit value. -/
theorem shiftsAndRotates : Obligations.ShiftsAndRotates := by
  have hshfi : ∀ h r n s, exec (.shfi h r n) s =
      op3 h r (fun a b => BitVec.ofNat 64 ((a.toNat * 2 ^ 64 + b.toNat) / 2 ^ n.toNat)) s := by
    intro h r n s
    simp only [← funnel_eq_ofNat]
    rfl
  refine ⟨?_, ?_, ?_, ?_, rfl, fun h r n => ⟨rfl, writes_of_pureOp (hshfi h r n), fun t ht => decXI_shfi_reserved ht⟩⟩
  all_goals exact opShift_of_exec rfl (fun _ _ _ => rfl) (fun _ _ _ => rfl) (fun _ _ => rfl) fun _ _ _ _ => rfl

/-! ## Pausing and ending (R241 to R243) -/

/-- The head of a current thread does what its first case says. -/
theorem withCur_thread {s : State} {t : Thread} {fT : Thread → Res} {fG : Gang → Res} {h : Hd} (hr : RunsT s t h) :
    withCur s fT fG = fT t := by
  obtain ⟨hc, ht, -⟩ := hr
  simp only [withCur, hc, ht]

/-- The head of a current gang does what its second case says. -/
theorem withCur_gang {s : State} {g : Gang} {fT : Thread → Res} {fG : Gang → Res} (hr : RunsG s g) :
    withCur s fT fG = fG g := by
  obtain ⟨hc, hn, hg⟩ := hr
  simp only [withCur, hc, hn, hg]

theorem exec_sleep_thread {s : State} {t : Thread} {h : Hd} {ticks : BitVec 16} (hr : RunsT s t h) :
    exec (.sleep h ticks) s =
      if t.ipiPending then .next (doneT t.id (s.updThread t.id fun t => { t with ipiPending := false }))
      else .next (s.updThread t.id fun t =>
        { t.next with state := .sleeping (if ticks = 0 then none else some (s.cc + 16 * ticks.toNat)) }) := by
  have hg : t.guard h = true := hr.2.2
  calc exec (.sleep h ticks) s = execSleep h ticks s := rfl
    _ = _ := by rw [execSleep, withCur_thread hr, hg]; rfl

/-- A gang with an active lane is offered a switch; one without goes on (R241, R427). -/
theorem exec_yield_gang {s : State} {g : Gang} {h : Hd} (hr : RunsG s g) :
    exec (.yield h) s = .next (doneG g.id
      (if (g.active h).isEmpty then s else s.updGang g.id fun g => { g with yieldDue := !g.stack.isEmpty })) :=
  withCur_gang hr

/-- The exit of a thread that holds no count: no copy delays it, and its release is of scope .dv. -/
theorem exitThread_of_released {s s1 : State} {t t2 : Thread} {code : Word} (hm : t.msg = none) (hk : t.caps = [])
    (hrel : releaseThread t.id .dv (settleLoads t.id s) = .ok s1) (ht2 : s1.thread? t.id = some t2) (hu : t2.unacked = 0) :
    exitThread t code s = .next (endThread t2 code s1) := by
  simp [exitThread, hm, hk, hrel, ht2, hu]

/-- `exit` of a thread that can read its code is `Exit`. -/
theorem exec_exit_thread {s : State} {t t1 : Thread} {h : Hd} {xa : Reg} {code : Word} (hr : RunsT s t h)
    (hrd : ReadsT s t [xa.toNat] [code] t1) : exec (.exit h xa) s = exitThread t code s := by
  have hg : t.guard h = true := hr.2.2
  obtain ⟨hx, he⟩ := hrd
  calc exec (.exit h xa) s = execExit h xa s := rfl
    _ = exitThread t code s := by
      rw [List.map_singleton] at he
      simp only [execExit, withCur_thread hr, hg, Bool.not_true, Bool.false_eq_true, ↓reduceIte, readX_of_readXs hx, he]

/-- The capabilities of lanes none of which holds one. -/
theorem filter_caps_eq_nil {g : Gang} {act : List Nat} (hk : ∀ k ∈ g.caps, k.1 ∉ act) :
    (g.caps.filter fun k => act.contains k.1) = [] := by
  simpa [List.filter_eq_nil_iff] using hk

/-- `exit` of the active lanes of a grid gang that hold no count: their release is of scope .dv. -/
theorem exec_exit_gang {s s1 : State} {g : Gang} {h : Hd} {xa : Reg} {codes : List (Nat × Word)} (hr : RunsG s g)
    (hx : g.xOk [xa.toNat] = true) (hgal : g.galley = false) (ha : g.active h ≠ [])
    (hrd : (g.active h).mapM (fun l => (g.readX xa.toNat l).map fun v => (l, v)) = some codes)
    (he : ∀ l ∈ g.active h, s.regErr g.id [xDst xa.toNat l] = none) (hk : ∀ k ∈ g.caps, k.1 ∉ g.active h)
    (hrel : releaseGang g.id .dv (settleLoads g.id s) = .ok s1) :
    exec (.exit h xa) s = .next (endLanes g codes s1) := by
  have herr : ((g.active h).findSome? fun l =>
      (s.regErr g.id [xDst xa.toNat l]).map fun e => (l, machineTrap e.st e.va)) = none := by
    simpa [List.findSome?_eq_none_iff] using he
  calc exec (.exit h xa) s = execExit h xa s := rfl
    _ = .next (endLanes g codes s1) := by
      rw [execExit, withCur_gang hr]
      simp only [hx, hgal, active_isEmpty ha, hrd, herr, filter_caps_eq_nil hk, hrel, List.map_nil, List.isEmpty_nil,
        Bool.not_true, Bool.false_and, Bool.false_eq_true, ↓reduceIte]

/-- Settles O16: one lemma per instruction and kind of core. -/
theorem pausesAndExit : Obligations.PausesAndExit := by
  refine ⟨fun s h => ⟨fun t hr => ⟨withCur_thread hr, withCur_thread hr, fun ticks => ⟨fun hi => ?_, fun hi => ?_⟩⟩,
    fun g hr => ⟨withCur_gang hr, fun ha => ?_, fun ha => ?_⟩⟩, fun s h xa => ⟨?_, fun _ _ _ => exec_exit_gang⟩⟩
  · rw [exec_sleep_thread hr, if_pos hi]
  · rw [exec_sleep_thread hr, hi, if_neg Bool.false_ne_true]
  · rw [exec_yield_gang hr, ha, List.isEmpty_nil, if_pos rfl]
  · rw [exec_yield_gang hr, active_isEmpty ha, if_neg Bool.false_ne_true]
  · intro t t1 code s1 t2 hr hrd hm hk hrel ht2 hu
    rw [exec_exit_thread hr hrd, exitThread_of_released hm hk hrel ht2 hu]

end Sys2Proof.Machine
